-- ==== Sys2Proof/Word.lean ====
section
/-! DEFINITION. The words the SW4802 handles and the numbers it names its parts by
(00_scope, "Numbers used throughout"). -/

namespace Sys2Proof

/-- A host-bus word: 32 bits. -/
abbrev Word := BitVec 32

/-- One byte, of a host word or of source memory. -/
abbrev Byte := BitVec 8

/-- An output pixel or a background colour: red 23:16, green 15:8, blue 7:0. -/
abbrev Colour := BitVec 24

/-- Byte-lane enables of a host write; lane 0 is bits 7:0 (words are little-endian). -/
abbrev Lanes := BitVec 4

/-- A client and its channel: 0 to 7. Client 0 is the supervisor. -/
abbrev ClientId := Fin 8

/-- A window record: 0 to 47. -/
abbrev WindowId := Fin 48

/-- A head: 0 or 1. -/
abbrev HeadId := Fin 2

/-- A tag of the Tag Table: 0 to 15. -/
abbrev TagNo := Fin 16

/-- A line slot of a head: 0, 1 or 2. -/
abbrev SlotNo := Fin 3

/-- A page of the part on the host bus: channel pages 0 to 7, device control page 8 (R160). -/
abbrev PageNo := Fin 9

/-- A word of a 4,096-byte page: byte offset / 4. -/
abbrev WordIndex := BitVec 10

end Sys2Proof
end

