-- ==== Sys2Proof/Syntax.lean ====
section
/-! DEFINITION. The commands of the SW4802: one constructor per row of spec/opcode_table.json. -/

namespace Sys2Proof

/-- The status field of a response beat on the Memory Request Port (6.13). -/
inductive RespStatus where
  | ok
  | error
deriving DecidableEq, Repr

/-- One beat of a response on the Memory Request Port (R110): its tag, status and data bytes, in
ascending address order. Which beat carries `last` is its place in `Instr.responseArrival`. -/
structure Beat where
  tag    : TagNo
  status : RespStatus
  data   : List Byte
deriving DecidableEq, Repr

/-- The steps of the part (95, "each whole and indivisible").

The first 22 are steps of the Command Engine: it takes one message and carries out its command
(R170). A message is not chosen by the sender of the step: the channel is the one R169 gives, and
the sequence number and argument words are those in its command FIFO (log 1). -/
inductive Instr where
  /-- RESERVE (R8, R9) -/
  | reserve
  /-- PLACE (R26) -/
  | place
  /-- SOURCE (R27) -/
  | source
  /-- KEY (R28) -/
  | key
  /-- SHOW (R29) -/
  | showWindow
  /-- HIDE (R29) -/
  | hideWindow
  /-- RETIRE (R10, R30) -/
  | retire
  /-- COMMIT (R32, R33) -/
  | commit
  /-- QUERY_WINDOW (R19 to R21) -/
  | queryWindow
  /-- SET_TIMING (R48) -/
  | setTiming
  /-- START_HEAD (R58) -/
  | startHead
  /-- STOP_HEAD (R60, R42) -/
  | stopHead
  /-- QUERY_HEAD (R63) -/
  | queryHead
  /-- OPEN_CLIENT (R139, R140) -/
  | openClient
  /-- CLOSE_CLIENT (R141, R142, R44) -/
  | closeClient
  /-- SET_APERTURE (R146) -/
  | setAperture
  /-- SET_HEADS (R148) -/
  | setHeads
  /-- QUERY_CLIENT (R149) -/
  | queryClient
  /-- RECLAIM_TAGS (R122) -/
  | reclaimTags
  /-- FETCH_NOTICES (R155) -/
  | fetchNotices
  /-- SET_NOTICE_MASK (R154) -/
  | setNoticeMask
  /-- A taken message whose command code is in no row of the command table (R171) -/
  | unknownCommandCode
  /-- A host write to COMMAND of channel `ch`'s page (R162) -/
  | commandWrite (ch : ClientId) (lanes : Lanes) (data : Word)
  /-- A host read of RESPONSE of channel `ch`'s page (R164) -/
  | responseRead (ch : ClientId)
  /-- A host write to CONTROL of channel `ch`'s page (R163) -/
  | resync (ch : ClientId) (lanes : Lanes) (data : Word)
  /-- A host write to word 0 of the device control page (R166) -/
  | reset (lanes : Lanes) (data : Word)
  /-- A host write to a word whose writes are discarded (R160, R163, R166) -/
  | hostWriteDiscarded (page : PageNo) (word : WordIndex) (lanes : Lanes) (data : Word)
  /-- RESET_N goes low (R166) -/
  | resetN
  /-- A line start of head `h` (R49, R83) -/
  | lineStart (h : HeadId)
  /-- The line start that brings the age of tag `t` to 4 (R120, log 5) -/
  | tagExpiry (t : TagNo)
  /-- The line start of head `h` whose frame judgement is the third miss in a row (R77, log 5) -/
  | lossOfLock (h : HeadId)
  /-- The active start of head `h`'s line in progress (R51, R117, R118) -/
  | activeStart (h : HeadId)
  /-- A rising edge on MARKn (R69) -/
  | markArrival (h : HeadId)
  /-- The Memory Request Port accepts the request the Port Arbiter offers (R106) -/
  | requestIssue
  /-- One whole response: the beats before the last, and the beat that carries last (R110) -/
  | responseArrival (earlier : List Beat) (final : Beat)
  /-- One period of PCLKn (R49, R126) -/
  | pixelPeriod (h : HeadId)
  /-- RESET_N rises (R166) -/
  | resetNRise
deriving DecidableEq, Repr

end Sys2Proof
end

