-- ==== Sys2Proof/Machine/Fields.lean ====
section
/-! DEFINITION. Bit fields of host words, read and written as the layout tables of 10.8 give them. -/

namespace Sys2Proof.Machine

/-- Bits hi:lo of a word, as an unsigned number. -/
def fieldOf (w : Word) (hi lo : Nat) : Nat := (w.extractLsb hi lo).toNat

/-- A word that carries `v` in bits hi:lo and 0 elsewhere. -/
def fieldWord (hi lo v : Nat) : Word := (BitVec.ofNat (hi - lo + 1) v).setWidth 32 <<< lo

/-- A mark bit of a layout: 1 for yes. -/
def markBit (b : Bool) : Nat := if b then 1 else 0

/-- A word built from its fields, each as (hi, lo, value); every other bit is 0 (R174). -/
def packWord (fields : List (Nat × Nat × Nat)) : Word :=
  fields.foldl (fun acc f => acc ||| fieldWord f.1 f.2.1 f.2.2) 0

/-- R160: a host write is taken as a whole word, the bytes of lanes not enabled taken as 0. -/
def maskLanes (lanes : Lanes) (data : Word) : Word :=
  (if lanes.getLsbD 0 then data &&& 0x000000FF#32 else 0)
  ||| (if lanes.getLsbD 1 then data &&& 0x0000FF00#32 else 0)
  ||| (if lanes.getLsbD 2 then data &&& 0x00FF0000#32 else 0)
  ||| (if lanes.getLsbD 3 then data &&& 0xFF000000#32 else 0)

/-- Word index of COMMAND in a channel page (byte offset 0h). -/
def commandIndex : WordIndex := 0
/-- Word index of RESPONSE (byte offset 4h). -/
def responseIndex : WordIndex := 1
/-- Word index of STATUS (byte offset 8h). -/
def statusIndex : WordIndex := 2
/-- Word index of CONTROL (byte offset Ch). -/
def controlIndex : WordIndex := 3
/-- The device control page (8000h). -/
def devicePage : PageNo := 8

/-- The action field of CONTROL and of the device control word: bits 7:0. -/
def actionOf (w : Word) : Nat := fieldOf w 7 0
/-- CONTROL action RESYNC. -/
def actionResync : Nat := 0x01
/-- Device control action RESET. -/
def actionReset : Nat := 0x01

end Sys2Proof.Machine
end

