-- ==== Sys2Proof/Machine/Limits.lean ====
section
/-! DEFINITION. The fixed numbers of the SW4802 (00_scope, "Numbers used throughout"). -/

namespace Sys2Proof.Machine

/-- Words in a command FIFO and in a response FIFO (R161). -/
def fifoDepth : Nat := 16
/-- Free response words a channel needs to be eligible (R168). -/
def responseRoom : Nat := 8
/-- Spans per line (R93). -/
def maxSpans : Nat := 32
/-- Layers per span (R91). -/
def maxLayers : Nat := 4
/-- Byte budget per line slot (R95). -/
def byteBudget : Nat := 16384
/-- The aligned block a request stays within (R103). -/
def blockBytes : Nat := 256
/-- Bytes of an aperture granule (R136). -/
def granuleBytes : Nat := 4096
/-- The last granule of the address space (R136). -/
def lastGranule : Nat := 1048575
/-- Bytes of the address space, 4 GiB (R7). -/
def addressSpace : Nat := 2 ^ 32
/-- The age at which a tag is ABANDONED (R120). -/
def expiryAge : Nat := 4
/-- Consecutive misses that lose the lock (R76, R77). -/
def missLimit : Nat := 3
/-- The largest quota (R136). -/
def maxQuota : Nat := 48

/-- All windows, in ascending id order. -/
def allWindows : List WindowId := List.finRange 48
/-- All tags, in ascending number. -/
def allTags : List TagNo := List.finRange 16
/-- The line slots, in ascending number. -/
def allSlots : List SlotNo := List.finRange 3
/-- The heads, head 0 first. -/
def allHeads : List HeadId := List.finRange 2
/-- All clients, in ascending number. -/
def allClients : List ClientId := List.finRange 8

end Sys2Proof.Machine
end

