-- ==== Sys2Proof/Machine/State.lean ====
section
/-! DEFINITION. The state of the SW4802 as plain data: every table, queue, slot, FIFO and record the
manual names (INVENTORY.md, "State"), the queue of waiting commands, and the state after reset. -/

namespace Sys2Proof.Machine

/-! ### Windows (01) -/

/-- Source pixel format (00, "Pixel formats"). -/
inductive PixelFormat where
  | p16
  | p32
deriving DecidableEq, Repr

/-- Where a window lies, in pixels of the head's active region (1.1.1). -/
structure Geometry where
  x      : Nat
  y      : Nat
  width  : Nat
  height : Nat
deriving DecidableEq, Repr

/-- Where a window's rows lie in memory (1.1.1). Addresses are 32-bit byte addresses, kept as
numbers: R7 keeps every address computed from them below 2^32 (log 10). -/
structure Source where
  format  : PixelFormat
  base    : Nat
  pitch   : Nat
  scrollX : Nat
  scrollY : Nat
deriving DecidableEq, Repr

/-- The fields both images of a window carry (1.1.1). -/
structure Image where
  visible  : Bool
  geometry : Option Geometry
  depth    : Nat
  source   : Option Source
  ringRows : Option Nat
  key      : Option Word
deriving DecidableEq, Repr

/-- A staged image: the image fields, and retire pending, which it alone carries (R2). -/
structure Staged where
  image         : Image
  retirePending : Bool
deriving DecidableEq, Repr

/-- The staged image RESERVE creates (R2): the defaults of the table in 1.1.1. -/
def Staged.fresh : Staged :=
  { image := { visible := false, geometry := none, depth := 0, source := none, ringRows := none, key := none }
    retirePending := false }

/-- What a window that is not FREE holds in every state (R1). -/
structure Held where
  owner  : ClientId
  head   : HeadId
  staged : Staged
deriving DecidableEq, Repr

/-- The life-cycle state of a window with the fields present in it (R1): owner, head and staged
image unless FREE, a live image exactly in LIVE and RETIRING, and there perhaps a fault, which is
the address of the request that failed (R4). -/
inductive Life where
  | free
  | reserved (held : Held)
  | live (held : Held) (image : Image) (fault : Option Nat)
  | retiring (held : Held) (image : Image) (fault : Option Nat)
deriving DecidableEq, Repr

/-- A window record (1.1). -/
structure Window where
  life : Life
  refs : Nat
deriving DecidableEq, Repr

/-! ### Clients (08) -/

/-- A set of heads (R136; 10.8: 0 none, 1 head 0, 2 head 1, 3 both). -/
structure HeadSet where
  head0 : Bool
  head1 : Bool
deriving DecidableEq, Repr

/-- An aperture: granules of 4 KiB from `base` to `limit` (R136). -/
structure Aperture where
  base  : Nat
  limit : Nat
deriving DecidableEq, Repr

/-- Client states (R136); `opened` is the manual's OPEN. -/
inductive ClientState where
  | closed
  | opened
  | closing
deriving DecidableEq, Repr

/-- A client record (R136). -/
structure Client where
  state    : ClientState
  quota    : Nat
  held     : Nat
  aperture : Option Aperture
  heads    : HeadSet
deriving DecidableEq, Repr

/-- The record of a CLOSED client (R136, R144, R150). -/
def Client.closedRecord : Client :=
  { state := .closed, quota := 0, held := 0, aperture := none, heads := ⟨false, false⟩ }

/-- The record of client 0 at device reset (R137). -/
def Client.supervisor : Client :=
  { state := .opened, quota := 48, held := 0, aperture := some ⟨0, 1048575⟩, heads := ⟨true, true⟩ }

/-! ### Raster timing (03, 04) -/

/-- A timing set (3.1). -/
structure TimingSet where
  lineTotal        : Nat
  lineSyncEnd      : Nat
  activeStartPixel : Nat
  activeWidth      : Nat
  frameTotal       : Nat
  frameSyncEnd     : Nat
  activeFirstLine  : Nat
  activeHeight     : Nat
  commitLine       : Nat
  captureBand      : Nat
  background       : Colour
deriving DecidableEq, Repr

/-- Head states (3.4). -/
inductive HeadState where
  | stopped
  | freeRun
  | seeking
  | locked
  | holdover
deriving DecidableEq, Repr

/-- The frame tally (R68): marks taken in the frame in progress. -/
inductive Tally where
  | zero
  | one
  | many
deriving DecidableEq, Repr

/-! ### Line slots (05) -/

/-- Segment status (5.1). -/
inductive SegStatus where
  | pending
  | filled
  | absent
deriving DecidableEq, Repr

/-- One window's contribution to one span (5.1, R94). `bytes` are the segment bytes that have come,
each at its offset in the segment, offsets rising. -/
structure Layer where
  window  : WindowId
  format  : PixelFormat
  key     : Option Word
  rowAddr : Nat
  offset  : Nat
  status  : SegStatus
  bytes   : List Host.Cell
  arrived : Nat
deriving DecidableEq, Repr

/-- A run of columns, both ends included, that share one layer stack, top to bottom (5.1). -/
structure Span where
  xStart : Nat
  xEnd   : Nat
  layers : List Layer
deriving DecidableEq, Repr

/-- The state of a slot that holds an active line (R81). -/
inductive Phase where
  | fetching
  | complete
  | showing
deriving DecidableEq, Repr

/-- A resolved active line (R81). -/
structure ActiveLine where
  phase  : Phase
  line   : Nat
  spans  : List Span
  budget : Nat
deriving DecidableEq, Repr

/-- A line slot with the fields present in its state (R81): EMPTY holds nothing, BLANK a line
number, FETCHING, COMPLETE and SHOWING a line, its spans and its budget used. -/
inductive Slot where
  | empty
  | blank (line : Nat)
  | active (content : ActiveLine)
deriving DecidableEq, Repr

/-- The position of a piece of a slot: span, layer and byte offset in the segment (R101). -/
structure Pos where
  span   : Nat
  layer  : Nat
  offset : Nat
deriving DecidableEq, Repr

/-- A Line Assembler that holds a slot: its showing slot and output position (R125). -/
structure Showing where
  slot     : SlotNo
  position : Nat
deriving DecidableEq, Repr

/-- All that is kept once for each head: Raster Timer, line slots, fetch cursor, Line Assembler,
Commit Queue and Depth List. -/
structure Head where
  state        : HeadState
  timing       : Option TimingSet
  /-- pixel counter (R49) -/
  pixel        : Nat
  /-- line counter (R49) -/
  line         : Nat
  /-- frame count, modulo 65,536 (R50) -/
  frames       : BitVec 16
  /-- miss count (R68) -/
  misses       : Nat
  /-- frame tally (R68) -/
  tally        : Tally
  /-- band mark (R68) -/
  bandMark     : Bool
  /-- pending wrap (R68) -/
  pendingWrap  : Bool
  /-- the first line start after START_HEAD has not come yet (R59, log 23) -/
  startPending : Bool
  slots        : Vector Slot 3
  /-- fetch cursor: the next piece of each slot it holds (R101) -/
  cursor       : Vector (Option Pos) 3
  showing      : Option Showing
  commitQueue  : List ClientId
  depthList    : List WindowId
deriving DecidableEq, Repr

/-- A head at device reset (R67, R68, R81, R22, R124, R125). -/
def Head.reset : Head :=
  { state := .stopped, timing := none, pixel := 0, line := 0, frames := 0, misses := 0
    tally := .zero, bandMark := false, pendingWrap := false, startPending := false
    slots := Vector.replicate 3 .empty, cursor := Vector.replicate 3 none, showing := none
    commitQueue := [], depthList := [] }

/-! ### Tags (06) -/

/-- Tag states (R104). -/
inductive TagState where
  | free
  | active
  | stale
  | abandoned
deriving DecidableEq, Repr

/-- A tag (R104). While it is FREE the other fields have no meaning (log 9). -/
structure Tag where
  state     : TagState
  head      : HeadId
  slot      : SlotNo
  span      : Nat
  layer     : Nat
  window    : WindowId
  address   : Nat
  byteCount : Nat
  age       : Nat
deriving DecidableEq, Repr

/-- A tag at device reset (R104): FREE with age 0. -/
def Tag.reset : Tag :=
  { state := .free, head := 0, slot := 0, span := 0, layer := 0, window := 0, address := 0
    byteCount := 0, age := 0 }

/-! ### Notices (09) -/

/-- A notice record (R151): for each kind its subject, held exactly while the kind is pending, and
the mask, by the kind positions of 10.8. -/
structure NoticeRecord where
  committed     : Option HeadSet
  underrun      : Option WindowId
  layerDropped  : Option WindowId
  fetchFault    : Option WindowId
  retired       : Option WindowId
  followLocked  : Option HeadId
  followLost    : Option HeadId
  tagAbandoned  : Option WindowId
  strayResponse : Option TagNo
  clientClosed  : Option ClientId
  mask          : BitVec 10
deriving DecidableEq, Repr

/-- A cleared record (R151): no kind pending, no subject held, the mask empty. -/
def NoticeRecord.cleared : NoticeRecord :=
  { committed := none, underrun := none, layerDropped := none, fetchFault := none, retired := none
    followLocked := none, followLost := none, tagAbandoned := none, strayResponse := none
    clientClosed := none, mask := 0 }

/-! ### Channels (10) -/

/-- Channel states (R161); `opened` is the manual's OPEN. -/
inductive ChannelState where
  | opened
  | closed
  | framingLost
deriving DecidableEq, Repr

/-- A command channel (R161): its state and its two FIFOs, oldest word first. -/
structure Channel where
  state     : ChannelState
  commands  : List Word
  responses : List Word
deriving DecidableEq, Repr

/-- A channel at device reset (R161). -/
def Channel.reset (st : ChannelState) : Channel := { state := st, commands := [], responses := [] }

/-! ### The whole part -/

/-- The machine. -/
structure State where
  /-- RESET_N is low (R166) -/
  resetHeld  : Bool
  channels   : Vector Channel 8
  /-- round-robin pointer of the Command Engine (R169) -/
  pointer    : ClientId
  clients    : Vector Client 8
  windows    : Vector Window 48
  heads      : Vector Head 2
  tags       : Vector Tag 16
  /-- the head the Port Arbiter served last (R108) -/
  lastServed : HeadId
  notices    : Vector NoticeRecord 8
  /-- the word the last host read of RESPONSE returned (R164, log 8) -/
  readData   : Word
  /-- the model's own: how many races of log 4 have been drawn -/
  raceDraws  : Nat
  /-- the commands that are waiting, first in first out -/
  pending    : List Instr
deriving DecidableEq, Repr

/-- Faults: the part stops at nothing (INVENTORY.md, "Faults"), so no meaning raises one. -/
inductive Fault where
deriving DecidableEq, Repr

/-- Refusals. -/
inductive Refusal where
  /-- Raised by exec's arm of a command that has no meaning yet: none is left. Safe: a refused step
  has no next state. -/
  | notModelled (mnemonic : String)
deriving DecidableEq, Repr

/-- The machine right after device reset, RESET_N high: R22, R67, R81, R124, R125, R150, R159, R161,
R169. The read data and the counter of races are the model's choice (log 8, log 22). -/
def State.reset : State :=
  { resetHeld := false
    channels := (Vector.replicate 8 (Channel.reset .closed)).set 0 (Channel.reset .opened)
    pointer := 7
    clients := (Vector.replicate 8 Client.closedRecord).set 0 Client.supervisor
    windows := Vector.replicate 48 { life := .free, refs := 0 }
    heads := Vector.replicate 2 Head.reset
    tags := Vector.replicate 16 Tag.reset
    lastServed := 1
    notices := Vector.replicate 8 NoticeRecord.cleared
    readData := 0
    raceDraws := 0
    pending := [] }

end Sys2Proof.Machine
end

