-- ==== Sys2Proof/Machine/Ops.lean ====
section
/-! DEFINITION. The named operations over State that every meaning is written with: reading and
writing one record, notices, held counts, entry to FREE and to CLOSED, references, tags, and the
emptying of line slots. -/

namespace Sys2Proof.Machine

/-! ### One record of a table -/

/-- Window record `w`. -/
def State.window (s : State) (w : WindowId) : Window := s.windows[w]
/-- Client record `c`. -/
def State.client (s : State) (c : ClientId) : Client := s.clients[c]
/-- Channel `c`. -/
def State.channel (s : State) (c : ClientId) : Channel := s.channels[c]
/-- Head `h`. -/
def State.head (s : State) (h : HeadId) : Head := s.heads[h]
/-- Tag `t`. -/
def State.tag (s : State) (t : TagNo) : Tag := s.tags[t]
/-- Notice record of client `c`. -/
def State.notice (s : State) (c : ClientId) : NoticeRecord := s.notices[c]

/-- Replace window record `w`. -/
def State.setWindow (s : State) (w : WindowId) (v : Window) : State :=
  { s with windows := s.windows.set w v }
/-- Replace client record `c`. -/
def State.setClient (s : State) (c : ClientId) (v : Client) : State :=
  { s with clients := s.clients.set c v }
/-- Replace channel `c`. -/
def State.setChannel (s : State) (c : ClientId) (v : Channel) : State :=
  { s with channels := s.channels.set c v }
/-- Replace head `h`. -/
def State.setHead (s : State) (h : HeadId) (v : Head) : State :=
  { s with heads := s.heads.set h v }
/-- Replace tag `t`. -/
def State.setTag (s : State) (t : TagNo) (v : Tag) : State :=
  { s with tags := s.tags.set t v }
/-- Replace the notice record of client `c`. -/
def State.setNotice (s : State) (c : ClientId) (v : NoticeRecord) : State :=
  { s with notices := s.notices.set c v }

/-! ### Reading a window record -/

/-- Owner, head and staged image of a window, unless it is FREE (R1). -/
def Life.held? : Life → Option Held
  | .free => none
  | .reserved hd => some hd
  | .live hd _ _ => some hd
  | .retiring hd _ _ => some hd

/-- Owner of a window, unless it is FREE. -/
def Window.owner? (v : Window) : Option ClientId := v.life.held?.map Held.owner
/-- Head of a window, unless it is FREE. -/
def Window.head? (v : Window) : Option HeadId := v.life.held?.map Held.head

/-- Live image of a window, present in LIVE and RETIRING (R1). -/
def Life.liveImage? : Life → Option Image
  | .live _ img _ => some img
  | .retiring _ img _ => some img
  | _ => none

/-- Fault of a window (R4). -/
def Life.fault? : Life → Option Nat
  | .live _ _ f => f
  | .retiring _ _ f => f
  | _ => none

/-- The window is FREE. -/
def Window.isFree (v : Window) : Bool := v.life == .free

/-- The window is RETIRING. -/
def Life.isRetiring : Life → Bool
  | .retiring _ _ _ => true
  | _ => false

/-- The window is RESERVED or LIVE, with this owner and head: the windows an apply of client `c` on
head `h` processes (R35), and those that let a client queue (R32). -/
def Life.appliedFor (c : ClientId) (h : HeadId) : Life → Bool
  | .reserved hd => hd.owner == c && hd.head == h
  | .live hd _ _ => hd.owner == c && hd.head == h
  | _ => false

/-- Client `c` holds a RESERVED or LIVE window on head `h` (R32). -/
def State.holdsOn (s : State) (c : ClientId) (h : HeadId) : Bool :=
  allWindows.any (fun w => (s.window w).life.appliedFor c h)

/-- R3: a window is sealed while its owner is on the Commit Queue of its head. -/
def State.sealed (s : State) (w : WindowId) : Bool :=
  match (s.window w).life.held? with
  | none => false
  | some hd => (s.head hd.head).commitQueue.contains hd.owner

/-- Bytes per pixel of a format (00, "Pixel formats"). -/
def PixelFormat.bytes : PixelFormat → Nat
  | .p16 => 2
  | .p32 => 4

/-- Head `h` is in the set. -/
def HeadSet.has (hs : HeadSet) (h : HeadId) : Bool := if h = 0 then hs.head0 else hs.head1

/-- The set with head `h` added. -/
def HeadSet.add (hs : HeadSet) (h : HeadId) : HeadSet :=
  if h = 0 then { hs with head0 := true } else { hs with head1 := true }

/-- The set as the layouts code it: 0 none, 1 head 0, 2 head 1, 3 both (10.8). -/
def HeadSet.code (hs : HeadSet) : Nat := (if hs.head0 then 1 else 0) + (if hs.head1 then 2 else 0)

/-! ### Notices (R151, R152) -/

/-- A notice with its subject. -/
inductive Notice where
  | committed (h : HeadId)
  | underrun (w : WindowId)
  | layerDropped (w : WindowId)
  | fetchFault (w : WindowId)
  | retired (w : WindowId)
  | followLocked (h : HeadId)
  | followLost (h : HeadId)
  | tagAbandoned (w : WindowId)
  | strayResponse (t : TagNo)
  | clientClosed (c : ClientId)
deriving DecidableEq, Repr

/-- R152: a pending kind keeps its first subject. -/
def firstSubject {α : Type} (now : Option α) (subject : α) : Option α :=
  match now with
  | some x => some x
  | none => some subject

/-- R152: COMMITTED adds the applied head to its head mask; every other kind becomes pending with the
subject given, or is left as it was when it is pending already. -/
def NoticeRecord.set (r : NoticeRecord) : Notice → NoticeRecord
  | .committed h => { r with committed := some ((r.committed.getD ⟨false, false⟩).add h) }
  | .underrun w => { r with underrun := firstSubject r.underrun w }
  | .layerDropped w => { r with layerDropped := firstSubject r.layerDropped w }
  | .fetchFault w => { r with fetchFault := firstSubject r.fetchFault w }
  | .retired w => { r with retired := firstSubject r.retired w }
  | .followLocked h => { r with followLocked := firstSubject r.followLocked h }
  | .followLost h => { r with followLost := firstSubject r.followLost h }
  | .tagAbandoned w => { r with tagAbandoned := firstSubject r.tagAbandoned w }
  | .strayResponse t => { r with strayResponse := firstSubject r.strayResponse t }
  | .clientClosed c => { r with clientClosed := firstSubject r.clientClosed c }

/-- Set a notice in the record of client `c`. -/
def notify (c : ClientId) (n : Notice) (s : State) : State := s.setNotice c ((s.notice c).set n)

/-- Set a notice in the record of the client that owns window `w` at the moment of setting (9.1). -/
def notifyOwner (w : WindowId) (n : Notice) (s : State) : State :=
  match (s.window w).owner? with
  | some c => notify c n s
  | none => s

/-- Set one notice about each window of a list, in order, in its owner's record. -/
def notifyOwners (mk : WindowId → Notice) (ws : List WindowId) (s : State) : State :=
  ws.foldl (fun s w => notifyOwner w (mk w) s) s

/-! ### Entry to CLOSED and entry to FREE -/

/-- Take client `c` off the Commit Queue of head `h`; the others keep their order (R45). -/
def dequeue (c : ClientId) (h : HeadId) (s : State) : State :=
  s.setHead h { s.head h with commitQueue := (s.head h).commitQueue.filter (· ≠ c) }

/-- R144: client `c` becomes CLOSED, leaves every Commit Queue (R45), its notice record is cleared,
and CLIENT_CLOSED is set in client 0's record. -/
def enterClosed (c : ClientId) (s : State) : State :=
  let s := s.setClient c Client.closedRecord
  let s := dequeue c 1 (dequeue c 0 s)
  let s := s.setNotice c NoticeRecord.cleared
  notify 0 (.clientClosed c) s

/-- R11, R18: client `c`'s held count falls by one; R144: a CLOSING client whose count it brings to 0
becomes CLOSED. -/
def dropHeld (c : ClientId) (s : State) : State :=
  let k := s.client c
  let s := s.setClient c { k with held := k.held - 1 }
  if k.state = .closing ∧ k.held - 1 = 0 then enterClosed c s else s

/-- R11: window `w` enters FREE. Its owner, head, images and fault go, its owner's held count falls,
and RETIRED is set when it leaves LIVE or RETIRING. -/
def freeWindow (w : WindowId) (s : State) : State :=
  match (s.window w).life with
  | .free => s
  | .reserved hd => dropHeld hd.owner (s.setWindow w { s.window w with life := .free })
  | .live hd _ _ =>
    dropHeld hd.owner (notify hd.owner (.retired w) (s.setWindow w { s.window w with life := .free }))
  | .retiring hd _ _ =>
    dropHeld hd.owner (notify hd.owner (.retired w) (s.setWindow w { s.window w with life := .free }))

/-! ### References (R14 to R16) -/

/-- R15: one reference more to window `w`. -/
def addRef (w : WindowId) (s : State) : State :=
  s.setWindow w { s.window w with refs := (s.window w).refs + 1 }

/-- One reference more to each window of a list. -/
def addRefs (ws : List WindowId) (s : State) : State := ws.foldl (fun s w => addRef w s) s

/-- R16: one reference less to window `w`; R13: a RETIRING window whose references it brings to 0
enters FREE in the same step. -/
def releaseRef (w : WindowId) (s : State) : State :=
  let v := s.window w
  let s := s.setWindow w { v with refs := v.refs - 1 }
  if v.life.isRetiring ∧ v.refs - 1 = 0 then freeWindow w s else s

/-- The releases of one step, in order (R84). -/
def releaseRefs (ws : List WindowId) (s : State) : State := ws.foldl (fun s w => releaseRef w s) s

/-! ### Tags (R104, R105) -/

/-- Make STALE every ACTIVE tag that `p` picks; it keeps its window reference (R105). -/
def staleTags (p : Tag → Bool) (s : State) : State :=
  { s with tags := Vector.ofFn (fun i =>
      let t := s.tags[i]
      if t.state = .active ∧ p t then { t with state := .stale } else t) }

/-- Make tag `t` FREE and release the reference it holds (R16). -/
def freeTag (t : TagNo) (s : State) : State :=
  releaseRef (s.tag t).window (s.setTag t { s.tag t with state := .free })

/-! ### Line slots (R81, R84) -/

/-- The layers of a slot's spans: spans from left to right, layers from top to bottom. -/
def walkLayers (spans : List Span) : List Layer := spans.flatMap Span.layers

/-- The windows whose references a slot's segments hold: one entry for each segment that is not
ABSENT, in walk order (R14, R84). -/
def Slot.references : Slot → List WindowId
  | .active a => ((walkLayers a.spans).filter (fun l => l.status ≠ .absent)).map Layer.window
  | _ => []

/-- The raster line a slot holds, absent in EMPTY (R81). -/
def Slot.line? : Slot → Option Nat
  | .empty => none
  | .blank n => some n
  | .active a => some a.line

/-- Put content into slot `k` of head `h`, with its place in the fetch cursor. -/
def setSlot (h : HeadId) (k : SlotNo) (v : Slot) (next : Option Pos) (s : State) : State :=
  s.setHead h { s.head h with slots := (s.head h).slots.set k v, cursor := (s.head h).cursor.set k next }

/-- R84: empty slot `k` of head `h`, whatever its state: it leaves the cursor (R101), its ACTIVE tags
leave ACTIVE (R105, log 13), and each of its segments that is not ABSENT releases its reference. -/
def emptySlot (h : HeadId) (k : SlotNo) (s : State) : State :=
  let held := (s.head h).slots[k].references
  let s := setSlot h k .empty none s
  let s := staleTags (fun t => t.head == h && t.slot == k) s
  releaseRefs held s

/-- Empty all three slots of head `h`, in ascending slot number (R84). -/
def emptySlots (h : HeadId) (s : State) : State := allSlots.foldl (fun s k => emptySlot h k s) s

/-- The slot of head `h` that holds raster line `n`. -/
def slotOfLine (hd : Head) (n : Nat) : Option SlotNo := allSlots.find? (fun k => hd.slots[k].line? == some n)

end Sys2Proof.Machine
end

