-- ==== Sys2Proof/Machine/Operands.lean ====
section
/-! DEFINITION. Everything that comes in as words and must be judged: message framing (R167),
argument numbers and names (R174), geometry and source ranges (R26, R27), source extents (R7),
timing sets (R47), permitted heads and quotas. -/

namespace Sys2Proof.Machine

/-! ### Messages (R167) -/

/-- A whole message: command code, sequence number, argument words (10.5). -/
structure Message where
  code : Nat
  seq  : Nat
  args : List Word
deriving DecidableEq, Repr

/-- R167: the whole message at the head of a command FIFO, with the words after it; none when the FIFO
holds fewer than 1 + argument count words. -/
def frameMessage : List Word → Option (Message × List Word)
  | [] => none
  | hdr :: rest =>
    let count := fieldOf hdr 18 16
    if count ≤ rest.length then
      some ({ code := fieldOf hdr 7 0, seq := fieldOf hdr 15 8, args := rest.take count }, rest.drop count)
    else none

/-- Argument word `i`, counted from 0 (the manual's word i + 1). -/
def argWord (args : List Word) (i : Nat) : Word := args.getD i 0

/-- R174: an argument word that carries one value, read whole as an unsigned number. -/
def argNat (args : List Word) (i : Nat) : Nat := (argWord args i).toNat

/-- Bits hi:lo of argument word `i` (R174). -/
def argField (args : List Word) (i hi lo : Nat) : Nat := fieldOf (argWord args i) hi lo

/-- The window an argument names, if it is 0 to 47. -/
def windowNamed (n : Nat) : Option WindowId := if h : n < 48 then some ⟨n, h⟩ else none
/-- The client an argument names, if it is 0 to 7. -/
def clientNamed (n : Nat) : Option ClientId := if h : n < 8 then some ⟨n, h⟩ else none
/-- The head an argument names, if it is 0 or 1. -/
def headNamed (n : Nat) : Option HeadId := if h : n < 2 then some ⟨n, h⟩ else none

/-- The head an argument names when it is among the client's permitted heads; any value other than 0
or 1 is among no client's (R8, R32). -/
def Client.permittedHead (k : Client) (n : Nat) : Option HeadId :=
  match headNamed n with
  | some h => if k.heads.has h then some h else none
  | none => none

/-- A permitted heads value (10.8): 0 none, 1 head 0, 2 head 1, 3 both; any other value names no set. -/
def headSetNamed : Nat → Option HeadSet
  | 0 => some ⟨false, false⟩
  | 1 => some ⟨true, false⟩
  | 2 => some ⟨false, true⟩
  | 3 => some ⟨true, true⟩
  | _ => none

/-- An aperture, when base and limit are granules and the limit is not less than the base (R136). -/
def apertureNamed (base limit : Nat) : Option Aperture :=
  if base ≤ lastGranule ∧ limit ≤ lastGranule ∧ base ≤ limit then some ⟨base, limit⟩ else none

/-- A source format argument: 1 P16, 2 P32 (10.8). -/
def formatNamed : Nat → Option PixelFormat
  | 1 => some .p16
  | 2 => some .p32
  | _ => none

/-! ### Geometry, source and extent (R7, R26, R27) -/

/-- The ranges of a geometry (R26). -/
def Geometry.inRange (g : Geometry) : Bool :=
  g.x ≤ 4095 && g.y ≤ 4095 && 1 ≤ g.width && g.width ≤ 2048 && 1 ≤ g.height && g.height ≤ 2048
  && g.x + g.width ≤ 4096 && g.y + g.height ≤ 4096

/-- The ranges of a source and its ring rows (R27). -/
def Source.inRange (src : Source) (ringRows : Option Nat) : Bool :=
  src.base % src.format.bytes == 0 && 16 ≤ src.pitch && src.pitch ≤ 65536 && src.pitch % 4 == 0
  && src.scrollX ≤ 4095 && src.scrollY ≤ 4095
  && (match ringRows with
      | none => true
      | some r => 1 ≤ r && r ≤ 4096)

/-- The pitch reaches the end of a row of the window (1.1.1): pitch at least (scroll x + width) x
bytes per pixel. -/
def pitchHolds (g : Geometry) (src : Source) : Bool :=
  (src.scrollX + g.width) * src.format.bytes ≤ src.pitch

/-- R7: rows of the source extent: ring rows if present, scroll y + height otherwise. -/
def extentRows (g : Geometry) (src : Source) (ringRows : Option Nat) : Nat :=
  ringRows.getD (src.scrollY + g.height)

/-- R7: the address after the last byte of the source extent. -/
def extentEnd (g : Geometry) (src : Source) (ringRows : Option Nat) : Nat :=
  src.base + (extentRows g src ringRows - 1) * src.pitch + (src.scrollX + g.width) * src.format.bytes

/-- R7: the bytes from `first` up to but not including `past` lie within an aperture, and none of them
lies beyond 4 GiB - 1. An absent aperture holds none. -/
def withinAperture (ap : Option Aperture) (first past : Nat) : Bool :=
  match ap with
  | none => false
  | some a => a.base * granuleBytes ≤ first && past ≤ (a.limit + 1) * granuleBytes && past ≤ addressSpace

/-- R7: the image has no extent, or its extent lies within the aperture. -/
def Image.fits (img : Image) (ap : Option Aperture) : Bool :=
  match img.geometry, img.source with
  | some g, some src => withinAperture ap src.base (extentEnd g src img.ringRows)
  | _, _ => true

/-! ### Timing sets (R47) -/

/-- Line `n` is an active line of the set (R47). -/
def TimingSet.isActive (t : TimingSet) (n : Nat) : Bool :=
  t.activeFirstLine ≤ n && n < t.activeFirstLine + t.activeHeight

/-- Line `n` lies in the quiet band of the set (R47). -/
def TimingSet.isQuiet (t : TimingSet) (n : Nat) : Bool :=
  n ≤ t.captureBand + 2 || (t.frameTotal ≤ n + t.captureBand + 1 && n + 1 ≤ t.frameTotal)

/-- Every field lies within its accepted range (3.1). -/
def TimingSet.inRange (t : TimingSet) : Bool :=
  64 ≤ t.lineTotal && t.lineTotal ≤ 4096 && t.lineSyncEnd ≤ 4095
  && 1 ≤ t.activeStartPixel && t.activeStartPixel ≤ 4095
  && 16 ≤ t.activeWidth && t.activeWidth ≤ 2048
  && 16 ≤ t.frameTotal && t.frameTotal ≤ 4096 && t.frameSyncEnd ≤ 4095
  && t.activeFirstLine ≤ 4095 && 1 ≤ t.activeHeight && t.activeHeight ≤ 2048
  && t.commitLine ≤ 4095 && t.captureBand ≤ 15

/-- R47: the set is valid. The active lines are one run, so none lies in the quiet band when the first
lies after the band's start and the last before its end. -/
def TimingSet.valid (t : TimingSet) : Bool :=
  t.inRange
  && t.lineSyncEnd < t.activeStartPixel
  && t.activeStartPixel + t.activeWidth ≤ t.lineTotal
  && t.frameSyncEnd < t.activeFirstLine
  && t.activeFirstLine + t.activeHeight ≤ t.frameTotal
  && t.commitLine < t.frameTotal
  && !t.isActive t.commitLine
  && 3 ≤ (t.activeFirstLine + t.frameTotal - t.commitLine) % t.frameTotal
  && t.captureBand + 2 < t.activeFirstLine
  && t.activeFirstLine + t.activeHeight + t.captureBand + 1 ≤ t.frameTotal
  && !t.isQuiet t.commitLine

/-- The timing set the seven argument words of SET_TIMING carry (10.8). -/
def timingOf (args : List Word) : TimingSet :=
  { lineTotal := argField args 0 15 0, lineSyncEnd := argField args 0 31 16
    activeStartPixel := argField args 1 15 0, activeWidth := argField args 1 31 16
    frameTotal := argField args 2 15 0, frameSyncEnd := argField args 2 31 16
    activeFirstLine := argField args 3 15 0, activeHeight := argField args 3 31 16
    commitLine := argField args 4 15 0, captureBand := argField args 4 31 16
    background := (argWord args 6).extractLsb 23 0 }

/-! ### Head states -/

/-- The running states (R49): all but STOPPED. -/
def HeadState.running : HeadState → Bool
  | .stopped => false
  | _ => true

/-- The states in which windows are shown (3.4): FREE_RUN, LOCKED, HOLDOVER. -/
def HeadState.displaying : HeadState → Bool
  | .freeRun => true
  | .locked => true
  | .holdover => true
  | _ => false

/-- The states whose marks are judged (3.4): LOCKED, HOLDOVER. -/
def HeadState.judged : HeadState → Bool
  | .locked => true
  | .holdover => true
  | _ => false

end Sys2Proof.Machine
end

