-- ==== Sys2Proof/Machine/Apply.lean ====
section
/-! DEFINITION. The apply (02, R35 to R39): staged images into live ones, retirements, the Depth List. -/

namespace Sys2Proof.Machine

/-- R36, R37: one processed window. With retire pending a LIVE window enters FREE or RETIRING by its
references; otherwise the staged image is copied, the fault goes, and a RESERVED window becomes LIVE.
(A RESERVED window carries no retire pending, R37.) -/
def processWindow (w : WindowId) (s : State) : State :=
  let v := s.window w
  match v.life with
  | .reserved hd => s.setWindow w { v with life := .live hd hd.staged.image none }
  | .live hd img fault =>
    if hd.staged.retirePending then
      if v.refs = 0 then freeWindow w s else s.setWindow w { v with life := .retiring hd img fault }
    else s.setWindow w { v with life := .live hd hd.staged.image none }
  | _ => s

/-- R35: process client `c`'s RESERVED and LIVE windows on head `h`, in ascending id order. -/
def applyClient (h : HeadId) (s : State) (c : ClientId) : State :=
  allWindows.foldl (fun s w => if (s.window w).life.appliedFor c h then processWindow w s else s) s

/-- The depth at which a window belongs on the Depth List of head `h`: it is a LIVE window of that head
whose live image is visible (R38). -/
def listedDepth (h : HeadId) (v : Window) : Option Nat :=
  match v.life with
  | .live hd img _ => if hd.head = h ∧ img.visible then some img.depth else none
  | _ => none

/-- R38: the Depth List of head `h` built from scratch: depth 31 down to 0, ascending id within one. -/
def builtDepthList (h : HeadId) (s : State) : List WindowId :=
  let listed := allWindows.filterMap (fun w => (listedDepth h (s.window w)).map (fun d => (d, w)))
  (List.range 32).reverse.flatMap (fun d => (listed.filter (fun e => e.1 == d)).map Prod.snd)

/-- R38: replace the Depth List of head `h`. -/
def rebuildDepthList (h : HeadId) (s : State) : State :=
  s.setHead h { s.head h with depthList := builtDepthList h s }

/-- R39: COMMITTED for an applied client. A client that became CLOSED at this apply keeps nothing of it
(R144, log 12). -/
def setCommitted (h : HeadId) (s : State) (c : ClientId) : State :=
  if (s.client c).state = .closed then s else notify c (.committed h) s

/-- R35 to R39: apply clients on head `h`, in this order. The Depth List is rebuilt when at least one
window is processed (R38, log 19). -/
def applyClients (h : HeadId) (cs : List ClientId) (s : State) : State :=
  let changes := cs.any (fun c => s.holdsOn c h)
  let s := cs.foldl (applyClient h) s
  let s := if changes then rebuildDepthList h s else s
  cs.foldl (setCommitted h) s

/-- R35, R42: apply and empty the Commit Queue of head `h`; an empty queue makes no apply. -/
def applyQueue (h : HeadId) (s : State) : State :=
  match (s.head h).commitQueue with
  | [] => s
  | c :: cs =>
    let s := applyClients h (c :: cs) s
    s.setHead h { s.head h with commitQueue := [] }

/-- Put client `c` at the end of the Commit Queue of head `h` (R32). -/
def enqueue (c : ClientId) (h : HeadId) (s : State) : State :=
  s.setHead h { s.head h with commitQueue := (s.head h).commitQueue ++ [c] }

end Sys2Proof.Machine
end

