-- ==== Sys2Proof/Machine/Engine.lean ====
section
/-! DEFINITION. The Command Engine (10, R167 to R174): arbitration, the checks before effect, and the
response. Every message command is `engineTake` of its code, its argument count and its body. -/

namespace Sys2Proof.Machine

/-! ### Responses (R173) -/

/-- Status codes (10.7). -/
inductive Status where
  | ok
  | badCommand
  | badLength
  | notPermitted
  | noWindow
  | quota
  | badWindow
  | sealedPending
  | badGeometry
  | badSource
  | aperture
  | incomplete
  | badTiming
  | headState
  | busy
  | inUse
deriving DecidableEq, Repr

/-- The code of a status in the response header (10.7). -/
def Status.code : Status → Nat
  | .ok => 0x00
  | .badCommand => 0x01
  | .badLength => 0x02
  | .notPermitted => 0x03
  | .noWindow => 0x04
  | .quota => 0x05
  | .badWindow => 0x06
  | .sealedPending => 0x07
  | .badGeometry => 0x08
  | .badSource => 0x09
  | .aperture => 0x0A
  | .incomplete => 0x0B
  | .badTiming => 0x0C
  | .headState => 0x0D
  | .busy => 0x0E
  | .inUse => 0x0F

/-- A command's answer: its status and its result words. -/
structure Reply where
  status  : Status
  results : List Word
deriving DecidableEq, Repr

/-- The answer of a refused command: the status, and no result words (R173). -/
def refusal (st : Status) : Reply := { status := st, results := [] }

/-- The answer of a command carried out. -/
def accepted (results : List Word) : Reply := { status := .ok, results := results }

/-- R173, 10.8: the response header. -/
def responseHeader (m : Message) (r : Reply) : Word :=
  packWord [(7, 0, r.status.code), (15, 8, m.seq), (18, 16, r.results.length), (31, 24, m.code)]

/-- R170, R173: the response placed whole at the end of the channel's response FIFO. -/
def respond (c : ClientId) (m : Message) (r : Reply) (s : State) : State :=
  let ch := s.channel c
  s.setChannel c { ch with responses := ch.responses ++ responseHeader m r :: r.results }

/-! ### Arbitration (R168, R169) -/

/-- R168: channel `ch` is eligible with this message at the head of its command FIFO and these words
after it: it is OPEN, the message is whole, and 8 response words are free. -/
def Channel.eligible? (ch : Channel) : Option (Message × List Word) :=
  if ch.state = .opened ∧ ch.responses.length + responseRoom ≤ fifoDepth then frameMessage ch.commands
  else none

/-- The channels in the order R169 asks them: upward from the one after the pointer, passing from 7 to 0,
and the pointer's own last. -/
def serviceOrder (pointer : ClientId) : List ClientId :=
  allClients.map (fun i => pointer + 1 + i)

/-- A message the Command Engine would take: its channel, the message, and the words left in the FIFO. -/
structure Taken where
  client  : ClientId
  message : Message
  rest    : List Word
deriving DecidableEq, Repr

/-- R169: the message the Command Engine takes next, if any channel is eligible. -/
def State.nextMessage (s : State) : Option Taken :=
  (serviceOrder s.pointer).findSome? (fun c =>
    match (s.channel c).eligible? with
    | some (m, rest) => some { client := c, message := m, rest := rest }
    | none => none)

/-- R169, R170: the words of the message leave the command FIFO, and the pointer names the channel. -/
def consume (t : Taken) (s : State) : State :=
  let s := s.setChannel t.client { s.channel t.client with commands := t.rest }
  { s with pointer := t.client }

/-! ### The checks before effect (R171) and the step (R170) -/

/-- The body of a command: from the issuing client, the argument words and the state, the state after
its effects and its answer. -/
abbrev Body := ClientId → List Word → State → State × Reply

/-- R171 check 2: an argument count other than the command's gives BAD_LENGTH. -/
def checkedLength (argc : Nat) (body : Body) : Body := fun c args s =>
  if args.length = argc then body c args s else (s, refusal .badLength)

/-- R171 check 3: a supervisor command from a channel other than channel 0 gives NOT_PERMITTED. -/
def supervisorOnly (body : Body) : Body := fun c args s =>
  if c = 0 then body c args s else (s, refusal .notPermitted)

/-- R170: take message `t`, carry out its command, place the response: one step. -/
def takeMessage (t : Taken) (body : Body) (s : State) : State :=
  let r := body t.client t.message.args (consume t s)
  respond t.client t.message r.2 r.1

/-- One step of the Command Engine with a message of this command code. Where the engine's choice is
not such a message, it takes no such step (log 2). -/
def engineTake (code argc : Nat) (body : Body) (s : State) : State :=
  match s.nextMessage with
  | none => s
  | some t => if t.message.code = code then takeMessage t (checkedLength argc body) s else s

/-! ### The command table (10.8) -/

/-- Command codes. -/
def codeReserve : Nat := 0x10
def codePlace : Nat := 0x11
def codeSource : Nat := 0x12
def codeKey : Nat := 0x13
def codeShow : Nat := 0x14
def codeHide : Nat := 0x15
def codeRetire : Nat := 0x16
def codeCommit : Nat := 0x17
def codeQueryWindow : Nat := 0x18
def codeSetTiming : Nat := 0x20
def codeStartHead : Nat := 0x21
def codeStopHead : Nat := 0x22
def codeQueryHead : Nat := 0x23
def codeOpenClient : Nat := 0x30
def codeCloseClient : Nat := 0x31
def codeSetAperture : Nat := 0x32
def codeSetHeads : Nat := 0x33
def codeQueryClient : Nat := 0x34
def codeReclaimTags : Nat := 0x40
def codeFetchNotices : Nat := 0x50
def codeSetNoticeMask : Nat := 0x51

/-- The codes in the command table. -/
def knownCodes : List Nat :=
  [codeReserve, codePlace, codeSource, codeKey, codeShow, codeHide, codeRetire, codeCommit, codeQueryWindow,
   codeSetTiming, codeStartHead, codeStopHead, codeQueryHead,
   codeOpenClient, codeCloseClient, codeSetAperture, codeSetHeads, codeQueryClient,
   codeReclaimTags, codeFetchNotices, codeSetNoticeMask]

/-! ### Window arguments (R25, R171 checks 4 and 5) -/

/-- R171 check 4: the window an argument names, unless it is above 47 or names a FREE window. -/
def State.heldWindow (s : State) (n : Nat) : Option WindowId :=
  match windowNamed n with
  | none => none
  | some w => if (s.window w).isFree then none else some w


/-- Write a staged image back into a RESERVED or LIVE window; nothing else of the record changes (R25). -/
def setStaged (w : WindowId) (st : Staged) (s : State) : State :=
  let v := s.window w
  match v.life with
  | .reserved hd => s.setWindow w { v with life := .reserved { hd with staged := st } }
  | .live hd img fault => s.setWindow w { v with life := .live { hd with staged := st } img fault }
  | _ => s

/-- R25: the window checks of an edit, in their order, before the edit's own: BAD_WINDOW, NOT_PERMITTED,
BAD_WINDOW when RETIRING, PENDING when sealed. -/
def onOwnWindow (edit : WindowId → Held → Body) : Body := fun c args s =>
  match s.heldWindow (argNat args 0) with
  | none => (s, refusal .badWindow)
  | some w =>
    match (s.window w).life.held? with
    | none => (s, refusal .badWindow)
    | some hd =>
      if hd.owner ≠ c then (s, refusal .notPermitted)
      else if (s.window w).life.isRetiring then (s, refusal .badWindow)
      else if s.sealed w then (s, refusal .sealedPending)
      else edit w hd c args s

end Sys2Proof.Machine
end

