-- ==== Sys2Proof/Machine/ClientCommands.lean ====
section
/-! DEFINITION. The client commands (08): OPEN_CLIENT, CLOSE_CLIENT, SET_APERTURE, SET_HEADS,
QUERY_CLIENT. -/

namespace Sys2Proof.Machine

/-- R138: the client argument of a client command; BAD_COMMAND when it is other than 0 to 7. Then
NOT_PERMITTED for client 0 (R137). -/
def onTenant (cmd : ClientId → Body) : Body := fun c args s =>
  match clientNamed (argNat args 0) with
  | none => (s, refusal .badCommand)
  | some n => if n = 0 then (s, refusal .notPermitted) else cmd n c args s

/-! ### OPEN_CLIENT (R139, R140) -/

/-- R139, R140: the client OPEN with its grant and held 0, its channel OPEN and empty, its notice record
cleared. -/
def openClient (n : ClientId) (quota : Nat) (ap : Aperture) (heads : HeadSet) (s : State) : State :=
  let s := s.setClient n { state := .opened, quota := quota, held := 0, aperture := some ap, heads := heads }
  let s := s.setChannel n { state := .opened, commands := [], responses := [] }
  s.setNotice n NoticeRecord.cleared

/-- R139: the refusals in their order. -/
def bodyOpenClient (n : ClientId) : Body := fun _c args s =>
  let quota := argField args 1 7 0
  match (s.client n).state with
  | .closing => (s, refusal .busy)
  | .opened => (s, refusal .inUse)
  | .closed =>
    match headSetNamed (argField args 1 15 8) with
    | none => (s, refusal .badCommand)
    | some heads =>
      if maxQuota < quota then (s, refusal .badCommand)
      else
        match apertureNamed (argNat args 2) (argNat args 3) with
        | none => (s, refusal .badSource)
        | some ap => (openClient n quota ap heads s, accepted [])

/-- OPEN_CLIENT (30h; client; quota, permitted heads; aperture base; aperture limit). -/
def execOpenClient (s : State) : Host.Outcome State Fault Refusal :=
  .next (engineTake codeOpenClient 4 (supervisorOnly (onTenant bodyOpenClient)) s)

/-! ### CLOSE_CLIENT (R141, R142, R44) -/

/-- Result word of CLOSE_CLIENT: CLOSING. -/
def resultClosing : Word := 1
/-- Result word of CLOSE_CLIENT: CLOSED. -/
def resultClosed : Word := 2

/-- R44: free each RESERVED window of client `n`, in ascending id order. -/
def freeReserved (n : ClientId) (s : State) : State :=
  allWindows.foldl (fun s w =>
    match (s.window w).life with
    | .reserved hd => if hd.owner = n then freeWindow w s else s
    | _ => s) s

/-- R44: set retire pending in the staged image of each LIVE window of client `n`, sealed or not. -/
def retireLive (n : ClientId) (s : State) : State :=
  allWindows.foldl (fun s w =>
    match (s.window w).life with
    | .live hd _ _ => if hd.owner = n then setStaged w { hd.staged with retirePending := true } s else s
    | _ => s) s

/-- R44: on a head where client `n` holds a LIVE window: applied at once if the head is STOPPED, otherwise
appended to its Commit Queue unless it is there already. -/
def closeOnHead (n : ClientId) (s : State) (h : HeadId) : State :=
  if s.holdsOn n h then
    if (s.head h).state = .stopped then applyClients h [n] s
    else if (s.head h).commitQueue.contains n then s
    else enqueue n h s
  else s

/-- R141, R142, R44: the close of an OPEN client, head 0 before head 1. A client that holds nothing by then
becomes CLOSED (R144). -/
def closeClient (n : ClientId) (s : State) : State :=
  let s := s.setClient n { s.client n with state := .closing }
  let s := s.setChannel n { s.channel n with state := .closed, commands := [] }
  let s := retireLive n (freeReserved n s)
  let s := allHeads.foldl (closeOnHead n) s
  if (s.client n).state = .closing ∧ (s.client n).held = 0 then enterClosed n s else s

/-- R141, R142: the refusal, the CLOSED client, the close with the state it ends in. -/
def bodyCloseClient (n : ClientId) : Body := fun _c _args s =>
  match (s.client n).state with
  | .closing => (s, refusal .busy)
  | .closed => (s, accepted [resultClosed])
  | .opened =>
    let s := closeClient n s
    (s, accepted [if (s.client n).state = .closed then resultClosed else resultClosing])

/-- CLOSE_CLIENT (31h; client). -/
def execCloseClient (s : State) : Host.Outcome State Fault Refusal :=
  .next (engineTake codeCloseClient 1 (supervisorOnly (onTenant bodyCloseClient)) s)

/-! ### SET_APERTURE (R146) -/

/-- R146: both images of a window fit an aperture. -/
def Window.fits (v : Window) (ap : Aperture) : Bool :=
  (match v.life.held? with
   | some hd => hd.staged.image.fits (some ap)
   | none => true) &&
  (match v.life.liveImage? with
   | some img => img.fits (some ap)
   | none => true)

/-- R146: every window of client `n` fits an aperture. -/
def State.windowsFit (s : State) (n : ClientId) (ap : Aperture) : Bool :=
  allWindows.all (fun w => (s.window w).owner? != some n || (s.window w).fits ap)

/-- R146: the refusals in their order; then the aperture. -/
def bodySetAperture (n : ClientId) : Body := fun _c args s =>
  match (s.client n).state with
  | .closing => (s, refusal .busy)
  | .closed => (s, refusal .notPermitted)
  | .opened =>
    match apertureNamed (argNat args 1) (argNat args 2) with
    | none => (s, refusal .badSource)
    | some ap =>
      if s.windowsFit n ap = false then (s, refusal .aperture)
      else (s.setClient n { s.client n with aperture := some ap }, accepted [])

/-- SET_APERTURE (32h; client; base; limit). -/
def execSetAperture (s : State) : Host.Outcome State Fault Refusal :=
  .next (engineTake codeSetAperture 3 (supervisorOnly (onTenant bodySetAperture)) s)

/-! ### SET_HEADS (R148) -/

/-- R148: client `n` holds a window on a head that a set leaves out. -/
def State.holdsOutside (s : State) (n : ClientId) (heads : HeadSet) : Bool :=
  allWindows.any (fun w =>
    match (s.window w).life.held? with
    | some hd => hd.owner == n && !heads.has hd.head
    | none => false)

/-- R148: the refusals in their order; then the permitted heads. -/
def bodySetHeads (n : ClientId) : Body := fun _c args s =>
  match (s.client n).state with
  | .closing => (s, refusal .busy)
  | .closed => (s, refusal .notPermitted)
  | .opened =>
    match headSetNamed (argNat args 1) with
    | none => (s, refusal .badCommand)
    | some heads =>
      if s.holdsOutside n heads then (s, refusal .inUse)
      else (s.setClient n { s.client n with heads := heads }, accepted [])

/-- SET_HEADS (33h; client; permitted heads). -/
def execSetHeads (s : State) : Host.Outcome State Fault Refusal :=
  .next (engineTake codeSetHeads 2 (supervisorOnly (onTenant bodySetHeads)) s)

/-! ### QUERY_CLIENT (R149) -/

/-- Client state field of QUERY_CLIENT (10.8). -/
def ClientState.code : ClientState → Nat
  | .closed => 0
  | .opened => 1
  | .closing => 2

/-- R149, 10.8: the three result words; an absent aperture is reported as 0, 0. -/
def clientWords (k : Client) : List Word :=
  [packWord [(1, 0, k.state.code), (13, 8, k.quota), (21, 16, k.held), (25, 24, k.heads.code),
     (28, 28, markBit k.aperture.isSome)],
   BitVec.ofNat 32 (k.aperture.getD ⟨0, 0⟩).base,
   BitVec.ofNat 32 (k.aperture.getD ⟨0, 0⟩).limit]

/-- R149: the client argument, then the permission, then the answer. -/
def bodyQueryClient : Body := fun c args s =>
  match clientNamed (argNat args 0) with
  | none => (s, refusal .badCommand)
  | some n =>
    if c ≠ 0 ∧ c ≠ n then (s, refusal .notPermitted)
    else (s, accepted (clientWords (s.client n)))

/-- QUERY_CLIENT (34h; client). -/
def execQueryClient (s : State) : Host.Outcome State Fault Refusal :=
  .next (engineTake codeQueryClient 1 bodyQueryClient s)

end Sys2Proof.Machine
end

