-- ==== Sys2Proof/Config.lean ====
section
/-! DEFINITION. What the manual leaves open and the model leaves free. -/

namespace Sys2Proof

/-- FREE VALUE (log 4). R17: "At a commit point that retires a window, the release of the head's
SHOWING slot and the apply may be taken in either order". `n` is the number of such races drawn so
far; the answer says whether this one takes the release first. No body: a claim holds for both. -/
opaque Config.releaseFirst (n : Nat) : Bool

end Sys2Proof
end

