-- ==== Sys2Proof/Machine/Resolve.lean ====
section
/-! DEFINITION. Span resolution (05, R85 to R99): one raster line of a head into a line slot. The stages
are pure functions on the windows that cover the line; `resolveInto` writes the result. -/

namespace Sys2Proof.Machine

/-- A window that covers the line: its live image and its horizontal extent, clipped to the active
width, from `lo` up to but not including `past` (R88). -/
structure Cover where
  window   : WindowId
  geometry : Geometry
  source   : Source
  ringRows : Option Nat
  key      : Option Word
  lo       : Nat
  past     : Nat
deriving DecidableEq, Repr

/-- R87, R88: the cover of window `w` on active row `row`, if it has one: the window is LIVE, its fault is
absent, it covers the row, and its clipped extent is not empty. -/
def coverOf (row width : Nat) (w : WindowId) (v : Window) : Option Cover :=
  match v.life with
  | .live _ img none =>
    match img.geometry, img.source with
    | some g, some src =>
      let past := min (g.x + g.width) width
      if g.y ≤ row ∧ row < g.y + g.height ∧ g.x < past then
        some { window := w, geometry := g, source := src, ringRows := img.ringRows, key := img.key
               lo := g.x, past := past }
      else none
    | _, _ => none
  | _ => none

/-- R86: the covers of a line, in Depth List order. -/
def coversOf (row width : Nat) (h : HeadId) (s : State) : List Cover :=
  (s.head h).depthList.filterMap (fun w => coverOf row width w (s.window w))

/-! ### Cutting the line (R89 to R92) -/

/-- Put a cut point into a rising list; one that is there already gives no second cut (R89). -/
def insertCut (x : Nat) : List Nat → List Nat
  | [] => [x]
  | y :: ys => if x < y then x :: y :: ys else if x = y then y :: ys else y :: insertCut x ys

/-- R89: the cut points of a line, rising: 0, the active width, and both edges of every cover. -/
def cutPoints (width : Nat) (covers : List Cover) : List Nat :=
  (covers.flatMap (fun c => [c.lo, c.past])).foldr insertCut (insertCut 0 (insertCut width []))

/-- A run of columns from `x` up to but not including `past`, with its layer stack. -/
structure Run where
  x     : Nat
  past  : Nat
  stack : List Cover
deriving DecidableEq, Repr

/-- R90: from the top down to and including the first opaque window. -/
def cutAtOpaque : List Cover → List Cover
  | [] => []
  | c :: cs => if c.key = none then [c] else c :: cutAtOpaque cs

/-- R90: the stack of the elementary interval that begins at column `x`, before the layer limit. -/
def fullStack (covers : List Cover) (x : Nat) : List Cover :=
  cutAtOpaque (covers.filter (fun c => c.lo ≤ x && x < c.past))

/-- R89: the elementary intervals between consecutive cut points, with their full stacks. -/
def intervals (covers : List Cover) : List Nat → List Run
  | a :: b :: rest => { x := a, past := b, stack := fullStack covers a } :: intervals covers (b :: rest)
  | _ => []

/-- R91: the layer limit on one interval. -/
def limitRun (r : Run) : Run := { r with stack := r.stack.take maxLayers }

/-- R91: the windows the layer limit drops from one interval, from top to bottom. -/
def layerDrops (r : Run) : List WindowId := (r.stack.drop maxLayers).map Cover.window

/-- Two stacks are alike when they hold the same windows in the same order (R92). -/
def sameStack (a b : Run) : Bool := a.stack.map Cover.window == b.stack.map Cover.window

/-- R92: merge adjacent intervals whose stacks are alike. -/
def mergeRuns : List Run → List Run
  | [] => []
  | r :: rest =>
    match mergeRuns rest with
    | [] => [r]
    | q :: qs => if sameStack r q then { r with past := q.past } :: qs else r :: q :: qs

/-! ### The span limit (R93) -/

/-- R93: spans 1 to 31 as they are, and span 32 a background span to the right edge. -/
def limitSpans (width : Nat) (runs : List Run) : List Run :=
  match runs.drop (maxSpans - 1) with
  | r :: _ :: _ => runs.take (maxSpans - 1) ++ [{ x := r.x, past := width, stack := [] }]
  | _ => runs

/-- Each entry once, in the order of its first place. -/
def firstOnly (ws : List WindowId) : List WindowId :=
  ws.foldl (fun seen w => if seen.contains w then seen else seen ++ [w]) []

/-- R93, R99: the windows that are a layer of a replaced span, each once, in the order of the first
replaced layer. -/
def spanDrops (runs : List Run) : List WindowId :=
  match runs.drop (maxSpans - 1) with
  | r :: q :: rest => firstOnly ((r :: q :: rest).flatMap (fun t => t.stack.map Cover.window))
  | _ => []

/-! ### Layers and the byte budget (R94, R95) -/

/-- R5: the row address of a window for an active row. -/
def rowAddress (c : Cover) (row : Nat) : Nat :=
  let index := (row - c.geometry.y) + c.source.scrollY
  let index := match c.ringRows with
    | none => index
    | some ring => index % ring
  c.source.base + index * c.source.pitch

/-- R94: the layer record of a cover in the span that begins at column `x`, with its status. -/
def layerOf (row x : Nat) (c : Cover) (status : SegStatus) : Layer :=
  { window := c.window, format := c.source.format, key := c.key, rowAddr := rowAddress c row
    offset := (x - c.geometry.x + c.source.scrollX) * c.source.format.bytes
    status := status, bytes := [], arrived := 0 }

/-- R95: the budget walk down one span's stack. Answers its layers, the budget used after it, and the
windows it dropped. -/
def chargeStack (row x width used : Nat) : List Cover → List Layer × Nat × List WindowId
  | [] => ([], used, [])
  | c :: cs =>
    let cost := width * c.source.format.bytes
    if used + cost ≤ byteBudget then
      let r := chargeStack row x width (used + cost) cs
      (layerOf row x c .pending :: r.1, r.2.1, r.2.2)
    else
      let r := chargeStack row x width used cs
      (layerOf row x c .absent :: r.1, r.2.1, c.window :: r.2.2)

/-- R95: the budget walk over the spans from left to right. -/
def chargeRuns (row used : Nat) : List Run → List Span × Nat × List WindowId
  | [] => ([], used, [])
  | r :: rest =>
    let one := chargeStack row r.x (r.past - r.x) used r.stack
    let more := chargeRuns row one.2.1 rest
    ({ xStart := r.x, xEnd := r.past - 1, layers := one.1 } :: more.1, more.2.1, one.2.2 ++ more.2.2)

/-- What one resolution makes of an active line. `drops` are its LAYER_DROPPED settings, in the order of
R99. -/
structure Resolved where
  spans  : List Span
  budget : Nat
  drops  : List WindowId
deriving DecidableEq, Repr

/-- R89 to R95: the stages of resolution, each on what the one before it left. -/
def resolveLine (row width : Nat) (covers : List Cover) : Resolved :=
  let raw := intervals covers (cutPoints width covers)
  let merged := mergeRuns (raw.map limitRun)
  let charged := chargeRuns row 0 (limitSpans width merged)
  { spans := charged.1, budget := charged.2.1
    drops := raw.flatMap layerDrops ++ spanDrops merged ++ charged.2.2 }

/-! ### Writing the slot -/

/-- The windows of a list of spans whose segments are PENDING, in walk order. -/
def pendingWindows (spans : List Span) : List WindowId :=
  ((walkLayers spans).filter (fun l => l.status = .pending)).map Layer.window

/-- The first PENDING segment of a list of spans at or after a position, in the order of R102; a position
inside that segment keeps its byte offset. -/
def firstPendingFrom (from_ : Pos) : Nat → List Span → Option Pos
  | _, [] => none
  | i, sp :: rest =>
    let found := sp.layers.zipIdx.find? (fun e =>
      e.1.status = .pending && (from_.span < i || (from_.span == i && from_.layer ≤ e.2)))
    match found with
    | some e =>
      some { span := i, layer := e.2
             offset := if from_.span = i ∧ from_.layer = e.2 then from_.offset else 0 }
    | none => firstPendingFrom from_ (i + 1) rest

/-- The next piece of a list of spans at or after a position (R102). -/
def nextPending (spans : List Span) (from_ : Pos) : Option Pos := firstPendingFrom from_ 0 spans

/-- The walk's beginning. -/
def walkStart : Pos := { span := 0, layer := 0, offset := 0 }

/-- R85, R86, R96: resolve raster line `n` of head `h` into slot `k`, from the state as it stands. A line
that is not active, and any line in SEEKING, is BLANK. The slot must be EMPTY. -/
def resolveInto (h : HeadId) (k : SlotNo) (n : Nat) (s : State) : State :=
  match (s.head h).timing with
  | none => s
  | some t =>
    if (s.head h).state = .seeking ∨ t.isActive n = false then setSlot h k (.blank n) none s
    else
      let r := resolveLine (n - t.activeFirstLine) t.activeWidth
        (coversOf (n - t.activeFirstLine) t.activeWidth h s)
      let refs := pendingWindows r.spans
      let phase := if refs = [] then Phase.complete else Phase.fetching
      let s := setSlot h k (.active { phase := phase, line := n, spans := r.spans, budget := r.budget })
        (nextPending r.spans walkStart) s
      let s := addRefs refs s
      notifyOwners .layerDropped r.drops s

/-- R82: resolve lines 0, 1 and 2 of head `h` into slots 0, 1 and 2. -/
def resolveFirstThree (h : HeadId) (s : State) : State :=
  resolveInto h 2 2 (resolveInto h 1 1 (resolveInto h 0 0 s))

end Sys2Proof.Machine
end

