-- ==== Sys2Proof/Machine/Fetch.lean ====
section
/-! DEFINITION. Fetch scheduling (06): the next request of a head, the Port Arbiter, issue, response
arrival, the deadline, ageing. -/

namespace Sys2Proof.Machine

/-! ### Segments and pieces (R94, R103) -/

/-- The layer at span `i`, layer `j` of a list of spans. -/
def layerAt (spans : List Span) (i j : Nat) : Option Layer :=
  match spans[i]? with
  | some sp => sp.layers[j]?
  | none => none

/-- Change the layer at span `i`, layer `j`. -/
def modifyLayer (f : Layer → Layer) (spans : List Span) (i j : Nat) : List Span :=
  spans.modify i (fun sp => { sp with layers := sp.layers.modify j f })

/-- R94: length in bytes of the segment of a layer of this span. -/
def segmentLength (sp : Span) (l : Layer) : Nat := (sp.xEnd - sp.xStart + 1) * l.format.bytes

/-- First byte address of a layer's segment (5.1). -/
def Layer.firstByte (l : Layer) : Nat := l.rowAddr + l.offset

/-- R103: bytes of the piece that begins at byte offset `o` of a segment of `len` bytes whose first byte
is at `first`: to the end of its 256-byte block, or to the segment's end if that comes first. -/
def pieceBytes (first len o : Nat) : Nat := min (blockBytes - (first + o) % blockBytes) (len - o)

/-! ### The next request of a head (R102) -/

/-- A request the Port Arbiter may offer (R102, R106). -/
structure Request where
  head      : HeadId
  slot      : SlotNo
  pos       : Pos
  line      : Nat
  window    : WindowId
  address   : Nat
  byteCount : Nat
  /-- the cursor's position for the slot once the piece is issued -/
  after     : Option Pos
deriving DecidableEq, Repr

/-- The request at a position of slot `k`, with the position that follows it (R102, R103); PENDING segments
only. -/
def requestAt (h : HeadId) (k : SlotNo) (a : ActiveLine) (p : Pos) : Option Request :=
  match a.spans[p.span]? with
  | none => none
  | some sp =>
    match sp.layers[p.layer]? with
    | none => none
    | some l =>
      if l.status = .pending then
        let len := segmentLength sp l
        let count := pieceBytes l.firstByte len p.offset
        let after :=
          if p.offset + count < len then some { p with offset := p.offset + count }
          else nextPending a.spans { span := p.span, layer := p.layer + 1, offset := 0 }
        some { head := h, slot := k, pos := p, line := a.line, window := l.window
               address := l.firstByte + p.offset, byteCount := count, after := after }
      else none

/-- The request of the slot of head `h` that holds line `n`, if the cursor holds that slot. -/
def requestOfLine (h : HeadId) (hd : Head) (n : Nat) : Option Request :=
  match slotOfLine hd n with
  | none => none
  | some k =>
    match hd.slots[k], hd.cursor[k] with
    | .active a, some p => requestAt h k a p
    | _, _ => none

/-- R102: the next request of head `h`: its lines in the order they are shown, from the line in progress
on, and within a slot the walk the cursor holds. -/
def nextRequest (h : HeadId) (s : State) : Option Request :=
  let hd := s.head h
  match hd.timing with
  | none => none
  | some t =>
    [hd.line, (hd.line + 1) % t.frameTotal, (hd.line + 2) % t.frameTotal].findSome? (requestOfLine h hd)

/-! ### The Port Arbiter (R107, R108) -/

/-- R107: the head's next request belongs to the line in progress on the head or to the line after it. -/
def urgent (s : State) (r : Request) : Bool :=
  let hd := s.head r.head
  match hd.timing with
  | none => false
  | some t => r.line == hd.line || r.line == (hd.line + 1) % t.frameTotal

/-- R107, R108: the request the Port Arbiter offers: the only one, or the urgent one, or between equals
that of the head it did not serve last. -/
def arbitrated (s : State) : Option Request :=
  match nextRequest 0 s, nextRequest 1 s with
  | none, r => r
  | r, none => r
  | some r0, some r1 =>
    if urgent s r0 = urgent s r1 then (if s.lastServed = 1 then some r0 else some r1)
    else if urgent s r0 then some r0 else some r1

/-- The lowest-numbered FREE tag (R106). -/
def freeTag? (s : State) : Option TagNo := allTags.find? (fun t => (s.tag t).state = .free)

/-- R106: what the port is offered: a request, with the tag it would take. -/
def offered (s : State) : Option (TagNo × Request) :=
  match freeTag? s, arbitrated s with
  | some t, some r => some (t, r)
  | _, _ => none

/-- R106: the port accepts request `r` under tag `t`. -/
def issue (t : TagNo) (r : Request) (s : State) : State :=
  let s := s.setTag t
    { state := .active, head := r.head, slot := r.slot, span := r.pos.span, layer := r.pos.layer
      window := r.window, address := r.address, byteCount := r.byteCount, age := 0 }
  let s := s.setHead r.head { s.head r.head with cursor := (s.head r.head).cursor.set r.slot r.after }
  let s := addRef r.window s
  { s with lastServed := r.head }

/-! ### Response arrival (R110 to R116) -/

/-- R110: the bytes taken for a tag: as many as its byte count, further ones discarded, missing ones 0. -/
def takenBytes (count : Nat) (data : List Byte) : List Byte :=
  data.take count ++ List.replicate (count - data.length) 0

/-- R111: bytes written at offset `o` of a segment; the offsets stay rising. -/
def writeBytes (bytes : List Host.Cell) (o : Nat) (data : List Byte) : List Host.Cell :=
  bytes.filter (fun c => c.1 < o)
  ++ (data.zipIdx o).map (fun e => (e.2, e.1))
  ++ bytes.filter (fun c => o + data.length ≤ c.1)

/-- R112: a FETCHING slot with no PENDING segment left is COMPLETE. -/
def ActiveLine.settle (a : ActiveLine) : ActiveLine :=
  if a.phase = .fetching ∧ pendingWindows a.spans = [] then { a with phase := .complete } else a

/-- Put changed content back into slot `k` of head `h`: the slot settles (R112), and the cursor's place
moves past segments that are PENDING no more (R101, R113, log 24). -/
def putContent (h : HeadId) (k : SlotNo) (a : ActiveLine) (s : State) : State :=
  setSlot h k (.active a.settle) ((s.head h).cursor[k].bind (nextPending a.spans)) s

/-- R111: the tag's bytes in its segment: written at their place and counted; a PENDING segment is FILLED
when the count reaches its length. -/
def Layer.receive (sp : Span) (address : Nat) (data : List Byte) (l : Layer) : Layer :=
  let arrived := l.arrived + data.length
  { l with bytes := writeBytes l.bytes (address - l.firstByte) data, arrived := arrived
           status := if l.status = .pending ∧ arrived = segmentLength sp l then .filled else l.status }

/-- R111: an OK response for ACTIVE tag `t`. -/
def okResponse (t : TagNo) (data : List Byte) (s : State) : State :=
  let tg := s.tag t
  let s := match (s.head tg.head).slots[tg.slot] with
    | .active a =>
      match a.spans[tg.span]? with
      | some sp =>
        putContent tg.head tg.slot
          { a with spans := modifyLayer (Layer.receive sp tg.address (takenBytes tg.byteCount data)) a.spans tg.span tg.layer } s
      | none => s
    | _ => s
  freeTag t s

/-- R113: the segment of span `i`, layer `j` of a slot becomes ABSENT and releases its reference, if it
holds one. -/
def dropSegment (h : HeadId) (k : SlotNo) (i j : Nat) (s : State) : State :=
  match (s.head h).slots[k] with
  | .active a =>
    match layerAt a.spans i j with
    | some l =>
      let s := putContent h k { a with spans := modifyLayer (fun l => { l with status := .absent }) a.spans i j } s
      if l.status = .absent then s else releaseRef l.window s
    | none => s
  | _ => s

/-- R4, R113: the window's fault becomes present with the failing address, with FETCH_FAULT to its owner,
when it was absent. -/
def setFault (w : WindowId) (address : Nat) (s : State) : State :=
  let v := s.window w
  match v.life with
  | .live hd img none => notify hd.owner (.fetchFault w) (s.setWindow w { v with life := .live hd img (some address) })
  | .retiring hd img none =>
    notify hd.owner (.fetchFault w) (s.setWindow w { v with life := .retiring hd img (some address) })
  | _ => s

/-- R113: an ERROR response for ACTIVE tag `t`, in the order of the rule: segment, other tags of the
segment, fault, tag. (`t` is among the segment's ACTIVE tags: it is FREE at the end like any other
tag that is answered.) -/
def errorResponse (t : TagNo) (s : State) : State :=
  let tg := s.tag t
  let s := dropSegment tg.head tg.slot tg.span tg.layer s
  let s := staleTags (fun u => u.head == tg.head && u.slot == tg.slot && u.span == tg.span && u.layer == tg.layer) s
  let s := setFault tg.window tg.address s
  freeTag t s

/-- R110: a response for tag `t`, by the state of its record. -/
def respondTag (t : TagNo) (status : RespStatus) (data : List Byte) (s : State) : State :=
  match (s.tag t).state, status with
  | .active, .ok => okResponse t data s
  | .active, .error => errorResponse t s
  | .stale, _ => freeTag t s
  | .abandoned, _ => freeTag t s
  | .free, _ => notify 0 (.strayResponse t) s

/-! ### The deadline (R117 to R119) -/

/-- R117: a PENDING segment becomes ABSENT. -/
def Layer.missDeadline (l : Layer) : Layer := if l.status = .pending then { l with status := .absent } else l

/-- R117: every PENDING segment of a list of spans becomes ABSENT. -/
def missDeadlines (spans : List Span) : List Span :=
  spans.map (fun sp => { sp with layers := sp.layers.map Layer.missDeadline })

/-- R117, R118, R125: the active start of head `h`'s line in progress. A FETCHING slot leaves the cursor,
its ACTIVE tags become STALE and its PENDING segments ABSENT with UNDERRUN and a release for each (R119;
the notices first, log 11); FETCHING and COMPLETE slots become SHOWING and the Line Assembler takes
them; in SEEKING nothing changes. -/
def takeDeadline (h : HeadId) (s : State) : State :=
  let hd := s.head h
  if hd.state.displaying then
    match slotOfLine hd hd.line with
    | none => s
    | some k =>
      match hd.slots[k] with
      | .active a =>
        match a.phase with
        | .fetching =>
          let missed := pendingWindows a.spans
          let s := s.setHead h { hd with
            slots := hd.slots.set k (.active { a with phase := .showing, spans := missDeadlines a.spans })
            cursor := hd.cursor.set k none
            showing := some { slot := k, position := 0 } }
          let s := staleTags (fun u => u.head == h && u.slot == k) s
          let s := notifyOwners .underrun missed s
          releaseRefs missed s
        | .complete =>
          s.setHead h { hd with
            slots := hd.slots.set k (.active { a with phase := .showing })
            cursor := hd.cursor.set k none
            showing := some { slot := k, position := 0 } }
        | .showing => s
      | _ => s
  else s

/-! ### Ageing (R120) -/

/-- R120: a tag that ages at a line start of its head: an ACTIVE or STALE tag of it. -/
def Tag.agesWith (t : Tag) (h : HeadId) : Bool := t.head == h && (t.state == .active || t.state == .stale)

/-- R120: the tag after a line start of head `h`: one older, ABANDONED at age 4. -/
def Tag.aged (t : Tag) (h : HeadId) : Tag :=
  if t.agesWith h then
    { t with age := t.age + 1, state := if t.age + 1 = expiryAge then .abandoned else t.state }
  else t

/-- R120: the tag becomes ABANDONED at a line start of head `h`. -/
def Tag.expiresWith (t : Tag) (h : HeadId) : Bool := t.agesWith h && t.age + 1 == expiryAge

/-- R120: age the tags of head `h`; TAG_ABANDONED for each that expires, in ascending tag number. -/
def ageTags (h : HeadId) (s : State) : State :=
  let expired := allTags.filter (fun t => (s.tag t).expiresWith h)
  let s' := { s with tags := Vector.ofFn (fun i => s.tags[i].aged h) }
  expired.foldl (fun s' t => notify 0 (.tagAbandoned (s.tag t).window) s') s'

end Sys2Proof.Machine
end

