-- ==== Sys2Proof/Machine/Assembly.lean ====
section
/-! DEFINITION. Line Assembly (07): from an output position of a slot to a 24-bit pixel. -/

namespace Sys2Proof.Machine

/-- The byte at an offset of a layer's segment. A FILLED segment holds every byte of its length (R111);
an offset that holds none does not arise there, and reads 0 (log 17). -/
def Layer.byteAt (l : Layer) (i : Nat) : Nat :=
  match l.bytes.find? (fun c => c.1 == i) with
  | some c => c.2.toNat
  | none => 0

/-- R129, R130: the value of the layer's pixel whose bytes begin at offset `o`: all 16 bits for P16, the
colour value of the first three bytes for P32. -/
def Layer.pixelValue (l : Layer) (o : Nat) : Nat :=
  match l.format with
  | .p16 => l.byteAt o + 256 * l.byteAt (o + 1)
  | .p32 => l.byteAt o + 256 * l.byteAt (o + 1) + 65536 * l.byteAt (o + 2)

/-- R131: the key test, exact, on the low 16 or 24 bits of the key. -/
def Layer.transparentAt (l : Layer) (o : Nat) : Bool :=
  match l.key, l.format with
  | none, _ => false
  | some k, .p16 => l.pixelValue o == k.toNat % 65536
  | some k, .p32 => l.pixelValue o == k.toNat % 16777216

/-- A colour from its components (00, signal summary: 8 bits each of red, green and blue). -/
def colourOf (red green blue : Nat) : Colour := BitVec.ofNat 24 (65536 * red + 256 * green + blue)

/-- R129: red component of a P16 value. -/
def p16Red (v : Nat) : Nat := v / 2048
/-- R129: green component of a P16 value. -/
def p16Green (v : Nat) : Nat := v / 32 % 64
/-- R129: blue component of a P16 value. -/
def p16Blue (v : Nat) : Nat := v % 32

/-- R133: a 5-bit component widened to 8 bits. -/
def widen5 (c : Nat) : Nat := c * 8 + c / 4
/-- R133: a 6-bit component widened to 8 bits. -/
def widen6 (c : Nat) : Nat := c * 4 + c / 16

/-- R133: the pixel value of a format as an output pixel. -/
def widenPixel (f : PixelFormat) (v : Nat) : Colour :=
  match f with
  | .p16 => colourOf (widen5 (p16Red v)) (widen6 (p16Green v)) (widen5 (p16Blue v))
  | .p32 => BitVec.ofNat 24 v

/-- R128: byte offset, in the segment of a layer of this span, of the pixel at position `p`. -/
def pixelOffset (sp : Span) (l : Layer) (p : Nat) : Nat := (p - sp.xStart) * l.format.bytes

/-- R132: the layer shows at position `p`: its segment is FILLED and it is not transparent there. -/
def Layer.showsAt (l : Layer) (sp : Span) (p : Nat) : Bool :=
  l.status == .filled && !l.transparentAt (pixelOffset sp l p)

/-- R127: the span that holds position `p`. -/
def spanAt (spans : List Span) (p : Nat) : Option Span := spans.find? (fun sp => sp.xStart ≤ p && p ≤ sp.xEnd)

/-- R132: the pixel of a span at position `p`: the first layer from the top that shows there, widened, or
the background colour when none does. -/
def spanPixel (sp : Span) (background : Colour) (p : Nat) : Colour :=
  match sp.layers.find? (fun l => l.showsAt sp p) with
  | some l => widenPixel l.format (l.pixelValue (pixelOffset sp l p))
  | none => background

/-- R127, R132: the pixel a list of spans produces at position `p`. -/
def spansPixel (spans : List Span) (background : Colour) (p : Nat) : Colour :=
  match spanAt spans p with
  | some sp => spanPixel sp background p
  | none => background

/-- R126, R132: the pixel the head's Line Assembler produces for its output position; the background
colour when it holds no slot. -/
def Head.assembledPixel (hd : Head) (background : Colour) : Colour :=
  match hd.showing with
  | none => background
  | some sh =>
    match hd.slots[sh.slot] with
    | .active a => spansPixel a.spans background sh.position
    | _ => background

end Sys2Proof.Machine
end

