-- ==== Sys2Proof/Machine/Flags.lean ====
section
/-! DEFINITION. The outputs the part computes from its state: NOTICE and the channels' notice
indications (R158), the STATUS word (R165), and each head's sync, active and pixel outputs (R53 to
R57). None of them is stored (log 20). -/

namespace Sys2Proof.Machine

/-! ### Notice indication and NOTICE (R158) -/

/-- The pending kinds of a record, by the kind positions of 10.8. -/
def NoticeRecord.pendingKinds (r : NoticeRecord) : List Bool :=
  [r.committed.isSome, r.underrun.isSome, r.layerDropped.isSome, r.fetchFault.isSome, r.retired.isSome,
   r.followLocked.isSome, r.followLost.isSome, r.tagAbandoned.isSome, r.strayResponse.isSome,
   r.clientClosed.isSome]

/-- The pending set of a record as bits 9:0 (10.8). -/
def NoticeRecord.pendingBits (r : NoticeRecord) : BitVec 10 := BitVec.ofBoolListLE r.pendingKinds

/-- A kind is pending that is not in the mask (R158). -/
def NoticeRecord.unmasked (r : NoticeRecord) : Bool := r.pendingBits &&& ~~~r.mask != 0

/-- R158: the notice indication of channel `c`: its client is OPEN and has a pending, unmasked kind. -/
def State.indication (s : State) (c : ClientId) : Bool :=
  (s.client c).state == .opened && (s.notice c).unmasked

/-- R158: NOTICE is asserted while at least one OPEN client has a pending, unmasked kind. -/
def State.noticeLine (s : State) : Bool := allClients.any (fun c => s.indication c)

/-! ### STATUS (R165, 10.8) -/

/-- The channel state field of STATUS. -/
def ChannelState.code : ChannelState → Nat
  | .opened => 0
  | .closed => 1
  | .framingLost => 2

/-- R165: the STATUS word of channel `c`. -/
def State.statusWord (s : State) (c : ClientId) : Word :=
  let ch := s.channel c
  packWord [(4, 0, fifoDepth - ch.commands.length), (12, 8, ch.responses.length), (17, 16, ch.state.code),
    (24, 24, markBit (s.indication c))]

/-! ### Head outputs (R53 to R57)

A head drives its running outputs from its first line start on; until then, and while it is
STOPPED, it drives its STOPPED values (R57, R59). The counters name the pixel period in progress. -/

/-- The head drives its running outputs. -/
def Head.raster (hd : Head) : Option TimingSet :=
  if hd.state.running && !hd.startPending then hd.timing else none

/-- R53: LSYNCn is high. -/
def Head.lsyncHigh (hd : Head) : Bool :=
  match hd.raster with
  | some t => t.lineSyncEnd < hd.pixel
  | none => true

/-- R54: FSYNCn is high. -/
def Head.fsyncHigh (hd : Head) : Bool :=
  match hd.raster with
  | some t => t.frameSyncEnd < hd.line
  | none => true

/-- R51: the pixel period in progress is an active pixel period of an active line. -/
def Head.inActivePeriod (hd : Head) (t : TimingSet) : Bool :=
  t.isActive hd.line && t.activeStartPixel ≤ hd.pixel && hd.pixel < t.activeStartPixel + t.activeWidth

/-- R55: ACTIVEn is high. -/
def Head.activeHigh (hd : Head) : Bool :=
  match hd.raster with
  | some t => hd.state.displaying && hd.inActivePeriod t
  | none => false

/-- R56: the background colour of the head's timing set, or 0 when it holds none. -/
def Head.backgroundColour (hd : Head) : Colour :=
  match hd.timing with
  | some t => t.background
  | none => 0

/-- R56: PIXn: the assembled pixel in an active pixel period of a displaying head, and the background
colour at every other time. -/
def Head.pix (hd : Head) : Colour :=
  if hd.activeHigh then hd.assembledPixel hd.backgroundColour else hd.backgroundColour

end Sys2Proof.Machine
end

