-- ==== Sys2Proof/Machine/Raster.lean ====
section
/-! DEFINITION. The Raster Timer's events (03, 04): the line start with everything it brings, the pixel
period, the mark arrival. -/

namespace Sys2Proof.Machine

/-! ### What kind of line start it is (R50, R59, R71, R73, R75 to R77) -/

/-- What a line start does to the line counter and the follow record. -/
structure LineKind where
  /-- the line that begins -/
  line      : Nat
  /-- it is a frame end (R50) -/
  frameEnd  : Bool
  /-- it is a corrected wrap (R71, R73) -/
  corrected : Bool
  /-- it is the locking wrap of a SEEKING head, or the first line start with a pending wrap (R71) -/
  locks     : Bool
  /-- the frame it ends is judged (R75) -/
  judged    : Bool
  /-- the judged frame is good (R75) -/
  good      : Bool
deriving DecidableEq, Repr

/-- R75: a frame is good when its tally is one and its band mark is yes. -/
def Head.frameGood (hd : Head) : Bool := hd.tally == .one && hd.bandMark

/-- The kind of the next line start of a head. The first after START_HEAD takes line 0 and is no frame
end (R59); a pending wrap takes line 0, as a corrected wrap unless line 0 comes next anyway (R71, R73);
otherwise the counter advances, or wraps naturally (R50). -/
def lineKind (hd : Head) (t : TimingSet) : LineKind :=
  let locks := hd.state == .seeking && hd.pendingWrap
  if hd.startPending then
    { line := 0, frameEnd := false, corrected := false, locks := locks, judged := false, good := false }
  else
    let natural := hd.line + 1 == t.frameTotal
    let frameEnd := hd.pendingWrap || natural
    { line := if frameEnd then 0 else hd.line + 1
      frameEnd := frameEnd
      corrected := hd.pendingWrap && !natural
      locks := locks
      judged := frameEnd && hd.state.judged
      good := hd.frameGood }

/-- R76: the miss count after the line start. -/
def missesAfter (hd : Head) (k : LineKind) : Nat :=
  if k.locks then 0 else if k.judged then (if k.good then 0 else hd.misses + 1) else hd.misses

/-- R77: the line start loses the lock: its judgement brings the miss count to 3. -/
def losesLock (hd : Head) (k : LineKind) : Bool := k.judged && !k.good && hd.misses + 1 == missLimit

/-- R71, R76, R77: the head state after the line start. -/
def stateAfter (hd : Head) (k : LineKind) : HeadState :=
  if k.locks then .locked
  else if losesLock hd k then .seeking
  else if k.judged then (if k.good then .locked else .holdover)
  else hd.state

/-- The Raster Timer's own part of a line start: counters, head state and follow record (R49, R50, R68,
R71, R75 to R77). -/
def Head.takeLine (hd : Head) (k : LineKind) : Head :=
  { hd with
    state := stateAfter hd k
    pixel := 0
    line := k.line
    frames := if k.frameEnd then hd.frames + 1 else hd.frames
    misses := missesAfter hd k
    tally := if k.frameEnd then .zero else hd.tally
    bandMark := if k.frameEnd then false else hd.bandMark
    pendingWrap := false
    startPending := false }

/-! ### The line start (3.2.1) -/

/-- R83: release the slot holding the line that ended and resolve the line two after the one that
begins into it. -/
def releaseAndResolve (h : HeadId) (t : TimingSet) (ended begun : Nat) (s : State) : State :=
  match slotOfLine (s.head h) ended with
  | none => s
  | some k => resolveInto h k ((begun + 2) % t.frameTotal) (emptySlot h k s)

/-- The Span Resolver's part of a line start: three lines at the first after START_HEAD (R59), at a
corrected wrap (R74) and at the loss of lock (R77), otherwise one (R83). -/
def resolverStep (h : HeadId) (t : TimingSet) (first : Bool) (ended : Nat) (k : LineKind) (lost : Bool)
    (s : State) : State :=
  if first then resolveFirstThree h s
  else if k.corrected || lost then resolveFirstThree h (emptySlots h s)
  else releaseAndResolve h t ended k.line s

/-- R77: the head's ACTIVE tags become STALE at the loss of lock. -/
def staleHead (h : HeadId) (s : State) : State := staleTags (fun u => u.head == h) s

/-- The Window Table's part: the apply at the commit point (R52, R35). -/
def commitStep (h : HeadId) (t : TimingSet) (k : LineKind) (s : State) : State :=
  if k.line = t.commitLine then applyQueue h s else s

/-- The slot that the line start of a commit line releases still holds a reference, and the queue is not
empty: only then can the order of R17 be seen (log 4). -/
def commitRaces (h : HeadId) (t : TimingSet) (ended : Nat) (k : LineKind) (s : State) : Bool :=
  k.line == t.commitLine && !(s.head h).commitQueue.isEmpty &&
  (match slotOfLine (s.head h) ended with
   | none => false
   | some j => !((s.head h).slots[j].references).isEmpty)

/-- The release and the apply of one line start, in this order. -/
def lineWork (releaseFirst : Bool) (h : HeadId) (t : TimingSet) (first : Bool) (ended : Nat)
    (k : LineKind) (lost : Bool) (s : State) : State :=
  if releaseFirst then commitStep h t k (resolverStep h t first ended k lost s)
  else resolverStep h t first ended k lost (commitStep h t k s)

/-- The notices of a line start's frame boundary: FOLLOW_LOCKED (R71), FOLLOW_LOST (R77). -/
def followNotices (h : HeadId) (k : LineKind) (lost : Bool) (s : State) : State :=
  let s := if k.locks then notify 0 (.followLocked h) s else s
  if lost then notify 0 (.followLost h) s else s

/-- One line start of head `h`, whole (R49, R50, R52, R59, R71 to R77, R83, R120). The release and the
apply of a commit point are taken in the order the free value gives where the order can be seen (R17,
log 4). -/
def takeLineStart (h : HeadId) (s : State) : State :=
  let hd := s.head h
  match hd.timing with
  | none => s
  | some t =>
    let k := lineKind hd t
    let lost := losesLock hd k
    let s := s.setHead h (hd.takeLine k)
    let s := followNotices h k lost s
    let s :=
      if commitRaces h t hd.line k s then
        { lineWork (Config.releaseFirst s.raceDraws) h t hd.startPending hd.line k lost s with
          raceDraws := s.raceDraws + 1 }
      else lineWork true h t hd.startPending hd.line k lost s
    let s := if lost then staleHead h s else s
    ageTags h s

/-! ### Which events are due (R49, R51, R59) -/

/-- R49, R59: the next period of the head's pixel clock raises a line start: the first after START_HEAD,
or the pass from line total - 1 to 0. -/
def Head.lineStartDue (hd : Head) : Bool :=
  match hd.timing with
  | none => false
  | some t => hd.state.running && (hd.startPending || hd.pixel + 1 == t.lineTotal)

/-- R51: the next period of the head's pixel clock raises the active start: in it the pixel counter reaches
the active start pixel of an active line. -/
def Head.activeStartDue (hd : Head) : Bool :=
  match hd.raster with
  | none => false
  | some t => t.isActive hd.line && hd.pixel + 1 == t.activeStartPixel

/-- The line start that is due for head `h` loses the lock (R77). -/
def Head.lossDue (hd : Head) : Bool :=
  match hd.timing with
  | none => false
  | some t => hd.lineStartDue && losesLock hd (lineKind hd t)

/-! ### The pixel period (R49, R125, R126) -/

/-- R125, R126: the Line Assembler at the end of an active pixel period: its position advances, and after
position active width - 1 it gives up the slot. -/
def Head.advanceAssembler (hd : Head) : Head :=
  match hd.raster, hd.showing with
  | some t, some sh =>
    if hd.state.displaying && hd.inActivePeriod t then
      { hd with showing :=
          if sh.position + 1 < t.activeWidth then some { sh with position := sh.position + 1 } else none }
    else hd
  | _, _ => hd

/-- The line start that is due, after the pixel period that ends there (R126 where the last active pixel
is the last of the line). -/
def endLine (h : HeadId) (s : State) : State := takeLineStart h (s.setHead h (s.head h).advanceAssembler)

/-- R51, R117, R118, R125: the active start: the pixel counter reaches the active start pixel, and in the same
step the line's slot meets its deadline and the Line Assembler takes it with position 0, so that position 0 is
on PIXn in this very period (R126). -/
def takeActiveStart (h : HeadId) (s : State) : State :=
  takeDeadline h (s.setHead h { s.head h with pixel := (s.head h).pixel + 1 })

/-- One period of head `h`'s pixel clock (R49, R126), with the active start (R51) or the line start that it
raises; a STOPPED head does not count. -/
def takePixelPeriod (h : HeadId) (s : State) : State :=
  if (s.head h).state.running then
    if (s.head h).activeStartDue then takeActiveStart h s
    else if (s.head h).lineStartDue then endLine h s
    else
      let hd := (s.head h).advanceAssembler
      s.setHead h { hd with pixel := hd.pixel + 1 }
  else s

/-! ### Mark arrivals (R69 to R73) -/

/-- R72: a mark taken at line `v` is in band. -/
def TimingSet.inBand (t : TimingSet) (v : Nat) : Bool :=
  v == 0 || (1 ≤ v && v ≤ t.captureBand) || (t.frameTotal ≤ v + t.captureBand && v + 1 ≤ t.frameTotal)

/-- R72: the tally after one more mark. -/
def Tally.next : Tally → Tally
  | .zero => .one
  | .one => .many
  | .many => .many

/-- R70, R72, R73: a mark arrival at a head. -/
def Head.takeMark (hd : Head) : Head :=
  match hd.state, hd.timing with
  | .seeking, _ => { hd with pendingWrap := true }
  | .locked, some t | .holdover, some t =>
    { hd with
      tally := hd.tally.next
      bandMark := if hd.tally = .zero then t.inBand hd.line else if hd.tally = .one then false else hd.bandMark
      pendingWrap := hd.pendingWrap || (t.inBand hd.line && hd.line != 0 && hd.line + 1 != t.frameTotal) }
  | _, _ => hd

/-! ### Stopping (R60, R42) -/

/-- R60, R42, R68, R135: STOP_HEAD of a running head. The slots are emptied, the cursor cleared and the
ACTIVE tags made STALE before the Commit Queue is applied. -/
def stopRunning (h : HeadId) (s : State) : State :=
  let s := s.setHead h { s.head h with
    state := .stopped, pixel := 0, line := 0, misses := 0, tally := .zero, bandMark := false
    pendingWrap := false, startPending := false, showing := none }
  let s := emptySlots h s
  let s := staleHead h s
  applyQueue h s

end Sys2Proof.Machine
end

