-- ==== Sys2Proof/Machine/Events.lean ====
section
/-! DEFINITION. The events of the raster and of the memory port, one meaning each. An event that is not due
in a state is not raised there, and nothing happens (log 2). -/

namespace Sys2Proof.Machine

/-- LINE_START (R49, R50, R83): the line start of head `h`, when it is due. -/
def execLineStart (h : HeadId) (s : State) : Host.Outcome State Fault Refusal :=
  .next (if (s.head h).lineStartDue then endLine h s else s)

/-- TAG_EXPIRY (R120): the line start of tag `t`'s head that makes `t` ABANDONED, when that line start is due
(log 5). -/
def execTagExpiry (t : TagNo) (s : State) : Host.Outcome State Fault Refusal :=
  let h := (s.tag t).head
  .next (if (s.head h).lineStartDue && (s.tag t).expiresWith h then endLine h s else s)

/-- LOSS_OF_LOCK (R77): the line start of head `h` whose judgement is the third miss in a row, when that line
start is due (log 5). -/
def execLossOfLock (h : HeadId) (s : State) : Host.Outcome State Fault Refusal :=
  .next (if (s.head h).lossDue then endLine h s else s)

/-- ACTIVE_START (R51, R117, R118): the active start of head `h`'s line in progress, when the next pixel period
raises it (log 6). -/
def execActiveStart (h : HeadId) (s : State) : Host.Outcome State Fault Refusal :=
  .next (if (s.head h).activeStartDue then takeActiveStart h s else s)

/-- MARK_ARRIVAL (R69 to R73): a rising edge on MARKn; ignored while RESET_N is low (R166). -/
def execMarkArrival (h : HeadId) (s : State) : Host.Outcome State Fault Refusal :=
  .next (if s.resetHeld then s else s.setHead h (s.head h).takeMark)

/-- REQUEST_ISSUE (R106): the Memory Request Port accepts what the Port Arbiter offers; while nothing is offered,
nothing is issued (R123). -/
def execRequestIssue (s : State) : Host.Outcome State Fault Refusal :=
  .next (match offered s with
    | some (t, r) => issue t r s
    | none => s)

/-- RESPONSE_ARRIVAL (R110): a whole response; its tag and status are those of its last beat, its bytes those of
its beats in order. Discarded with no notice while RESET_N is low (R166). -/
def execResponseArrival (earlier : List Beat) (final : Beat) (s : State) : Host.Outcome State Fault Refusal :=
  .next (if s.resetHeld then s
    else respondTag final.tag final.status ((earlier ++ [final]).flatMap Beat.data) s)

/-- PIXEL_PERIOD (R49, R126): one period of PCLKn. -/
def execPixelPeriod (h : HeadId) (s : State) : Host.Outcome State Fault Refusal :=
  .next (takePixelPeriod h s)

end Sys2Proof.Machine
end

