-- ==== Sys2Proof/Machine/HeadCommands.lean ====
section
/-! DEFINITION. The head commands (03): SET_TIMING, START_HEAD, STOP_HEAD, QUERY_HEAD. -/

namespace Sys2Proof.Machine

/-- R48, R66: head argument, head state, validity, in this order; then the set held is replaced. The head is
the field 15:0 of word 6, whose bits 31:16 are not read (10.8, R174). -/
def bodySetTiming : Body := fun _c args s =>
  match headNamed (argField args 5 15 0) with
  | none => (s, refusal .badCommand)
  | some h =>
    if (s.head h).state ≠ .stopped then (s, refusal .headState)
    else if (timingOf args).valid = false then (s, refusal .badTiming)
    else (s.setHead h { s.head h with timing := some (timingOf args) }, accepted [])

/-- SET_TIMING (20h; 7 words). -/
def execSetTiming (s : State) : Host.Outcome State Fault Refusal :=
  .next (engineTake codeSetTiming 7 (supervisorOnly bodySetTiming) s)

/-- START_HEAD's mode argument: 0 FREE, 1 FOLLOW (10.8); the state each enters (R58). -/
def modeNamed : Nat → Option HeadState
  | 0 => some .freeRun
  | 1 => some .seeking
  | _ => none

/-- R58, R68: the head after START_HEAD, its first line start pending (R59). -/
def Head.started (hd : Head) (st : HeadState) : Head :=
  { hd with
    state := st, pixel := 0, line := 0, frames := 0, misses := 0, tally := .zero, bandMark := false
    pendingWrap := false, startPending := true }

/-- R66, R58: head and mode arguments, head state, timing set, in this order; then the start. -/
def bodyStartHead : Body := fun _c args s =>
  match headNamed (argNat args 0), modeNamed (argNat args 1) with
  | some h, some st =>
    if (s.head h).state ≠ .stopped then (s, refusal .headState)
    else if (s.head h).timing.isNone then (s, refusal .badTiming)
    else (s.setHead h ((s.head h).started st), accepted [])
  | _, _ => (s, refusal .badCommand)

/-- START_HEAD (21h; head; mode). -/
def execStartHead (s : State) : Host.Outcome State Fault Refusal :=
  .next (engineTake codeStartHead 2 (supervisorOnly bodyStartHead) s)

/-- R66, R60: a STOPPED head answers OK and nothing changes. -/
def bodyStopHead : Body := fun _c args s =>
  match headNamed (argNat args 0) with
  | none => (s, refusal .badCommand)
  | some h => if (s.head h).state = .stopped then (s, accepted []) else (stopRunning h s, accepted [])

/-- STOP_HEAD (22h; head). -/
def execStopHead (s : State) : Host.Outcome State Fault Refusal :=
  .next (engineTake codeStopHead 1 (supervisorOnly bodyStopHead) s)

/-- Head state field of QUERY_HEAD (10.8). -/
def HeadState.code : HeadState → Nat
  | .stopped => 0
  | .freeRun => 1
  | .seeking => 2
  | .locked => 3
  | .holdover => 4

/-- R63, 10.8: the two result words. -/
def headWords (hd : Head) : List Word :=
  [packWord [(2, 0, hd.state.code), (8, 8, markBit hd.timing.isSome), (17, 16, hd.misses)],
   packWord [(15, 0, hd.line), (31, 16, hd.frames.toNat)]]

/-- R64, R66, R63: a tenant needs the head permitted; then the head argument; then the answer. -/
def bodyQueryHead : Body := fun c args s =>
  if c ≠ 0 ∧ (s.client c).permittedHead (argNat args 0) = none then (s, refusal .notPermitted)
  else
    match headNamed (argNat args 0) with
    | none => (s, refusal .badCommand)
    | some h => (s, accepted (headWords (s.head h)))

/-- QUERY_HEAD (23h; head). -/
def execQueryHead (s : State) : Host.Outcome State Fault Refusal :=
  .next (engineTake codeQueryHead 1 bodyQueryHead s)

end Sys2Proof.Machine
end

