-- ==== Sys2Proof/Machine/HostBus.lean ====
section
/-! DEFINITION. The host bus and RESET_N (10.1 to 10.4): what a write and a read of every word of the nine
pages does, and device reset. -/

namespace Sys2Proof.Machine

/-- R166: the whole part into its reset state in one step. The queue of commands and the counter of races
are the model's own and are kept (log 7, log 22). -/
def deviceReset (s : State) : State :=
  { State.reset with pending := s.pending, raceDraws := s.raceDraws }

/-- R162: a write to COMMAND of channel `c`. -/
def writeCommand (c : ClientId) (w : Word) (s : State) : State :=
  let ch := s.channel c
  match ch.state with
  | .opened =>
    if ch.commands.length < fifoDepth then s.setChannel c { ch with commands := ch.commands ++ [w] }
    else s.setChannel c { ch with state := .framingLost }
  | _ => s

/-- R163: a write to CONTROL of channel `c`. -/
def writeControl (c : ClientId) (w : Word) (s : State) : State :=
  if actionOf w = actionResync then
    let ch := s.channel c
    s.setChannel c { ch with
      commands := [], state := if ch.state = .framingLost then .opened else ch.state }
  else s

/-- R166: a write to word 0 of the device control page. -/
def writeDevice (w : Word) (s : State) : State := if actionOf w = actionReset then deviceReset s else s

/-- The channel whose page this is, for pages 0 to 7 (R160). -/
def channelOfPage (page : PageNo) : Option ClientId := clientOf page.val where
  /-- A number 0 to 7 as a channel. -/
  clientOf (n : Nat) : Option ClientId := if h : n < 8 then some ⟨n, h⟩ else none

/-- R160, R166: a host write to any word of any page, taken as a whole word; discarded while RESET_N is
low. -/
def hostWrite (page : PageNo) (word : WordIndex) (lanes : Lanes) (data : Word) (s : State) : State :=
  if s.resetHeld then s
  else
    match channelOfPage page with
    | some c =>
      if word = commandIndex then writeCommand c (maskLanes lanes data) s
      else if word = controlIndex then writeControl c (maskLanes lanes data) s
      else s
    | none => if word = 0 then writeDevice (maskLanes lanes data) s else s

/-- R164: a read of RESPONSE of channel `c`: the oldest word, or 0 when the FIFO is empty. -/
def readResponse (c : ClientId) (s : State) : Word × State :=
  let ch := s.channel c
  match ch.responses with
  | [] => (0, s)
  | w :: rest => (w, s.setChannel c { ch with responses := rest })

/-- R160, R164 to R166: a host read of any word of any page: the word returned and the state after. While
RESET_N is low it returns 0. -/
def hostRead (page : PageNo) (word : WordIndex) (s : State) : Word × State :=
  if s.resetHeld then (0, s)
  else
    match channelOfPage page with
    | some c =>
      if word = responseIndex then readResponse c s
      else if word = statusIndex then (s.statusWord c, s)
      else (0, s)
    | none => (0, s)

/-- The page of channel `c` (R160). -/
def pageOf (c : ClientId) : PageNo := ⟨c.val, by omega⟩

/-- COMMAND_WRITE: a host write to a channel's COMMAND word. -/
def execCommandWrite (ch : ClientId) (lanes : Lanes) (data : Word) (s : State) :
    Host.Outcome State Fault Refusal :=
  .next (hostWrite (pageOf ch) commandIndex lanes data s)

/-- RESPONSE_READ: a host read of a channel's RESPONSE word; the word returned stands on the read data
lines (log 8). -/
def execResponseRead (ch : ClientId) (s : State) : Host.Outcome State Fault Refusal :=
  let r := hostRead (pageOf ch) responseIndex s
  .next { r.2 with readData := r.1 }

/-- RESYNC: a host write to a channel's CONTROL word. -/
def execResync (ch : ClientId) (lanes : Lanes) (data : Word) (s : State) :
    Host.Outcome State Fault Refusal :=
  .next (hostWrite (pageOf ch) controlIndex lanes data s)

/-- RESET: a host write to word 0 of the device control page. -/
def execReset (lanes : Lanes) (data : Word) (s : State) : Host.Outcome State Fault Refusal :=
  .next (hostWrite devicePage 0 lanes data s)

/-- HOST_WRITE_DISCARDED: a host write to a word whose writes are discarded (log 14). -/
def execHostWriteDiscarded (page : PageNo) (word : WordIndex) (lanes : Lanes) (data : Word) (s : State) :
    Host.Outcome State Fault Refusal :=
  .next (hostWrite page word lanes data s)

/-- RESET_N low: every block in its reset state, held there (R166). -/
def execResetN (s : State) : Host.Outcome State Fault Refusal :=
  .next { deviceReset s with resetHeld := true }

/-- RESET_N rises: the part runs from its reset state (R166). -/
def execResetNRise (s : State) : Host.Outcome State Fault Refusal :=
  .next { s with resetHeld := false }

end Sys2Proof.Machine
end

