-- ==== Sys2Proof/Machine/ServiceCommands.lean ====
section
/-! DEFINITION. The remaining messages: RECLAIM_TAGS (06), FETCH_NOTICES and SET_NOTICE_MASK (09), and a
message whose command code is in no row of the command table (R171). -/

namespace Sys2Proof.Machine

/-! ### RECLAIM_TAGS (R122) -/

/-- The ABANDONED tags, in ascending number. -/
def State.abandonedTags (s : State) : List TagNo := allTags.filter (fun t => (s.tag t).state = .abandoned)

/-- R122: every ABANDONED tag FREE with its release, in ascending number; the answer is how many. -/
def bodyReclaimTags : Body := fun _c _args s =>
  let ts := s.abandonedTags
  (ts.foldl (fun s t => freeTag t s) s, accepted [BitVec.ofNat 32 ts.length])

/-- RECLAIM_TAGS (40h; no arguments). -/
def execReclaimTags (s : State) : Host.Outcome State Fault Refusal :=
  .next (engineTake codeReclaimTags 0 (supervisorOnly bodyReclaimTags) s)

/-! ### FETCH_NOTICES (R155, R156) -/

/-- The number of a subject, 0 when none is held (R155). -/
def subject {n : Nat} (x : Option (Fin n)) : Nat :=
  match x with
  | some v => v.val
  | none => 0

/-- R155, 10.8: the three result words of a record. -/
def noticeWords (r : NoticeRecord) : List Word :=
  [packWord [(9, 0, r.pendingBits.toNat), (17, 16, (r.committed.getD ⟨false, false⟩).code)],
   packWord [(7, 0, subject r.underrun), (15, 8, subject r.layerDropped), (23, 16, subject r.fetchFault),
     (31, 24, subject r.retired)],
   packWord [(3, 0, subject r.followLocked), (7, 4, subject r.followLost), (15, 8, subject r.tagAbandoned),
     (19, 16, subject r.strayResponse), (23, 20, subject r.clientClosed)]]

/-- R155: the record reported, every kind made not pending, the mask left as it was. -/
def bodyFetchNotices : Body := fun c _args s =>
  let r := s.notice c
  (s.setNotice c { NoticeRecord.cleared with mask := r.mask }, accepted (noticeWords r))

/-- FETCH_NOTICES (50h; no arguments). -/
def execFetchNotices (s : State) : Host.Outcome State Fault Refusal :=
  .next (engineTake codeFetchNotices 0 bodyFetchNotices s)

/-! ### SET_NOTICE_MASK (R154) -/

/-- R154: the kind set is one the client may name: bits 9:0, and for a tenant bits 4:0. -/
def maskNamed (c : ClientId) (n : Nat) : Option (BitVec 10) :=
  if 2 ^ 10 ≤ n then none
  else if c ≠ 0 ∧ 2 ^ 5 ≤ n then none
  else some (BitVec.ofNat 10 n)

/-- R154: the mask replaced, or BAD_COMMAND. -/
def bodySetNoticeMask : Body := fun c args s =>
  match maskNamed c (argNat args 0) with
  | none => (s, refusal .badCommand)
  | some mask => (s.setNotice c { s.notice c with mask := mask }, accepted [])

/-- SET_NOTICE_MASK (51h; kind set). -/
def execSetNoticeMask (s : State) : Host.Outcome State Fault Refusal :=
  .next (engineTake codeSetNoticeMask 1 bodySetNoticeMask s)

/-! ### An unknown command code (R171) -/

/-- R171 check 1: consumed by its count and answered BAD_COMMAND. -/
def bodyUnknown : Body := fun _c _args s => (s, refusal .badCommand)

/-- A message whose command code is not in the command table. -/
def execUnknownCommandCode (s : State) : Host.Outcome State Fault Refusal :=
  .next (match s.nextMessage with
    | none => s
    | some t => if knownCodes.contains t.message.code then s else takeMessage t bodyUnknown s)

end Sys2Proof.Machine
end

