-- ==== Sys2Proof/Machine/WindowCommands.lean ====
section
/-! DEFINITION. The window commands (01, 02): RESERVE, PLACE, SOURCE, KEY, SHOW, HIDE, RETIRE, COMMIT,
QUERY_WINDOW. -/

namespace Sys2Proof.Machine

/-! ### RESERVE (R8, R9) -/

/-- The lowest-numbered FREE window (R9). -/
def State.lowestFree (s : State) : Option WindowId := allWindows.find? (fun w => (s.window w).isFree)

/-- R9: window `w` becomes RESERVED for client `c` on head `h`, and the owner's held count rises. -/
def reserveWindow (w : WindowId) (c : ClientId) (h : HeadId) (s : State) : State :=
  let s := s.setWindow w { s.window w with life := .reserved { owner := c, head := h, staged := Staged.fresh } }
  s.setClient c { s.client c with held := (s.client c).held + 1 }

/-- R8: the refusals in their order; R9: the effect. -/
def bodyReserve : Body := fun c args s =>
  match (s.client c).permittedHead (argNat args 0) with
  | none => (s, refusal .notPermitted)
  | some h =>
    if (s.client c).held = (s.client c).quota then (s, refusal .quota)
    else
      match s.lowestFree with
      | none => (s, refusal .noWindow)
      | some w => (reserveWindow w c h s, accepted [BitVec.ofNat 32 w.val])

/-- RESERVE (10h; head). -/
def execReserve (s : State) : Host.Outcome State Fault Refusal :=
  .next (engineTake codeReserve 1 bodyReserve s)

/-! ### PLACE (R26) -/

/-- The geometry PLACE carries: x and y, width and height (10.8). -/
def placeGeometry (args : List Word) : Geometry :=
  { x := argField args 1 15 0, y := argField args 1 31 16
    width := argField args 2 15 0, height := argField args 2 31 16 }

/-- R26: the ranges, then the pitch against the new width, then the aperture; then geometry and depth. -/
def editPlace (w : WindowId) (hd : Held) : Body := fun _c args s =>
  let g := placeGeometry args
  let depth := argNat args 3
  let img := { hd.staged.image with geometry := some g, depth := depth }
  if g.inRange = false ∨ 31 < depth then (s, refusal .badGeometry)
  else if (match img.source with
           | some src => !pitchHolds g src
           | none => false) then (s, refusal .badGeometry)
  else if img.fits (s.client hd.owner).aperture = false then (s, refusal .aperture)
  else (setStaged w { hd.staged with image := img } s, accepted [])

/-- PLACE (11h; window; x, y; width, height; depth). -/
def execPlace (s : State) : Host.Outcome State Fault Refusal :=
  .next (engineTake codePlace 4 (onOwnWindow editPlace) s)

/-! ### SOURCE (R27) -/

/-- The ring rows SOURCE carries: bits 15:0 when bit 16 says they are present (10.8). -/
def sourceRing (args : List Word) : Option Nat :=
  if argField args 5 16 16 = 1 then some (argField args 5 15 0) else none

/-- R27: the format and the ranges, then the pitch against the staged width, then the aperture; then
source and ring rows. -/
def editSource (w : WindowId) (hd : Held) : Body := fun _c args s =>
  match formatNamed (argNat args 1) with
  | none => (s, refusal .badSource)
  | some format =>
    let src : Source := { format := format, base := argNat args 2, pitch := argNat args 3
                          scrollX := argField args 4 15 0, scrollY := argField args 4 31 16 }
    let ring := sourceRing args
    let img := { hd.staged.image with source := some src, ringRows := ring }
    if src.inRange ring = false then (s, refusal .badSource)
    else if (match img.geometry with
             | some g => !pitchHolds g src
             | none => false) then (s, refusal .badSource)
    else if img.fits (s.client hd.owner).aperture = false then (s, refusal .aperture)
    else (setStaged w { hd.staged with image := img } s, accepted [])

/-- SOURCE (12h; window; format; base; pitch; scroll x, scroll y; ring rows). -/
def execSource (s : State) : Host.Outcome State Fault Refusal :=
  .next (engineTake codeSource 6 (onOwnWindow editSource) s)

/-! ### KEY (R28) -/

/-- R28: key presence 0 absent, 1 present, any other BAD_COMMAND; any compare value. -/
def editKey (w : WindowId) (hd : Held) : Body := fun _c args s =>
  if argNat args 1 = 0 then
    (setStaged w { hd.staged with image := { hd.staged.image with key := none } } s, accepted [])
  else if argNat args 1 = 1 then
    (setStaged w { hd.staged with image := { hd.staged.image with key := some (argWord args 2) } } s, accepted [])
  else (s, refusal .badCommand)

/-- KEY (13h; window; key presence; compare value). -/
def execKey (s : State) : Host.Outcome State Fault Refusal :=
  .next (engineTake codeKey 3 (onOwnWindow editKey) s)

/-! ### SHOW and HIDE (R29) -/

/-- R29: SHOW needs staged geometry and source. -/
def editShow (w : WindowId) (hd : Held) : Body := fun _c _args s =>
  if hd.staged.image.geometry.isSome ∧ hd.staged.image.source.isSome then
    (setStaged w { hd.staged with image := { hd.staged.image with visible := true } } s, accepted [])
  else (s, refusal .incomplete)

/-- SHOW (14h; window). -/
def execShow (s : State) : Host.Outcome State Fault Refusal :=
  .next (engineTake codeShow 1 (onOwnWindow editShow) s)

/-- R29: HIDE has no refusal of its own. -/
def editHide (w : WindowId) (hd : Held) : Body := fun _c _args s =>
  (setStaged w { hd.staged with image := { hd.staged.image with visible := false } } s, accepted [])

/-- HIDE (15h; window). -/
def execHide (s : State) : Host.Outcome State Fault Refusal :=
  .next (engineTake codeHide 1 (onOwnWindow editHide) s)

/-! ### RETIRE (R10, R30) -/

/-- R10: a RESERVED window is freed at once; R30: a LIVE window takes retire pending. -/
def editRetire (w : WindowId) (hd : Held) : Body := fun _c _args s =>
  match (s.window w).life with
  | .reserved _ => (freeWindow w s, accepted [])
  | _ => (setStaged w { hd.staged with retirePending := true } s, accepted [])

/-- RETIRE (16h; window). -/
def execRetire (s : State) : Host.Outcome State Fault Refusal :=
  .next (engineTake codeRetire 1 (onOwnWindow editRetire) s)

/-! ### COMMIT (R32, R33) -/

/-- Result word of COMMIT: QUEUED. -/
def resultQueued : Word := 1
/-- Result word of COMMIT: APPLIED. -/
def resultApplied : Word := 2

/-- R32: the refusals in their order, and the queueing; R33: the apply at once. -/
def bodyCommit : Body := fun c args s =>
  match (s.client c).permittedHead (argNat args 0) with
  | none => (s, refusal .notPermitted)
  | some h =>
    if (s.head h).commitQueue.contains c then (s, refusal .sealedPending)
    else if (s.head h).state.running && s.holdsOn c h then (enqueue c h s, accepted [resultQueued])
    else (applyClients h [c] s, accepted [resultApplied])

/-- COMMIT (17h; head). -/
def execCommit (s : State) : Host.Outcome State Fault Refusal :=
  .next (engineTake codeCommit 1 bodyCommit s)

/-! ### QUERY_WINDOW (R19 to R21) -/

/-- Life-cycle state field of the summary (10.8). -/
def Life.code : Life → Nat
  | .free => 0
  | .reserved _ => 1
  | .live _ _ _ => 2
  | .retiring _ _ _ => 3

/-- The views of QUERY_WINDOW (10.8). -/
inductive View where
  | staged
  | live
  | record
deriving DecidableEq, Repr

/-- A view argument: 0 STAGED, 1 LIVE, 2 RECORD; any other value names none. -/
def viewNamed : Nat → Option View
  | 0 => some .staged
  | 1 => some .live
  | 2 => some .record
  | _ => none

/-- The image a view selects (R20): the staged image but in the LIVE view. -/
def selectedImage (v : Window) (hd : Held) : View → Option Image
  | .live => v.life.liveImage?
  | .staged => some hd.staged.image
  | .record => some hd.staged.image

/-- The view and presence field of the summary (10.8). -/
def viewCode (view : View) (img : Option Image) : Nat :=
  match view with
  | .staged => 0
  | .live => if img.isSome then 1 else 2
  | .record => 3

/-- The format field of the summary: 0 P16, 1 P32, and 0 when the source is absent (10.8). -/
def formatMark (img : Image) : Nat :=
  match img.source with
  | some src => if src.format = .p32 then 1 else 0
  | none => 0

/-- R20, 10.8: the summary word. An image that is not present gives 0 in every image field (R21). -/
def summaryWord (s : State) (w : WindowId) (hd : Held) (view : View) : Word :=
  let v := s.window w
  let img := selectedImage v hd view
  let imageFields := match img with
    | none => []
    | some i =>
      [(20, 20, markBit i.visible),
       (21, 21, markBit (hd.staged.retirePending && view != .live)),
       (26, 22, i.depth), (27, 27, formatMark i),
       (28, 28, markBit i.geometry.isSome), (29, 29, markBit i.source.isSome),
       (30, 30, markBit i.ringRows.isSome), (31, 31, markBit i.key.isSome)]
  packWord ([(1, 0, v.life.code), (4, 2, hd.owner.val), (5, 5, hd.head.val), (6, 6, markBit (s.sealed w)),
    (8, 7, viewCode view img), (9, 9, markBit v.life.fault?.isSome), (19, 10, v.refs)] ++ imageFields)

/-- R21: result words 2 to 7, an absent field reported as 0. -/
def imageWords (img : Option Image) : List Word :=
  let g := (img.bind Image.geometry).getD ⟨0, 0, 0, 0⟩
  let src := (img.bind Image.source).getD ⟨.p16, 0, 0, 0, 0⟩
  [packWord [(15, 0, g.x), (31, 16, g.y)],
   packWord [(15, 0, g.width), (31, 16, g.height)],
   BitVec.ofNat 32 src.base,
   packWord [(16, 0, src.pitch), (31, 20, src.scrollX)],
   packWord [(11, 0, src.scrollY), (28, 16, (img.bind Image.ringRows).getD 0)],
   (img.bind Image.key).getD 0]

/-- R21: the result words of a view: the image, or the fault address in the RECORD view. -/
def viewWords (v : Window) (hd : Held) : View → List Word
  | .record => [BitVec.ofNat 32 (v.life.fault?.getD 0)]
  | view => imageWords (selectedImage v hd view)

/-- R19: the window, then the permission, then the view. -/
def bodyQueryWindow : Body := fun c args s =>
  match s.heldWindow (argNat args 0) with
  | none => (s, refusal .badWindow)
  | some w =>
    match (s.window w).life.held? with
    | none => (s, refusal .badWindow)
    | some hd =>
      if hd.owner ≠ c ∧ c ≠ 0 then (s, refusal .notPermitted)
      else
        match viewNamed (argNat args 1) with
        | none => (s, refusal .badCommand)
        | some view => (s, accepted (summaryWord s w hd view :: viewWords (s.window w) hd view))

/-- QUERY_WINDOW (18h; window; view). -/
def execQueryWindow (s : State) : Host.Outcome State Fault Refusal :=
  .next (engineTake codeQueryWindow 2 bodyQueryWindow s)

end Sys2Proof.Machine
end

