-- ==== Sys2Proof/Machine/Dispatch.lean ====
section
/-! DEFINITION. One arm per command: the effect of a command on everything but the queue. -/

namespace Sys2Proof.Machine

def exec (i : Instr) (s : State) : Host.Outcome State Fault Refusal :=
  match i with
  -- messages the Command Engine takes (10)
  | .reserve => Sys2Proof.Machine.execReserve s
  | .place => Sys2Proof.Machine.execPlace s
  | .source => Sys2Proof.Machine.execSource s
  | .key => Sys2Proof.Machine.execKey s
  | .showWindow => Sys2Proof.Machine.execShow s
  | .hideWindow => Sys2Proof.Machine.execHide s
  | .retire => Sys2Proof.Machine.execRetire s
  | .commit => Sys2Proof.Machine.execCommit s
  | .queryWindow => Sys2Proof.Machine.execQueryWindow s
  | .setTiming => Sys2Proof.Machine.execSetTiming s
  | .startHead => Sys2Proof.Machine.execStartHead s
  | .stopHead => Sys2Proof.Machine.execStopHead s
  | .queryHead => Sys2Proof.Machine.execQueryHead s
  | .openClient => Sys2Proof.Machine.execOpenClient s
  | .closeClient => Sys2Proof.Machine.execCloseClient s
  | .setAperture => Sys2Proof.Machine.execSetAperture s
  | .setHeads => Sys2Proof.Machine.execSetHeads s
  | .queryClient => Sys2Proof.Machine.execQueryClient s
  | .reclaimTags => Sys2Proof.Machine.execReclaimTags s
  | .fetchNotices => Sys2Proof.Machine.execFetchNotices s
  | .setNoticeMask => Sys2Proof.Machine.execSetNoticeMask s
  | .unknownCommandCode => Sys2Proof.Machine.execUnknownCommandCode s
  -- host accesses and reset (10)
  | .commandWrite ch lanes data => Sys2Proof.Machine.execCommandWrite ch lanes data s
  | .responseRead ch => Sys2Proof.Machine.execResponseRead ch s
  | .resync ch lanes data => Sys2Proof.Machine.execResync ch lanes data s
  | .reset lanes data => Sys2Proof.Machine.execReset lanes data s
  | .hostWriteDiscarded page word lanes data => Sys2Proof.Machine.execHostWriteDiscarded page word lanes data s
  | .resetN => Sys2Proof.Machine.execResetN s
  -- raster, marks and memory port (03 to 07)
  | .lineStart h => Sys2Proof.Machine.execLineStart h s
  | .tagExpiry t => Sys2Proof.Machine.execTagExpiry t s
  | .lossOfLock h => Sys2Proof.Machine.execLossOfLock h s
  | .activeStart h => Sys2Proof.Machine.execActiveStart h s
  | .markArrival h => Sys2Proof.Machine.execMarkArrival h s
  | .requestIssue => Sys2Proof.Machine.execRequestIssue s
  | .responseArrival earlier final => Sys2Proof.Machine.execResponseArrival earlier final s
  | .pixelPeriod h => Sys2Proof.Machine.execPixelPeriod h s
  | .resetNRise => Sys2Proof.Machine.execResetNRise s

end Sys2Proof.Machine
end

