-- ==== Sys2Proof/Safety.lean ====
section
/-! DEFINITION. What claims about the SW4802 are stated with: the laws the manual's prose gives for every
state of the part, and the words a statement about one command needs. -/

namespace Sys2Proof.Machine

/-! ### References (R14) -/

/-- The windows named by segments that are not ABSENT, over every line slot of both heads. -/
def State.slotReferences (s : State) : List WindowId :=
  allHeads.flatMap (fun h => allSlots.flatMap (fun k => (s.head h).slots[k].references))

/-- The windows named by tags that are not FREE. -/
def State.tagReferences (s : State) : List WindowId :=
  (allTags.filter (fun t => (s.tag t).state ≠ .free)).map (fun t => (s.tag t).window)

/-- R14: a window's references equal the number of its segments that are not ABSENT in line slots that are
not EMPTY, plus the number of tags that are not FREE and name it. -/
def RefsCounted (s : State) : Prop :=
  ∀ w, (s.window w).refs = s.slotReferences.count w + s.tagReferences.count w

/-- A head that is STOPPED, or whose first line start has not come, has EMPTY slots (R42, R59). -/
def StoppedSlotsEmpty (s : State) : Prop :=
  ∀ h, (s.head h).state = .stopped ∨ (s.head h).startPending = true →
    ∀ k : SlotNo, (s.head h).slots[k] = .empty

/-- R14: a RETIRING window has references above 0, and (1.4) a FREE or RESERVED window has none. -/
def RefsFitLife (s : State) : Prop :=
  ∀ w, match (s.window w).life with
    | .free => (s.window w).refs = 0
    | .reserved _ => (s.window w).refs = 0
    | .live _ _ _ => True
    | .retiring _ _ _ => 0 < (s.window w).refs

/-- R14 and 1.4 together, with what their preservation rests on. -/
def ReferenceLaw (s : State) : Prop := RefsCounted s ∧ StoppedSlotsEmpty s ∧ RefsFitLife s

/-! ### Held counts (R18, R136) -/

/-- The windows client `c` owns, in any state but FREE. -/
def State.ownedBy (s : State) (c : ClientId) : List WindowId :=
  allWindows.filter (fun w => (s.window w).owner? = some c)

/-- R18, R136: each held count is the number of the client's windows and does not exceed its quota, and a
CLOSED client's record is that of R136. -/
def HeldLaw (s : State) : Prop :=
  ∀ c, (s.client c).held = (s.ownedBy c).length ∧ (s.client c).held ≤ (s.client c).quota ∧
    ((s.client c).state = .closed → s.client c = Client.closedRecord)

/-! ### Commit Queues (R31) -/

/-- R31: a head's Commit Queue holds each client at most once, only clients with a RESERVED or LIVE window on
that head or CLOSING ones, and is empty while the head is STOPPED. -/
def QueueLaw (s : State) : Prop :=
  ∀ h, (s.head h).commitQueue.Nodup ∧
    (∀ c ∈ (s.head h).commitQueue, s.holdsOn c h = true ∨ (s.client c).state = .closing) ∧
    ((s.head h).state = .stopped → (s.head h).commitQueue = [])

/-! ### Depth Lists (R38) -/

/-- R38: each Depth List is the one built from scratch from the whole table. -/
def DepthListLaw (s : State) : Prop := ∀ h, (s.head h).depthList = builtDepthList h s

/-! ### Apertures (R7) -/

/-- R7: both images of every window that is not FREE fit its owner's aperture. -/
def ApertureLaw (s : State) : Prop :=
  ∀ w hd, (s.window w).life.held? = some hd →
    hd.staged.image.fits (s.client hd.owner).aperture = true ∧
    ∀ img, (s.window w).life.liveImage? = some img → img.fits (s.client hd.owner).aperture = true

/-- The fields of an image lie in the ranges of 1.1.1. -/
def Image.inRange (img : Image) : Prop :=
  img.depth ≤ 31 ∧ (∀ g, img.geometry = some g → g.inRange = true) ∧
  (∀ src, img.source = some src → src.inRange img.ringRows = true ∧ src.base < 2 ^ 32) ∧
  (∀ r, img.ringRows = some r → 1 ≤ r ∧ r ≤ 4096)

/-- R26, R27: the pitch of an image with geometry and source holds a row of it. -/
def Image.pitchFits (img : Image) : Prop :=
  ∀ g src, img.geometry = some g → img.source = some src →
    (src.scrollX + g.width) * src.format.bytes ≤ src.pitch

/-- 1.1.1, R26, R27: both images of every window that is not FREE are in range, with a pitch that holds a row. -/
def ImageLaw (s : State) : Prop :=
  ∀ w hd, (s.window w).life.held? = some hd → (hd.staged.image.inRange ∧ hd.staged.image.pitchFits) ∧
    ∀ img, (s.window w).life.liveImage? = some img → img.inRange ∧ img.pitchFits

/-! ### Clients and channels (R136, R137, R161) -/

/-- R137: client 0 is OPEN with quota 48, the whole address space and both heads. -/
def SupervisorLaw (s : State) : Prop :=
  s.client 0 = { Client.supervisor with held := (s.client 0).held }

/-- R161: each FIFO holds at most 16 words, a channel is CLOSED exactly while its client is not OPEN, and then
its command FIFO is empty. -/
def ChannelLaw (s : State) : Prop :=
  ∀ c, (s.channel c).commands.length ≤ fifoDepth ∧ (s.channel c).responses.length ≤ fifoDepth ∧
    ((s.channel c).state = .closed ↔ (s.client c).state ≠ .opened) ∧
    ((s.channel c).state = .closed → (s.channel c).commands = [])

/-! ### Heads (R46, R49, R68) -/

/-- R46, R49, R57: a head holds no timing set or a valid one, a running head holds one, and a running head's
counters are within it. -/
def TimingLaw (s : State) : Prop :=
  ∀ h, match (s.head h).timing with
    | none => (s.head h).state = .stopped
    | some t => t.valid = true ∧ ((s.head h).state ≠ .stopped →
        (s.head h).pixel < t.lineTotal ∧ (s.head h).line < t.frameTotal)

/-- R68: the miss count is at most 3, 1 or 2 in HOLDOVER, 0 in LOCKED, FREE_RUN and STOPPED (R76, R68), and the
tally, band mark and pending wrap are as the last start, stop or reset left them in FREE_RUN and STOPPED. -/
def FollowLaw (s : State) : Prop :=
  ∀ h, match (s.head h).state with
    | .holdover => 1 ≤ (s.head h).misses ∧ (s.head h).misses ≤ 2
    | .seeking => (s.head h).misses = 0 ∨ (s.head h).misses = 3
    | .locked => (s.head h).misses = 0
    | _ => (s.head h).misses = 0 ∧ (s.head h).tally = .zero ∧ (s.head h).bandMark = false ∧
        (s.head h).pendingWrap = false

/-! ### Line slots (R97) -/

/-- No layer follows an opaque layer in a stack (R97). -/
def OpaqueLast : List Layer → Prop
  | [] => True
  | [_] => True
  | l :: rest => l.key ≠ none ∧ OpaqueLast rest

/-- Spans that begin at column `x`, are contiguous, and end just before column `past` (R97). -/
def SpansTile (x past : Nat) : List Span → Prop
  | [] => x = past
  | sp :: rest => sp.xStart = x ∧ x ≤ sp.xEnd ∧ SpansTile (sp.xEnd + 1) past rest

/-- R97: 1 to 32 spans, contiguous, ordered by x, covering 0 to active width - 1 exactly; at most 4 layers in
each, none after an opaque layer; budget used at most 16,384. -/
def SpansLaw (width : Nat) (spans : List Span) (budget : Nat) : Prop :=
  1 ≤ spans.length ∧ spans.length ≤ maxSpans ∧ SpansTile 0 width spans ∧
  (∀ sp ∈ spans, sp.layers.length ≤ maxLayers ∧ OpaqueLast sp.layers) ∧ budget ≤ byteBudget

/-- R97 for every slot that holds an active line, R134 (a SHOWING slot has no PENDING segment), and the
slots EMPTY while the head is STOPPED. -/
def SlotLaw (s : State) : Prop :=
  ∀ h, ((s.head h).state = .stopped → ∀ k : SlotNo, (s.head h).slots[k] = .empty) ∧
    ∀ (k : SlotNo) (a : ActiveLine), (s.head h).slots[k] = .active a →
      ∃ t, (s.head h).timing = some t ∧ SpansLaw t.activeWidth a.spans a.budget ∧
        (a.phase ≠ .fetching → pendingWindows a.spans = [])

/-- Segment bytes in their canonical form: offsets strictly rising. -/
def Layer.bytesWf (l : Layer) : Bool := l.bytes.Pairwise (fun a b => a.1 < b.1)

/-- Every layer of every slot holds its bytes in canonical form. -/
def BytesLaw (s : State) : Prop :=
  ∀ h (k : SlotNo) (a : ActiveLine), (s.head h).slots[k] = .active a →
    ∀ l ∈ walkLayers a.spans, l.bytesWf = true

/-! ### The walk of a slot and its budget (R95, R102) -/

/-- The segments of a line in walk order, each with its cost (R95) and its status. -/
def segmentCosts (spans : List Span) : List (Nat × SegStatus) :=
  spans.flatMap (fun sp => sp.layers.map (fun l => (segmentLength sp l, l.status)))

/-- R95: what the PENDING ones of some segments cost together. -/
def pendingCost (segs : List (Nat × SegStatus)) : Nat := ((segs.filter (fun e => e.2 = .pending)).map Prod.fst).sum

/-- R102: span `i`, layer `j` comes before span `i'`, layer `j'` in the walk: spans from left to right, within a
span layers from top to bottom. -/
def WalkBefore (i j i' j' : Nat) : Prop := i < i' ∨ (i = i' ∧ j < j')

/-- The segment at span `i`, layer `j` is PENDING. -/
def PendingAt (spans : List Span) (i j : Nat) : Prop := ∃ l, layerAt spans i j = some l ∧ l.status = .pending

/-- R102: `q` is the beginning of the first PENDING segment of the walk among those that `among` picks. -/
def FirstPending (spans : List Span) (among : Nat → Nat → Prop) (q : Pos) : Prop :=
  q.offset = 0 ∧ among q.span q.layer ∧ PendingAt spans q.span q.layer ∧
  ∀ i j l, among i j → WalkBefore i j q.span q.layer → layerAt spans i j = some l → l.status ≠ .pending

/-- R101, R113: a slot that stood in the cursor at `before` and whose spans are now `spans` stands at `after`: where
it stood while that segment is PENDING, and else at the next PENDING segment of the walk, if there is one. -/
def CursorKept (spans : List Span) (before after : Option Pos) : Prop :=
  (before = none → after = none) ∧
  ∀ p, before = some p → (PendingAt spans p.span p.layer → after = some p) ∧
    (¬ PendingAt spans p.span p.layer → ∀ q, after = some q ↔ FirstPending spans (WalkBefore p.span p.layer) q)

/-- R98, R112: `b` is the line `a` after a response: line, budget used and the ends of the spans as resolution made
them; a FETCHING slot with no PENDING segment left COMPLETE. -/
def LineKept (a b : ActiveLine) : Prop :=
  b.line = a.line ∧ b.budget = a.budget ∧
  b.spans.map (fun sp => (sp.xStart, sp.xEnd)) = a.spans.map (fun sp => (sp.xStart, sp.xEnd)) ∧
  b.phase = if a.phase = .fetching ∧ pendingWindows b.spans = [] then .complete else a.phase

/-! ### Tags (R104) and notices (R151) -/

/-- R104, R120: the age of a tag does not exceed 4, an ACTIVE or STALE tag is younger, an ABANDONED one is 4. -/
def TagLaw (s : State) : Prop :=
  ∀ t, (s.tag t).age ≤ expiryAge ∧
    ((s.tag t).state = .active ∨ (s.tag t).state = .stale → (s.tag t).age < expiryAge) ∧
    ((s.tag t).state = .abandoned → (s.tag t).age = expiryAge)

/-- The ACTIVE tag `t` serves span `i`, layer `j` of slot `k` of head `h` (R104). -/
def Tag.serves (t : Tag) (h : HeadId) (k : SlotNo) (i j : Nat) : Bool :=
  t.state = .active && t.head = h && t.slot = k && t.span = i && t.layer = j

/-- Bytes of ACTIVE tags of one segment: issued and not answered. -/
def State.bytesUnderway (s : State) (h : HeadId) (k : SlotNo) (i j : Nat) : Nat :=
  (allTags.map (fun t => if (s.tag t).serves h k i j then (s.tag t).byteCount else 0)).sum

/-- Bytes of a segment of `len` bytes at span `i`, layer `j` that a slot's place in the cursor leaves to issue. -/
def bytesToIssue (cursor : Option Pos) (i j len : Nat) : Nat :=
  match cursor with
  | none => 0
  | some p => if p.span = i ∧ p.layer = j then len - p.offset
      else if p.span < i ∨ (p.span = i ∧ p.layer < j) then len else 0

/-- R105: every ACTIVE tag serves a PENDING segment of its window in a FETCHING slot of its head, with a piece that
lies in the segment; R101: the cursor's places lie in such segments; and of no PENDING segment are more bytes
arrived, under way and left to issue than it has. -/
def ServeLaw (s : State) : Prop :=
  (∀ t, (s.tag t).state = .active → ∃ a sp l, (s.head (s.tag t).head).slots[(s.tag t).slot] = .active a ∧
    a.phase = .fetching ∧ a.spans[(s.tag t).span]? = some sp ∧ sp.layers[(s.tag t).layer]? = some l ∧
    l.status = .pending ∧ l.window = (s.tag t).window ∧ 1 ≤ (s.tag t).byteCount ∧ l.firstByte ≤ (s.tag t).address ∧
    (s.tag t).address + (s.tag t).byteCount ≤ l.firstByte + segmentLength sp l) ∧
  (∀ h (k : SlotNo) p, (s.head h).cursor[k] = some p → ∃ a sp l, (s.head h).slots[k] = .active a ∧
    a.phase = .fetching ∧ a.spans[p.span]? = some sp ∧ sp.layers[p.layer]? = some l ∧ l.status = .pending ∧
    p.offset < segmentLength sp l) ∧
  (∀ h (k : SlotNo) a i j sp l, (s.head h).slots[k] = .active a → a.spans[i]? = some sp → sp.layers[j]? = some l →
    l.status = .pending →
    l.arrived + s.bytesUnderway h k i j + bytesToIssue ((s.head h).cursor[k]) i j (segmentLength sp l)
      ≤ segmentLength sp l)

/-- No supervisor kind is pending in a record (R151). -/
def NoticeRecord.noSupervisorKind (r : NoticeRecord) : Prop :=
  r.followLocked = none ∧ r.followLost = none ∧ r.tagAbandoned = none ∧ r.strayResponse = none ∧
  r.clientClosed = none

/-- R151: supervisor kinds are never pending in a tenant's record. -/
def TenantNoticeLaw (s : State) : Prop := ∀ c, c ≠ 0 → (s.notice c).noSupervisorKind

/-! ### Reset (R166) -/

/-- The part held in reset: every block in its reset state, RESET_N low. -/
def heldInReset (s : State) : State := { deviceReset s with resetHeld := true }

/-- What the rules give every block for device reset: R22, R67, R68, R81, R101, R104, R108, R125, R150, R159,
R161, R169. -/
structure AtReset (s : State) : Prop where
  windows  : ∀ w, (s.window w).life = .free ∧ (s.window w).refs = 0
  lists    : ∀ h, (s.head h).commitQueue = [] ∧ (s.head h).depthList = []
  timers   : ∀ h, (s.head h).state = .stopped ∧ (s.head h).timing = none ∧ (s.head h).pixel = 0 ∧
    (s.head h).line = 0 ∧ (s.head h).frames = 0 ∧ (s.head h).misses = 0
  follow   : ∀ h, (s.head h).tally = .zero ∧ (s.head h).bandMark = false ∧ (s.head h).pendingWrap = false
  outputs  : ∀ h, (s.head h).lsyncHigh = true ∧ (s.head h).fsyncHigh = true ∧ (s.head h).activeHigh = false ∧
    (s.head h).pix = 0
  slots    : ∀ h (k : SlotNo), (s.head h).slots[k] = .empty ∧ (s.head h).cursor[k] = none
  showing  : ∀ h, (s.head h).showing = none
  tags     : ∀ t, (s.tag t).state = .free ∧ (s.tag t).age = 0
  served   : s.lastServed = 1
  client0  : s.client 0 = { state := .opened, quota := 48, held := 0, aperture := some ⟨0, 1048575⟩, heads := ⟨true, true⟩ }
  tenants  : ∀ c, c ≠ 0 → s.client c = { state := .closed, quota := 0, held := 0, aperture := none, heads := ⟨false, false⟩ }
  channel0 : s.channel 0 = { state := .opened, commands := [], responses := [] }
  channels : ∀ c, c ≠ 0 → s.channel c = { state := .closed, commands := [], responses := [] }
  pointer  : s.pointer = 7
  notices  : ∀ c, s.notice c = { committed := none, underrun := none, layerDropped := none, fetchFault := none
                                 retired := none, followLocked := none, followLost := none, tagAbandoned := none
                                 strayResponse := none, clientClosed := none, mask := 0 }
  line     : s.noticeLine = false

/-! ### Notices and clients word for word (10.8, R144) -/

/-- R158, 10.8: a kind is pending whose position is not in the mask. -/
def NoticeRecord.someUnmasked (r : NoticeRecord) : Prop :=
  (r.committed ≠ none ∧ r.mask.getLsbD 0 = false) ∨ (r.underrun ≠ none ∧ r.mask.getLsbD 1 = false) ∨
  (r.layerDropped ≠ none ∧ r.mask.getLsbD 2 = false) ∨ (r.fetchFault ≠ none ∧ r.mask.getLsbD 3 = false) ∨
  (r.retired ≠ none ∧ r.mask.getLsbD 4 = false) ∨ (r.followLocked ≠ none ∧ r.mask.getLsbD 5 = false) ∨
  (r.followLost ≠ none ∧ r.mask.getLsbD 6 = false) ∨ (r.tagAbandoned ≠ none ∧ r.mask.getLsbD 7 = false) ∨
  (r.strayResponse ≠ none ∧ r.mask.getLsbD 8 = false) ∨ (r.clientClosed ≠ none ∧ r.mask.getLsbD 9 = false)

/-- A kind that is pending keeps its subject; one that is not takes the new one (R152). -/
def keepFirst {α : Type} (now : Option α) (subject : Option α) : Option α := now.orElse (fun _ => subject)

/-- R144, R45: from `s` to `u` client `c` has become CLOSED: its record is empty, it is on no Commit Queue, its
notice record is cleared, and CLIENT_CLOSED with its number is in client 0's record. -/
structure BecomesClosed (s u : State) (c : ClientId) : Prop where
  client : u.client c = { state := .closed, quota := 0, held := 0, aperture := none, heads := ⟨false, false⟩ }
  queues : ∀ h, c ∉ (u.head h).commitQueue
  notice : u.notice c = NoticeRecord.cleared
  told   : (u.notice 0).clientClosed = keepFirst (s.notice 0).clientClosed (some c)

/-- From `s` to `u` client `c` has become CLOSED. -/
abbrev Closes (s u : State) (c : ClientId) : Prop := (s.client c).state ≠ .closed ∧ (u.client c).state = .closed

/-- R45: what is left of head `x`'s Commit Queue when just the clients that became CLOSED have left it. -/
def queueLeft (s u : State) (x : HeadId) : List ClientId := (s.head x).commitQueue.filter (fun c => ¬ Closes s u c)

/-- The windows that have entered FREE from `s` to `u`, in ascending id order. -/
def freedIn (s u : State) : List WindowId :=
  allWindows.filter (fun w => (s.window w).life ≠ .free ∧ (u.window w).life = .free)

/-- Those of them that client `c` owned. -/
def freedOf (s u : State) (c : ClientId) : List WindowId := (freedIn s u).filter (fun w => (s.window w).owner? = some c)

/-- R11, R18, R144: windows of a list have left LIVE or RETIRING for FREE, in this order. The held count of an OPEN
owner has fallen by one for each, and RETIRED has the first of its windows unless it was pending; so for a CLOSING one
(whose held count was right), but that it has become CLOSED, its notice record cleared, if they were all it held. -/
def ReportsFreed (s u : State) (freed : List WindowId) : Prop :=
  ∀ c mine, mine = freed.filter (fun w => (s.window w).owner? = some c) →
    let counted := u.client c = { s.client c with held := (s.client c).held - mine.length } ∧
      (u.notice c).retired = keepFirst (s.notice c).retired mine.head?
    ((s.client c).state = .opened → counted) ∧
    ((s.client c).state = .closing → c ≠ 0 → (s.client c).held = (s.ownedBy c).length →
      (mine = [] ∨ mine.length ≠ (s.client c).held → counted) ∧
      (mine ≠ [] → mine.length = (s.client c).held →
        u.client c = { state := .closed, quota := 0, held := 0, aperture := none, heads := ⟨false, false⟩ } ∧
        u.notice c = NoticeRecord.cleared))

/-- R13, R84: the windows that releases of references, made in the order of a list, free in `s`, in the order they
are freed: a RETIRING window at the release of its last reference. -/
def freedBy (s : State) (released : List WindowId) : List WindowId :=
  (released.zipIdx.filter (fun e => (s.window e.1).life.isRetiring = true ∧
    (released.take (e.2 + 1)).count e.1 = (s.window e.1).refs)).map Prod.fst

/-- R13, R11: what releases of references, made in the order of a list, make of RETIRING windows and their owners, in
a state in which RETIRING windows have references (R14). -/
structure FreesReleased (s u : State) (released : List WindowId) : Prop where
  lives   : ∀ w, (s.window w).life.isRetiring = true → 0 < (s.window w).refs →
    (u.window w).life = if (s.window w).refs ≤ released.count w then .free else (s.window w).life
  reports : (∀ w, (s.window w).life.isRetiring = true → 0 < (s.window w).refs) →
    ReportsFreed s u (freedBy s released)

/-! ### Words for statements about one command -/

/-- What the command table of 10.8 and R171 say of a message command. -/
structure CommandRow where
  code        : Nat
  argc        : Nat
  /-- a supervisor command (R171) -/
  supervisor  : Bool
  /-- it names a window in its first argument (R171 check 4) -/
  namesWindow : Bool
  /-- it is an edit or RETIRE (R171 check 5) -/
  edits       : Bool
deriving DecidableEq, Repr

end Sys2Proof.Machine

namespace Sys2Proof

open Sys2Proof.Machine

/-- The command table of 10.8: the row of each message command. -/
def Instr.commandRow : Instr → Option CommandRow
  | .reserve => some ⟨0x10, 1, false, false, false⟩
  | .place => some ⟨0x11, 4, false, true, true⟩
  | .source => some ⟨0x12, 6, false, true, true⟩
  | .key => some ⟨0x13, 3, false, true, true⟩
  | .showWindow => some ⟨0x14, 1, false, true, true⟩
  | .hideWindow => some ⟨0x15, 1, false, true, true⟩
  | .retire => some ⟨0x16, 1, false, true, true⟩
  | .commit => some ⟨0x17, 1, false, false, false⟩
  | .queryWindow => some ⟨0x18, 2, false, true, false⟩
  | .setTiming => some ⟨0x20, 7, true, false, false⟩
  | .startHead => some ⟨0x21, 2, true, false, false⟩
  | .stopHead => some ⟨0x22, 1, true, false, false⟩
  | .queryHead => some ⟨0x23, 1, false, false, false⟩
  | .openClient => some ⟨0x30, 4, true, false, false⟩
  | .closeClient => some ⟨0x31, 1, true, false, false⟩
  | .setAperture => some ⟨0x32, 3, true, false, false⟩
  | .setHeads => some ⟨0x33, 2, true, false, false⟩
  | .queryClient => some ⟨0x34, 1, false, false, false⟩
  | .reclaimTags => some ⟨0x40, 0, true, false, false⟩
  | .fetchNotices => some ⟨0x50, 0, false, false, false⟩
  | .setNoticeMask => some ⟨0x51, 1, false, false, false⟩
  | .unknownCommandCode => none
  | .commandWrite _ _ _ => none
  | .responseRead _ => none
  | .resync _ _ _ => none
  | .reset _ _ => none
  | .hostWriteDiscarded _ _ _ _ => none
  | .resetN => none
  | .lineStart _ => none
  | .tagExpiry _ => none
  | .lossOfLock _ => none
  | .activeStart _ => none
  | .markArrival _ => none
  | .requestIssue => none
  | .responseArrival _ _ => none
  | .pixelPeriod _ => none
  | .resetNRise => none

end Sys2Proof

namespace Sys2Proof.Machine

/-- The message the Command Engine takes next is `t`, with this command code and this many arguments. -/
def Takes (s : State) (code argc : Nat) (t : Taken) : Prop :=
  s.nextMessage = some t ∧ t.message.code = code ∧ t.message.args.length = argc

/-- R169, R170, R173: `s` once message `t` is consumed and answered with `r`: the pointer names its channel, its
words have left the command FIFO, and the response header (status, sequence number and code echoed, result
count) and the result words stand at the end of the response FIFO. -/
def answered (t : Taken) (r : Reply) (s : State) : State :=
  { s with
    pointer := t.client
    channels := s.channels.set t.client
      { s.channel t.client with
        commands := t.rest
        responses := (s.channel t.client).responses ++ responseHeader t.message r :: r.results } }

/-- The first argument of message `t` names client `t.client`'s own window `w`, RESERVED or LIVE and not sealed,
with owner, head and staged image `hd`: the window checks of R25 pass. -/
def Editable (s : State) (t : Taken) (w : WindowId) (hd : Held) : Prop :=
  argNat t.message.args 0 = w.val ∧ hd.owner = t.client ∧ t.client ∉ (s.head hd.head).commitQueue ∧
  ((s.window w).life = .reserved hd ∨ ∃ img fault, (s.window w).life = .live hd img fault)

/-- The life of a window with its staged image replaced. -/
def Life.restage (st : Staged) : Life → Life
  | .free => .free
  | .reserved hd => .reserved { hd with staged := st }
  | .live hd img fault => .live { hd with staged := st } img fault
  | .retiring hd img fault => .retiring { hd with staged := st } img fault

/-- The window table with window `w`'s staged image replaced. -/
def State.restage (s : State) (w : WindowId) (st : Staged) : State :=
  { s with windows := s.windows.set w { s.window w with life := (s.window w).life.restage st } }

/-- R7, read word for word: last byte of a source extent. -/
def lastByte (g : Geometry) (src : Source) (ringRows : Option Nat) : Nat :=
  src.base + ((match ringRows with | some r => r | none => src.scrollY + g.height) - 1) * src.pitch
    + (src.scrollX + g.width) * (match src.format with | .p16 => 2 | .p32 => 4) - 1

/-- R7 and 1.2: the extent lies within the aperture: its first byte is at least base x 4096, its last at most
limit x 4096 + 4095, and at most 4 GiB - 1. -/
def ExtentWithin (g : Geometry) (src : Source) (ringRows : Option Nat) (ap : Option Aperture) : Prop :=
  ∃ a, ap = some a ∧ a.base * 4096 ≤ src.base ∧ lastByte g src ringRows ≤ a.limit * 4096 + 4095 ∧
    lastByte g src ringRows ≤ 2 ^ 32 - 1

/-- The byte that has come for an offset of a layer's segment, if one has. -/
def Layer.byteAt? (l : Layer) (i : Nat) : Option Byte := (l.bytes.find? (fun c => c.1 == i)).map Prod.snd

/-- The content of a slot that holds an active line. -/
def Slot.content? : Slot → Option ActiveLine
  | .active a => some a
  | _ => none

/-- The windows whose segments in the slots of head `h` hold a reference. -/
def State.headReferences (s : State) (h : HeadId) : List WindowId :=
  allSlots.flatMap (fun k => (s.head h).slots[k].references)

/-- R167, R168: channel `ch` is eligible with message `m` at the head of its command FIFO and `rest` after it. -/
def EligibleWith (ch : Channel) (m : Message) (rest : List Word) : Prop :=
  ch.state = .opened ∧ ch.responses.length + 8 ≤ 16 ∧
  ∃ hdr, ch.commands = hdr :: (m.args ++ rest) ∧ m.args.length = fieldOf hdr 18 16 ∧
    m.code = fieldOf hdr 7 0 ∧ m.seq = fieldOf hdr 15 8

/-- R20, 10.8: `x` is the summary of window `w` for a view (0 STAGED, 1 LIVE, 2 RECORD) that selects `img`. -/
def ReportsSummary (s : State) (w : WindowId) (hd : Held) (view : Nat) (img : Option Image) (x : Word) : Prop :=
  fieldOf x 1 0 = (match (s.window w).life with
    | .free => 0
    | .reserved _ => 1
    | .live _ _ _ => 2
    | .retiring _ _ _ => 3) ∧
  fieldOf x 4 2 = hd.owner.val ∧ fieldOf x 5 5 = hd.head.val ∧
  (fieldOf x 6 6 = 1 ↔ hd.owner ∈ (s.head hd.head).commitQueue) ∧
  fieldOf x 8 7 = (if view = 0 then 0 else if view = 2 then 3 else if img = none then 2 else 1) ∧
  (fieldOf x 9 9 = 1 ↔ (s.window w).life.fault? ≠ none) ∧
  fieldOf x 19 10 = (s.window w).refs ∧
  match img with
  | none => fieldOf x 31 20 = 0
  | some i =>
    (fieldOf x 20 20 = 1 ↔ i.visible = true) ∧
    (fieldOf x 21 21 = 1 ↔ view ≠ 1 ∧ hd.staged.retirePending = true) ∧
    fieldOf x 26 22 = i.depth ∧
    (fieldOf x 27 27 = 1 ↔ i.source.map Source.format = some .p32) ∧
    (fieldOf x 28 28 = 1 ↔ i.geometry ≠ none) ∧ (fieldOf x 29 29 = 1 ↔ i.source ≠ none) ∧
    (fieldOf x 30 30 = 1 ↔ i.ringRows ≠ none) ∧ (fieldOf x 31 31 = 1 ↔ i.key ≠ none)

/-- R21, 10.8: `xs` are the six result words of an image, an absent field reported as 0. -/
def ReportsImage (img : Option Image) (xs : List Word) : Prop :=
  ∃ x2 x3 x4 x5 x6 x7, xs = [x2, x3, x4, x5, x6, x7] ∧
    (match img.bind Image.geometry with
     | some g => fieldOf x2 15 0 = g.x ∧ fieldOf x2 31 16 = g.y ∧ fieldOf x3 15 0 = g.width ∧ fieldOf x3 31 16 = g.height
     | none => x2 = 0 ∧ x3 = 0) ∧
    (match img.bind Image.source with
     | some src => x4.toNat = src.base ∧ fieldOf x5 16 0 = src.pitch ∧ fieldOf x5 31 20 = src.scrollX ∧
         fieldOf x6 11 0 = src.scrollY
     | none => x4 = 0 ∧ x5 = 0 ∧ fieldOf x6 11 0 = 0) ∧
    fieldOf x6 28 16 = (img.bind Image.ringRows).getD 0 ∧ x7 = (img.bind Image.key).getD 0

/-- R47, read word for word: the quiet band of a timing set. -/
def InQuietBand (ts : TimingSet) (n : Nat) : Prop :=
  n ≤ ts.captureBand + 2 ∨ (ts.frameTotal - ts.captureBand - 1 ≤ n ∧ n ≤ ts.frameTotal - 1)

/-- R47: the active lines of a timing set. -/
def ActiveLineOf (ts : TimingSet) (n : Nat) : Prop :=
  ts.activeFirstLine ≤ n ∧ n ≤ ts.activeFirstLine + ts.activeHeight - 1

/-- A running head whose next pixel clock period raises a line start that ends a line (R49): head state,
timing set, pixel counter at line total - 1, the first line start behind it. -/
def LineEnds (s : State) (h : HeadId) (ts : TimingSet) : Prop :=
  (s.head h).timing = some ts ∧ (s.head h).state ≠ .stopped ∧ (s.head h).startPending = false ∧
  (s.head h).pixel + 1 = ts.lineTotal

/-- R50, R73: the line start that is due ends a frame. -/
def FrameEnds (hd : Head) (ts : TimingSet) : Prop := hd.pendingWrap = true ∨ hd.line + 1 = ts.frameTotal

/-! ### Frames -/

/-- The host side and the clients are unchanged: queue, channels, pointer and read data; of every client that is not
CLOSING the record but for its held count, and the mask. (A CLOSING client may become CLOSED, R144.) -/
structure HostSideKept (s u : State) : Prop where
  pending   : u.pending = s.pending
  resetHeld : u.resetHeld = s.resetHeld
  readData  : u.readData = s.readData
  channels  : u.channels = s.channels
  pointer   : u.pointer = s.pointer
  clients   : ∀ c, (s.client c).state ≠ .closing →
    u.client c = { s.client c with held := (u.client c).held } ∧ (u.notice c).mask = (s.notice c).mask

/-- Head `x` is unchanged, but that a client that becomes CLOSED leaves its Commit Queue (R45). -/
def HeadKept (s u : State) (x : HeadId) : Prop := u.head x = { s.head x with commitQueue := queueLeft s u x }

/-- Apart from the kinds that `blank` blanks, the notice records of the clients that are not CLOSING are unchanged but
for RETIRED (R11) and, in client 0's, for CLIENT_CLOSED, which is set exactly when a client becomes CLOSED (R144). -/
structure NoticesKept (s u : State) (blank : NoticeRecord → NoticeRecord) : Prop where
  kinds   : ∀ c, (s.client c).state ≠ .closing →
    blank { u.notice c with retired := none, clientClosed := none } =
      blank { s.notice c with retired := none, clientClosed := none }
  tenants : ∀ c, (s.client c).state ≠ .closing → c ≠ 0 → (u.notice c).clientClosed = (s.notice c).clientClosed
  told    : (s.client 0).state ≠ .closing → ∃ x : Option ClientId,
    (u.notice 0).clientClosed = keepFirst (s.notice 0).clientClosed x ∧
    (x = none → ∀ c, ¬ Closes s u c) ∧ ∀ c, x = some c → Closes s u c

/-- Every window that is not RETIRING keeps its state, images and fault (releases free RETIRING windows only, R13). -/
def LivesKept (s u : State) : Prop :=
  ∀ w, (s.window w).life.isRetiring = false → (u.window w).life = (s.window w).life

/-- R5, R6: address of the first byte of a cover's pixel at column `c` of active row `r`. -/
def pixelAddress (cov : Cover) (r c : Nat) : Nat :=
  cov.source.base +
    (match cov.ringRows with
     | none => (r - cov.geometry.y) + cov.source.scrollY
     | some ring => ((r - cov.geometry.y) + cov.source.scrollY) % ring) * cov.source.pitch +
    (c - cov.geometry.x + cov.source.scrollX) * (match cov.source.format with | .p16 => 2 | .p32 => 4)

end Sys2Proof.Machine
end

