-- ==== Sys2Proof/Certificates/Slice0/Obligations.lean ====
section
/-! DEFINITION. The statements about the SW4802 (OBLIGATIONS.json lists them, in this order). A statement about a
message command is about every state in which the Command Engine takes such a message: `Takes s code argc t` says
that its choice (R169) is message `t`, with the command's code and argument count, and `answered t r s` is `s` with
the message consumed and the answer placed; everything `answered` and the record updates do not name is unchanged. -/

open Sys2Proof Sys2Proof.Machine

/-! ### The step -/

/-- The step runs the command at the front of the queue; on an empty queue the block idles, which is the model's
choice (log 7). -/
def Obligations.StepTakesFrontOfQueue : Prop :=
  (∀ (c : Instr) (s : State), step { s with pending := c :: s.pending } = exec c s) ∧
  (∀ s : State, s.pending = [] → step s = .next s)

/-- Every command completes from every state, and none touches the queue of waiting commands. That the queue is the
model's own and survives a device reset (log 7), that a command which is not due answers next (log 2), and that
commands answer next in states no run reaches (log 17) are the model's choices. -/
def Obligations.EveryCommandCompletes : Prop :=
  ∀ (c : Instr) (s : State), ∃ u, exec c s = .next u ∧ u.pending = s.pending

/-! ### Device reset -/

/-- R22, R67, R150, R159: the reset state of every block, after the RESET action, under RESET_N and in the model's
first state. -/
def Obligations.ResetReachesResetState : Prop :=
  (∀ s, ∃ u, exec .resetN s = .next u ∧ AtReset u) ∧
  (∀ (s : State) (lanes : Lanes) (data : Word), s.resetHeld = false → (maskLanes lanes data).toNat % 256 = 1 →
    ∃ u, exec (.reset lanes data) s = .next u ∧ AtReset u) ∧
  AtReset State.reset

/-- R166: the RESET action and RESET_N have the same effect; the part is held in it while RESET_N is low, whatever
comes, and runs from it afterwards; other writes to the device control page are discarded. -/
def Obligations.DeviceResetIsHeld : Prop :=
  (∀ (s : State) (lanes : Lanes) (data : Word), s.resetHeld = false →
    ((maskLanes lanes data).toNat % 256 = 1 → exec (.reset lanes data) s = .next (deviceReset s)) ∧
    ((maskLanes lanes data).toNat % 256 ≠ 1 → exec (.reset lanes data) s = .next s) ∧
    (∀ word : WordIndex, word ≠ 0 → exec (.hostWriteDiscarded 8 word lanes data) s = .next s)) ∧
  (∀ s, exec .resetN s = .next { deviceReset s with resetHeld := true }) ∧
  (∀ s (c : Instr), c ≠ .resetNRise → exec c (heldInReset s) = .next (heldInReset s)) ∧
  (∀ s (page : PageNo) (word : WordIndex), hostRead page word (heldInReset s) = (0, heldInReset s)) ∧
  (∀ s, exec .resetNRise (heldInReset s) = .next (deviceReset s))

/-! ### The Command Engine and the channels -/

/-- R167, R168, R169: the message the engine takes is the whole message at the head of the first eligible channel
after the pointer; 10.7, 10.8: its response header, with the status codes. -/
def Obligations.EngineChoosesMessage : Prop :=
  (∀ (s : State) (t : Taken), s.nextMessage = some t ↔
    ∃ i : Fin 8, t.client = s.pointer + 1 + i ∧ EligibleWith (s.channel t.client) t.message t.rest ∧
      ∀ j : Fin 8, j < i → ∀ m rest, ¬ EligibleWith (s.channel (s.pointer + 1 + j)) m rest) ∧
  (∀ (s : State) (t : Taken) (r : Reply), s.nextMessage = some t → r.results.length ≤ 7 →
    fieldOf (responseHeader t.message r) 7 0 = (match r.status with
      | .ok => 0x00
      | .badCommand => 0x01
      | .badLength => 0x02
      | .notPermitted => 0x03
      | .noWindow => 0x04
      | .quota => 0x05
      | .badWindow => 0x06
      | .sealedPending => 0x07
      | .badGeometry => 0x08
      | .badSource => 0x09
      | .aperture => 0x0A
      | .incomplete => 0x0B
      | .badTiming => 0x0C
      | .headState => 0x0D
      | .busy => 0x0E
      | .inUse => 0x0F) ∧
    fieldOf (responseHeader t.message r) 15 8 = t.message.seq ∧
    fieldOf (responseHeader t.message r) 18 16 = r.results.length ∧
    fieldOf (responseHeader t.message r) 23 19 = 0 ∧
    fieldOf (responseHeader t.message r) 31 24 = t.message.code)

/-- R171: the checks made on every taken message before any effect, in their order: command code, argument count,
supervisor command, window argument, ownership. -/
def Obligations.MessageChecksBeforeEffect : Prop :=
  (∀ (s : State) (t : Taken), s.nextMessage = some t →
    (∀ (i : Instr) (row : CommandRow), i.commandRow = some row → t.message.code ≠ row.code) →
    exec .unknownCommandCode s = .next (answered t (refusal .badCommand) s)) ∧
  (∀ (s : State) (t : Taken) (i : Instr) (row : CommandRow), s.nextMessage = some t →
    i.commandRow = some row → t.message.code = row.code →
    (t.message.args.length ≠ row.argc → exec i s = .next (answered t (refusal .badLength) s)) ∧
    (t.message.args.length = row.argc →
      (row.supervisor = true → t.client ≠ 0 → exec i s = .next (answered t (refusal .notPermitted) s)) ∧
      (row.namesWindow = true →
        (∀ w : WindowId, argNat t.message.args 0 = w.val → (s.window w).life = .free) →
        exec i s = .next (answered t (refusal .badWindow) s)) ∧
      (row.edits = true → ∀ (w : WindowId) (hd : Held), argNat t.message.args 0 = w.val →
        (s.window w).life.held? = some hd → hd.owner ≠ t.client →
        exec i s = .next (answered t (refusal .notPermitted) s))))

/-- R162, R163, R164: host writes to COMMAND and CONTROL of a channel page, and a host read of RESPONSE, in every channel
state. The word a read returns is the model's `readData` (log 8). -/
def Obligations.ChannelFifosTakeHostAccesses : Prop :=
  (∀ (s : State) (c : ClientId) (lanes : Lanes) (data : Word), s.resetHeld = false →
      ((s.channel c).state = .opened → (s.channel c).commands.length < 16 →
        exec (.commandWrite c lanes data) s = .next { s with
          channels := s.channels.set c { s.channel c with commands := (s.channel c).commands ++ [maskLanes lanes data] } }) ∧
      ((s.channel c).state = .opened → 16 ≤ (s.channel c).commands.length →
        exec (.commandWrite c lanes data) s = .next { s with
          channels := s.channels.set c { s.channel c with state := .framingLost } }) ∧
      ((s.channel c).state ≠ .opened → exec (.commandWrite c lanes data) s = .next s) ∧
      ((maskLanes lanes data).toNat % 256 = 1 →
        exec (.resync c lanes data) s = .next { s with
          channels := s.channels.set c { s.channel c with
            state := if (s.channel c).state = .framingLost then .opened else (s.channel c).state, commands := [] } }) ∧
      ((maskLanes lanes data).toNat % 256 ≠ 1 → exec (.resync c lanes data) s = .next s)) ∧
  (∀ (s : State) (c : ClientId), s.resetHeld = false →
      ((s.channel c).responses = [] → exec (.responseRead c) s = .next { s with readData := 0 }) ∧
      (∀ w rest, (s.channel c).responses = w :: rest →
        exec (.responseRead c) s = .next { s with
          readData := w, channels := s.channels.set c { s.channel c with responses := rest } }))

/-- R160, R165: what the other words of the pages do, the byte lanes of a write, and the fields of STATUS. -/
def Obligations.HostPagesAndStatus : Prop :=
  (∀ (s : State) (page : PageNo) (word : WordIndex) (lanes : Lanes) (data : Word), page ≠ 8 → word ≠ 0 → word ≠ 3 →
    exec (.hostWriteDiscarded page word lanes data) s = .next s) ∧
  (∀ (s : State) (page : PageNo) (word : WordIndex), page = 8 ∨ (word ≠ 1 ∧ word ≠ 2) →
    hostRead page word s = (0, s)) ∧
  (∀ (lanes : Lanes) (data : Word) (i : Nat), i < 32 →
    (maskLanes lanes data).getLsbD i = (lanes.getLsbD (i / 8) && data.getLsbD i)) ∧
  (∀ (s : State) (c : ClientId), s.resetHeld = false → (s.channel c).commands.length ≤ 16 →
    (s.channel c).responses.length ≤ 16 →
    ∃ x, hostRead (pageOf c) 2 s = (x, s) ∧ fieldOf x 4 0 = 16 - (s.channel c).commands.length ∧
      fieldOf x 12 8 = (s.channel c).responses.length ∧
      fieldOf x 17 16 = (match (s.channel c).state with | .opened => 0 | .closed => 1 | .framingLost => 2) ∧
      (fieldOf x 24 24 = 1 ↔ s.indication c = true))

/-! ### Window commands -/

/-- R8, R9: RESERVE. -/
def Obligations.ReserveTakesLowestFreeWindow : Prop :=
  ∀ (s : State) (t : Taken), Takes s 0x10 1 t →
    ((∀ h : HeadId, argNat t.message.args 0 = h.val → (s.client t.client).heads.has h = false) →
      exec .reserve s = .next (answered t (refusal .notPermitted) s)) ∧
    ∀ h : HeadId, argNat t.message.args 0 = h.val → (s.client t.client).heads.has h = true →
      ((s.client t.client).held = (s.client t.client).quota →
        exec .reserve s = .next (answered t (refusal .quota) s)) ∧
      ((s.client t.client).held ≠ (s.client t.client).quota → (∀ w, (s.window w).life ≠ .free) →
        exec .reserve s = .next (answered t (refusal .noWindow) s)) ∧
      ((s.client t.client).held ≠ (s.client t.client).quota → ∀ w, (s.window w).life = .free →
        (∀ v, v < w → (s.window v).life ≠ .free) →
        exec .reserve s = .next (answered t (accepted [BitVec.ofNat 32 w.val]) { s with
          windows := s.windows.set w
            { life := .reserved { owner := t.client, head := h, staged := Staged.fresh }
              refs := (s.window w).refs }
          clients := s.clients.set t.client
            { s.client t.client with held := (s.client t.client).held + 1 } }))

/-- R25: the window checks of every edit and of RETIRE, in their order, before any effect. -/
def Obligations.EditChecksItsWindow : Prop :=
  ∀ (s : State) (t : Taken) (i : Instr) (row : CommandRow), i.commandRow = some row → row.edits = true →
    Takes s row.code row.argc t →
    ((∀ w : WindowId, argNat t.message.args 0 ≠ w.val) → exec i s = .next (answered t (refusal .badWindow) s)) ∧
    ∀ w : WindowId, argNat t.message.args 0 = w.val →
      ((s.window w).life = .free → exec i s = .next (answered t (refusal .badWindow) s)) ∧
      ∀ hd, (s.window w).life.held? = some hd →
        (hd.owner ≠ t.client → exec i s = .next (answered t (refusal .notPermitted) s)) ∧
        (hd.owner = t.client →
          ((s.window w).life.isRetiring = true → exec i s = .next (answered t (refusal .badWindow) s)) ∧
          ((s.window w).life.isRetiring = false → t.client ∈ (s.head hd.head).commitQueue →
            exec i s = .next (answered t (refusal .sealedPending) s)))

/-- R26: PLACE. -/
def Obligations.PlaceSetsGeometryAndDepth : Prop :=
  ∀ (s : State) (t : Taken) (w : WindowId) (hd : Held) (g : Geometry) (depth : Nat),
    Takes s 0x11 4 t → Editable s t w hd →
    g = { x := argField t.message.args 1 15 0, y := argField t.message.args 1 31 16
          width := argField t.message.args 2 15 0, height := argField t.message.args 2 31 16 } →
    depth = argNat t.message.args 3 →
    let bad := 4095 < g.x ∨ 4095 < g.y ∨ g.width < 1 ∨ 2048 < g.width ∨ g.height < 1 ∨ 2048 < g.height ∨
      4096 < g.x + g.width ∨ 4096 < g.y + g.height ∨ 31 < depth
    let short := ∃ src, hd.staged.image.source = some src ∧ src.pitch < (src.scrollX + g.width) * src.format.bytes
    let outside := ∃ src, hd.staged.image.source = some src ∧
      ¬ ExtentWithin g src hd.staged.image.ringRows (s.client t.client).aperture
    (bad ∨ short → exec .place s = .next (answered t (refusal .badGeometry) s)) ∧
    (¬ bad → ¬ short → outside → exec .place s = .next (answered t (refusal .aperture) s)) ∧
    (¬ bad → ¬ short → ¬ outside → exec .place s = .next (answered t (accepted []) (s.restage w
      { hd.staged with image := { hd.staged.image with geometry := some g, depth := depth } })))

/-- R27: SOURCE. -/
def Obligations.SourceSetsSourceAndRing : Prop :=
  ∀ (s : State) (t : Taken) (w : WindowId) (hd : Held), Takes s 0x12 6 t → Editable s t w hd →
    (argNat t.message.args 1 ≠ 1 → argNat t.message.args 1 ≠ 2 →
      exec .source s = .next (answered t (refusal .badSource) s)) ∧
    ∀ (f : PixelFormat) (src : Source) (ring : Option Nat),
      argNat t.message.args 1 = (match f with | .p16 => 1 | .p32 => 2) →
      src = { format := f, base := argNat t.message.args 2, pitch := argNat t.message.args 3
              scrollX := argField t.message.args 4 15 0, scrollY := argField t.message.args 4 31 16 } →
      ring = (if argField t.message.args 5 16 16 = 1 then some (argField t.message.args 5 15 0) else none) →
      let bad := src.base % f.bytes ≠ 0 ∨ src.pitch < 16 ∨ 65536 < src.pitch ∨ src.pitch % 4 ≠ 0 ∨
        4095 < src.scrollX ∨ 4095 < src.scrollY ∨ ∃ r, ring = some r ∧ (r < 1 ∨ 4096 < r)
      let short := ∃ g, hd.staged.image.geometry = some g ∧ src.pitch < (src.scrollX + g.width) * f.bytes
      let outside := ∃ g, hd.staged.image.geometry = some g ∧
        ¬ ExtentWithin g src ring (s.client t.client).aperture
      (bad ∨ short → exec .source s = .next (answered t (refusal .badSource) s)) ∧
      (¬ bad → ¬ short → outside → exec .source s = .next (answered t (refusal .aperture) s)) ∧
      (¬ bad → ¬ short → ¬ outside → exec .source s = .next (answered t (accepted []) (s.restage w
        { hd.staged with image := { hd.staged.image with source := some src, ringRows := ring } })))

/-- R28, R29: KEY, SHOW and HIDE. -/
def Obligations.KeyShowHideEditTheStagedImage : Prop :=
  ∀ (s : State) (t : Taken) (w : WindowId) (hd : Held), Editable s t w hd →
    (Takes s 0x13 3 t →
      (argNat t.message.args 1 = 0 → exec .key s = .next (answered t (accepted []) (s.restage w
        { hd.staged with image := { hd.staged.image with key := none } }))) ∧
      (argNat t.message.args 1 = 1 → ∀ k, t.message.args[2]? = some k →
        exec .key s = .next (answered t (accepted []) (s.restage w
          { hd.staged with image := { hd.staged.image with key := some k } }))) ∧
      (1 < argNat t.message.args 1 → exec .key s = .next (answered t (refusal .badCommand) s))) ∧
    (Takes s 0x14 1 t →
      (hd.staged.image.geometry = none ∨ hd.staged.image.source = none →
        exec .showWindow s = .next (answered t (refusal .incomplete) s)) ∧
      (hd.staged.image.geometry ≠ none → hd.staged.image.source ≠ none →
        exec .showWindow s = .next (answered t (accepted []) (s.restage w
          { hd.staged with image := { hd.staged.image with visible := true } })))) ∧
    (Takes s 0x15 1 t →
      exec .hideWindow s = .next (answered t (accepted []) (s.restage w
        { hd.staged with image := { hd.staged.image with visible := false } })))

/-- R10, R11, R30: RETIRE of a RESERVED window frees it at once; RETIRE of a LIVE window takes retire pending. -/
def Obligations.RetireFreesOrMarks : Prop :=
  ∀ (s : State) (t : Taken) (w : WindowId) (hd : Held), Takes s 0x16 1 t → Editable s t w hd →
    ((s.window w).life = .reserved hd → (s.client t.client).state = .opened →
      exec .retire s = .next (answered t (accepted []) { s with
        windows := s.windows.set w { life := .free, refs := (s.window w).refs }
        clients := s.clients.set t.client
          { s.client t.client with held := (s.client t.client).held - 1 } })) ∧
    (∀ img fault, (s.window w).life = .live hd img fault →
      exec .retire s = .next (answered t (accepted []) (s.restage w { hd.staged with retirePending := true })) ∧
      (hd.staged.retirePending = true → exec .retire s = .next (answered t (accepted []) s)))

/-- R32, R33: COMMIT queues the client, or applies it alone in the same step. What an apply does is the statement
ApplyProcessesWindows. -/
def Obligations.CommitQueuesOrApplies : Prop :=
  ∀ (s : State) (t : Taken), Takes s 0x17 1 t →
    ((∀ h : HeadId, argNat t.message.args 0 = h.val → (s.client t.client).heads.has h = false) →
      exec .commit s = .next (answered t (refusal .notPermitted) s)) ∧
    ∀ h : HeadId, argNat t.message.args 0 = h.val → (s.client t.client).heads.has h = true →
      let holds := ∃ (w : WindowId) (hd : Held), hd.owner = t.client ∧ hd.head = h ∧
        ((s.window w).life = .reserved hd ∨ ∃ img fault, (s.window w).life = .live hd img fault)
      (t.client ∈ (s.head h).commitQueue → exec .commit s = .next (answered t (refusal .sealedPending) s)) ∧
      (t.client ∉ (s.head h).commitQueue → (s.head h).state ≠ .stopped → holds →
        exec .commit s = .next (answered t (accepted [1]) { s with
          heads := s.heads.set h { s.head h with commitQueue := (s.head h).commitQueue ++ [t.client] } })) ∧
      (t.client ∉ (s.head h).commitQueue → (s.head h).state = .stopped ∨ ¬ holds →
        exec .commit s = .next (respond t.client t.message (accepted [2])
          (applyClients h [t.client] (consume t s))))

/-- R36, R37, R38, R39: what an apply of clients on a head makes of each window, of the references, of the head's
Depth List, and of each client applied; R11, R18, R144, R45: the held count, RETIRED and entry to CLOSED of the owners
of windows that enter FREE; the rest of the head, the other head, the tags, the host side, the other clients and the
other notice kinds are untouched. That an apply which changes a window is one of a client with a RESERVED or LIVE
window on the head, and that the Depth List is left as it is by any other, is the model's reading of R38 (log 19). -/
def Obligations.ApplyProcessesWindows : Prop :=
  ∀ (s : State) (h : HeadId) (cs : List ClientId), cs.Nodup →
    let u := applyClients h cs s
    let changes := ∃ (c : ClientId) (w : WindowId) (hd : Held), c ∈ cs ∧ hd.owner = c ∧ hd.head = h ∧
      ((s.window w).life = .reserved hd ∨ ∃ img fault, (s.window w).life = .live hd img fault)
    (∀ w, (u.window w).refs = (s.window w).refs) ∧
    (∀ w hd, hd.owner ∈ cs → hd.head = h → (s.window w).life = .reserved hd →
      (u.window w).life = .live hd hd.staged.image none) ∧
    (∀ w hd img fault, hd.owner ∈ cs → hd.head = h → (s.window w).life = .live hd img fault →
      (hd.staged.retirePending = false → (u.window w).life = .live hd hd.staged.image none) ∧
      (hd.staged.retirePending = true →
        (u.window w).life = if (s.window w).refs = 0 then .free else .retiring hd img fault)) ∧
    (∀ w, (∀ hd, (s.window w).life.held? = some hd →
        hd.owner ∉ cs ∨ hd.head ≠ h ∨ (s.window w).life.isRetiring = true) → u.window w = s.window w) ∧
    (changes → (u.head h).depthList = builtDepthList h u) ∧
    (¬ changes → (u.head h).depthList = (s.head h).depthList) ∧
    (∀ c ∈ cs, (u.client c).state ≠ .closed →
      (u.notice c).committed = some (((s.notice c).committed.getD ⟨false, false⟩).add h)) ∧
    (∀ c, c ∉ cs → (s.client c).state ≠ .closing → (u.notice c).committed = (s.notice c).committed) ∧
    ReportsFreed s u (freedIn s u) ∧ NoticesKept s u (fun r => { r with committed := none }) ∧
    HostSideKept s u ∧ u.tags = s.tags ∧ u.lastServed = s.lastServed ∧ (∀ x, x ≠ h → HeadKept s u x) ∧
    u.head h = { s.head h with depthList := (u.head h).depthList, commitQueue := queueLeft s u h }

/-- R38: the list an apply builds holds exactly the head's LIVE windows whose live image is visible, by depth from 31
down to 0 and, within one depth, by ascending id. -/
def Obligations.DepthListIsOrderedByDepth : Prop :=
  ∀ (s : State) (h : HeadId),
    (∀ w, w ∈ builtDepthList h s ↔ ∃ hd img fault, (s.window w).life = .live hd img fault ∧ hd.head = h ∧
      img.visible = true ∧ img.depth ≤ 31) ∧
    (builtDepthList h s).Pairwise (fun v w => ∀ a b, (s.window v).life.liveImage? = some a →
      (s.window w).life.liveImage? = some b → b.depth < a.depth ∨ (a.depth = b.depth ∧ v < w))

/-- R19, R20, R21: QUERY_WINDOW. -/
def Obligations.QueryWindowReportsTheRecord : Prop :=
  ∀ (s : State) (t : Taken), Takes s 0x18 2 t →
    ((∀ w : WindowId, argNat t.message.args 0 = w.val → (s.window w).life = .free) →
      exec .queryWindow s = .next (answered t (refusal .badWindow) s)) ∧
    ∀ (w : WindowId) (hd : Held), argNat t.message.args 0 = w.val → (s.window w).life.held? = some hd →
      (hd.owner ≠ t.client → t.client ≠ 0 → exec .queryWindow s = .next (answered t (refusal .notPermitted) s)) ∧
      (hd.owner = t.client ∨ t.client = 0 →
        (2 < argNat t.message.args 1 → exec .queryWindow s = .next (answered t (refusal .badCommand) s)) ∧
        (argNat t.message.args 1 ≤ 2 → (s.window w).refs ≤ 784 →
          (∀ img, hd.staged.image = img ∨ (s.window w).life.liveImage? = some img → img.inRange) →
          ∃ summary words, exec .queryWindow s = .next (answered t (accepted (summary :: words)) s) ∧
            let img := if argNat t.message.args 1 = 1 then (s.window w).life.liveImage? else some hd.staged.image
            ReportsSummary s w hd (argNat t.message.args 1) img summary ∧
            (argNat t.message.args 1 ≠ 2 → ReportsImage img words) ∧
            (argNat t.message.args 1 = 2 → words = [BitVec.ofNat 32 ((s.window w).life.fault?.getD 0)])))

/-! ### Head commands -/

/-- R47: when a timing set is valid. -/
def Obligations.TimingSetValidity : Prop :=
  ∀ ts : TimingSet, ts.valid = true ↔
    (64 ≤ ts.lineTotal ∧ ts.lineTotal ≤ 4096 ∧ ts.lineSyncEnd ≤ 4095 ∧ 1 ≤ ts.activeStartPixel ∧
      ts.activeStartPixel ≤ 4095 ∧ 16 ≤ ts.activeWidth ∧ ts.activeWidth ≤ 2048 ∧ 16 ≤ ts.frameTotal ∧
      ts.frameTotal ≤ 4096 ∧ ts.frameSyncEnd ≤ 4095 ∧ ts.activeFirstLine ≤ 4095 ∧ 1 ≤ ts.activeHeight ∧
      ts.activeHeight ≤ 2048 ∧ ts.commitLine ≤ 4095 ∧ ts.captureBand ≤ 15) ∧
    ts.lineSyncEnd < ts.activeStartPixel ∧ ts.activeStartPixel + ts.activeWidth ≤ ts.lineTotal ∧
    ts.frameSyncEnd < ts.activeFirstLine ∧ ts.activeFirstLine + ts.activeHeight ≤ ts.frameTotal ∧
    ts.commitLine < ts.frameTotal ∧ ¬ ActiveLineOf ts ts.commitLine ∧
    3 ≤ ((ts.activeFirstLine : Int) - ts.commitLine) % ts.frameTotal ∧
    (∀ n, ActiveLineOf ts n → ¬ InQuietBand ts n) ∧ ¬ InQuietBand ts ts.commitLine

/-- R48: SET_TIMING from channel 0. R58, R68: START_HEAD from channel 0; R59: its first line start is pending. -/
def Obligations.SetTimingAndStartHead : Prop :=
  (∀ (s : State) (t : Taken) (h : HeadId) (ts : TimingSet), Takes s 0x20 7 t → t.client = 0 →
      argField t.message.args 5 15 0 = h.val →
      ts = { lineTotal := argField t.message.args 0 15 0, lineSyncEnd := argField t.message.args 0 31 16
             activeStartPixel := argField t.message.args 1 15 0, activeWidth := argField t.message.args 1 31 16
             frameTotal := argField t.message.args 2 15 0, frameSyncEnd := argField t.message.args 2 31 16
             activeFirstLine := argField t.message.args 3 15 0, activeHeight := argField t.message.args 3 31 16
             commitLine := argField t.message.args 4 15 0, captureBand := argField t.message.args 4 31 16
             background := BitVec.ofNat 24 (argNat t.message.args 6) } →
      ((s.head h).state ≠ .stopped → exec .setTiming s = .next (answered t (refusal .headState) s)) ∧
      ((s.head h).state = .stopped → ts.valid = false →
        exec .setTiming s = .next (answered t (refusal .badTiming) s)) ∧
      ((s.head h).state = .stopped → ts.valid = true →
        exec .setTiming s = .next (answered t (accepted []) { s with
          heads := s.heads.set h { s.head h with timing := some ts } }))) ∧
  (∀ (s : State) (t : Taken) (h : HeadId), Takes s 0x21 2 t → t.client = 0 → argNat t.message.args 0 = h.val →
      argNat t.message.args 1 ≤ 1 →
      ((s.head h).state ≠ .stopped → exec .startHead s = .next (answered t (refusal .headState) s)) ∧
      ((s.head h).state = .stopped → (s.head h).timing = none →
        exec .startHead s = .next (answered t (refusal .badTiming) s)) ∧
      ((s.head h).state = .stopped → (s.head h).timing ≠ none →
        exec .startHead s = .next (answered t (accepted []) { s with
          heads := s.heads.set h { s.head h with
            state := if argNat t.message.args 1 = 0 then .freeRun else .seeking
            pixel := 0, line := 0, frames := 0, misses := 0, tally := .zero, bandMark := false
            pendingWrap := false, startPending := true } })))

/-- R60, R42, R68, R13: STOP_HEAD from channel 0. Of a running head: the head is stopped, its slots emptied with a
release for each segment that is not ABSENT, its cursor cleared, its ACTIVE tags made STALE (this is the state `v`),
and then every client of its Commit Queue is applied, in queue order, but for those that the releases made CLOSED
(R45), and the queue left empty; the response follows. -/
def Obligations.StopHeadEmptiesAndApplies : Prop :=
  ∀ (s : State) (t : Taken) (h : HeadId), Takes s 0x22 1 t → t.client = 0 → argNat t.message.args 0 = h.val →
    ((s.head h).state = .stopped → exec .stopHead s = .next (answered t (accepted []) s)) ∧
    ((s.head h).state ≠ .stopped → ∃ (v : State) (q : List ClientId),
      exec .stopHead s = .next (respond t.client t.message (accepted [])
        ((applyClients h q v).setHead h { (applyClients h q v).head h with commitQueue := [] })) ∧
      q = (s.head h).commitQueue.filter (fun c => ¬ Closes s v c) ∧
      v.head h = { s.head h with
        state := .stopped, pixel := 0, line := 0, misses := 0, tally := .zero, bandMark := false
        pendingWrap := false, startPending := false, slots := Vector.replicate 3 .empty
        cursor := Vector.replicate 3 none, showing := none, commitQueue := q } ∧
      (∀ i, v.tag i = if (s.tag i).state = .active ∧ (s.tag i).head = h then { s.tag i with state := .stale } else s.tag i) ∧
      (∀ w, (v.window w).refs = (s.window w).refs - (s.headReferences h).count w) ∧
      LivesKept s v ∧ FreesReleased s v (s.headReferences h) ∧ NoticesKept s v id ∧
      HostSideKept (consume t s) v ∧ v.lastServed = s.lastServed ∧ (∀ x, x ≠ h → HeadKept s v x))

/-- R64, R66, R138, R137: the supervisor commands and QUERY_HEAD check who asks, and their head, mode and client
arguments, in this order. -/
def Obligations.CommandsCheckWhoAndWhom : Prop :=
  (∀ (s : State) (t : Taken) (i : Instr) (row : CommandRow), i.commandRow = some row → row.supervisor = true →
    Takes s row.code row.argc t → t.client ≠ 0 → exec i s = .next (answered t (refusal .notPermitted) s)) ∧
  (∀ (s : State) (t : Taken) (n : Nat), t.client = 0 → (∀ h : HeadId, n ≠ h.val) →
    (Takes s 0x20 7 t → argField t.message.args 5 15 0 = n → exec .setTiming s = .next (answered t (refusal .badCommand) s)) ∧
    (argNat t.message.args 0 = n →
      (Takes s 0x21 2 t → exec .startHead s = .next (answered t (refusal .badCommand) s)) ∧
      (Takes s 0x22 1 t → exec .stopHead s = .next (answered t (refusal .badCommand) s)) ∧
      (Takes s 0x23 1 t → exec .queryHead s = .next (answered t (refusal .badCommand) s)))) ∧
  (∀ (s : State) (t : Taken), Takes s 0x21 2 t → t.client = 0 → 1 < argNat t.message.args 1 →
    exec .startHead s = .next (answered t (refusal .badCommand) s)) ∧
  (∀ (s : State) (t : Taken), Takes s 0x23 1 t → t.client ≠ 0 →
    (∀ h : HeadId, argNat t.message.args 0 = h.val → (s.client t.client).heads.has h = false) →
    exec .queryHead s = .next (answered t (refusal .notPermitted) s)) ∧
  (∀ (s : State) (t : Taken) (i : Instr) (row : CommandRow),
    i = .openClient ∨ i = .closeClient ∨ i = .setAperture ∨ i = .setHeads → i.commandRow = some row →
    Takes s row.code row.argc t → t.client = 0 →
    (7 < argNat t.message.args 0 → exec i s = .next (answered t (refusal .badCommand) s)) ∧
    (argNat t.message.args 0 = 0 → exec i s = .next (answered t (refusal .notPermitted) s)))

/-- R63, R149: QUERY_HEAD and QUERY_CLIENT answer the record as it stands and change nothing. -/
def Obligations.QueriesReportHeadAndClient : Prop :=
  (∀ (s : State) (t : Taken) (h : HeadId), Takes s 0x23 1 t → argNat t.message.args 0 = h.val →
    t.client = 0 ∨ (s.client t.client).heads.has h = true → (s.head h).misses ≤ 3 → (s.head h).line ≤ 4095 →
    ∃ x y, exec .queryHead s = .next (answered t (accepted [x, y]) s) ∧
      fieldOf x 2 0 = (match (s.head h).state with
        | .stopped => 0
        | .freeRun => 1
        | .seeking => 2
        | .locked => 3
        | .holdover => 4) ∧
      (fieldOf x 8 8 = 1 ↔ (s.head h).timing ≠ none) ∧ fieldOf x 17 16 = (s.head h).misses ∧
      fieldOf y 15 0 = (s.head h).line ∧ fieldOf y 31 16 = (s.head h).frames.toNat) ∧
  (∀ (s : State) (t : Taken), Takes s 0x34 1 t →
    (7 < argNat t.message.args 0 → exec .queryClient s = .next (answered t (refusal .badCommand) s)) ∧
    ∀ n : ClientId, argNat t.message.args 0 = n.val →
      (t.client ≠ 0 → t.client ≠ n → exec .queryClient s = .next (answered t (refusal .notPermitted) s)) ∧
      (t.client = 0 ∨ t.client = n → (s.client n).quota ≤ 48 → (s.client n).held ≤ 48 →
        (∀ a, (s.client n).aperture = some a → a.base ≤ 1048575 ∧ a.limit ≤ 1048575) →
        ∃ x y z, exec .queryClient s = .next (answered t (accepted [x, y, z]) s) ∧
          fieldOf x 1 0 = (match (s.client n).state with
            | .closed => 0
            | .opened => 1
            | .closing => 2) ∧
          fieldOf x 13 8 = (s.client n).quota ∧ fieldOf x 21 16 = (s.client n).held ∧
          (fieldOf x 24 24 = 1 ↔ (s.client n).heads.has 0 = true) ∧
          (fieldOf x 25 25 = 1 ↔ (s.client n).heads.has 1 = true) ∧
          (fieldOf x 28 28 = 1 ↔ (s.client n).aperture ≠ none) ∧
          (match (s.client n).aperture with
           | some a => y.toNat = a.base ∧ z.toNat = a.limit
           | none => y = 0 ∧ z = 0)))

/-! ### Client commands -/

/-- R139, R140: OPEN_CLIENT from channel 0. -/
def Obligations.OpenClientGrantsAndOpens : Prop :=
  ∀ (s : State) (t : Taken) (n : ClientId) (quota code base limit : Nat), Takes s 0x30 4 t → t.client = 0 →
    argNat t.message.args 0 = n.val → argField t.message.args 1 7 0 = quota → argField t.message.args 1 15 8 = code →
    argNat t.message.args 2 = base → argNat t.message.args 3 = limit →
    (n = 0 → exec .openClient s = .next (answered t (refusal .notPermitted) s)) ∧
    (n ≠ 0 → (s.client n).state = .closing → exec .openClient s = .next (answered t (refusal .busy) s)) ∧
    (n ≠ 0 → (s.client n).state = .opened → exec .openClient s = .next (answered t (refusal .inUse) s)) ∧
    (n ≠ 0 → (s.client n).state = .closed → 48 < quota ∨ 3 < code →
      exec .openClient s = .next (answered t (refusal .badCommand) s)) ∧
    (n ≠ 0 → (s.client n).state = .closed → quota ≤ 48 → code ≤ 3 → 1048575 < base ∨ 1048575 < limit ∨ limit < base →
      exec .openClient s = .next (answered t (refusal .badSource) s)) ∧
    (n ≠ 0 → (s.client n).state = .closed → quota ≤ 48 → code ≤ 3 → base ≤ limit → limit ≤ 1048575 →
      exec .openClient s = .next (answered t (accepted []) { s with
        clients := s.clients.set n
          { state := .opened, quota := quota, held := 0, aperture := some ⟨base, limit⟩
            heads := ⟨code = 1 ∨ code = 3, code = 2 ∨ code = 3⟩ }
        channels := s.channels.set n { state := .opened, commands := [], responses := [] }
        notices := s.notices.set n NoticeRecord.cleared }))

/-- R141, R142, R44, R144, R45: CLOSE_CLIENT from channel 0, in a state whose held counts are right (R18). `v` is
the state before the response is placed. The apply at once on a STOPPED head where the client holds a LIVE window
rebuilds its Depth List (R38) and, unless the client becomes CLOSED, sets COMMITTED (R39). -/
def Obligations.CloseClientDrainsItsWindows : Prop :=
  ∀ (s : State) (t : Taken) (n : ClientId), HeldLaw s → Takes s 0x31 1 t → t.client = 0 →
    argNat t.message.args 0 = n.val →
    (n = 0 → exec .closeClient s = .next (answered t (refusal .notPermitted) s)) ∧
    (n ≠ 0 → (s.client n).state = .closing → exec .closeClient s = .next (answered t (refusal .busy) s)) ∧
    (n ≠ 0 → (s.client n).state = .closed → exec .closeClient s = .next (answered t (accepted [2]) s)) ∧
    (n ≠ 0 → (s.client n).state = .opened → ∃ v : State,
      exec .closeClient s = .next (respond 0 t.message
        (accepted [if (v.client n).state = .closed then 2 else 1]) v) ∧
      ((v.client n).state = .closed ↔ (v.client n).held = 0) ∧
      ((v.client n).state = .closed ∨ (v.client n).state = .closing) ∧
      (v.client n).held = (s.client n).held - (freedOf s v n).length ∧
      ((v.client n).state = .closed → BecomesClosed s v n) ∧
      v.channel n = { state := .closed, commands := [], responses := (s.channel n).responses } ∧
      (∀ w hd, (s.window w).life = .reserved hd → hd.owner = n → (v.window w).life = .free) ∧
      (∀ w hd img fault, (s.window w).life = .live hd img fault → hd.owner = n →
        ((s.head hd.head).state ≠ .stopped →
          (v.window w).life = .live { hd with staged := { hd.staged with retirePending := true } } img fault) ∧
        ((s.head hd.head).state = .stopped →
          (v.window w).life = (if (s.window w).refs = 0 then .free
            else .retiring { hd with staged := { hd.staged with retirePending := true } } img fault))) ∧
      (∀ w, (s.window w).owner? ≠ some n → v.window w = s.window w) ∧
      (∀ w, (s.window w).life.isRetiring = true → v.window w = s.window w) ∧
      v.tags = s.tags ∧ v.lastServed = s.lastServed ∧ v.pointer = 0 ∧ v.readData = s.readData ∧
      v.resetHeld = s.resetHeld ∧ v.pending = s.pending ∧ (∀ w, (v.window w).refs = (s.window w).refs) ∧
      (∀ c, c ≠ n → v.client c = s.client c ∧ v.channel c = (consume t s).channel c ∧
        (c ≠ 0 → v.notice c = s.notice c)) ∧
      v.notice 0 = { s.notice 0 with clientClosed := (v.notice 0).clientClosed } ∧
      ((v.client n).state ≠ .closed → (v.notice 0).clientClosed = (s.notice 0).clientClosed) ∧
      let holdsLive := fun (x : HeadId) => ∃ w hd img fault, (s.window w).life = .live hd img fault ∧ hd.owner = n ∧
        hd.head = x
      (∀ x, v.head x = { s.head x with commitQueue := (v.head x).commitQueue, depthList := (v.head x).depthList } ∧
        (holdsLive x → (s.head x).state = .stopped → (v.head x).depthList = builtDepthList x v) ∧
        (¬ holdsLive x ∨ (s.head x).state ≠ .stopped → (v.head x).depthList = (s.head x).depthList) ∧
        (holdsLive x → (s.head x).state ≠ .stopped → (v.head x).commitQueue = (s.head x).commitQueue ++
          (if n ∈ (s.head x).commitQueue then [] else [n])) ∧
        (¬ holdsLive x ∨ (s.head x).state = .stopped → (v.head x).commitQueue =
          if (v.client n).state = .closed then (s.head x).commitQueue.filter (· ≠ n) else (s.head x).commitQueue)) ∧
      ((v.client n).state ≠ .closed →
        (∀ x, (∃ m, (v.notice n).committed = some m ∧ m.has x = true) ↔
          (∃ m, (s.notice n).committed = some m ∧ m.has x = true) ∨ (holdsLive x ∧ (s.head x).state = .stopped)) ∧
        ((v.notice n).committed = none ↔
          (s.notice n).committed = none ∧ ∀ x, holdsLive x → (s.head x).state ≠ .stopped) ∧
        (∃ r : Option WindowId, (v.notice n).retired = keepFirst (s.notice n).retired r ∧
          (∀ w, r = some w → ∃ hd img fault, (s.window w).life = .live hd img fault ∧ w ∈ freedOf s v n) ∧
          (r = none → ∀ w ∈ freedOf s v n, ∃ hd, (s.window w).life = .reserved hd)) ∧
        v.notice n = { s.notice n with committed := (v.notice n).committed, retired := (v.notice n).retired }))

/-- R146, R148: SET_APERTURE and SET_HEADS from channel 0. -/
def Obligations.ApertureAndHeadsAreReplaced : Prop :=
  (∀ (s : State) (t : Taken) (n : ClientId) (base limit : Nat), Takes s 0x32 3 t → t.client = 0 →
    argNat t.message.args 0 = n.val → argNat t.message.args 1 = base → argNat t.message.args 2 = limit →
    let outside := ∃ (w : WindowId) (hd : Held) (img : Image) (g : Geometry) (src : Source),
      (s.window w).life.held? = some hd ∧ hd.owner = n ∧
      (img = hd.staged.image ∨ (s.window w).life.liveImage? = some img) ∧
      img.geometry = some g ∧ img.source = some src ∧ ¬ ExtentWithin g src img.ringRows (some ⟨base, limit⟩)
    (n = 0 → exec .setAperture s = .next (answered t (refusal .notPermitted) s)) ∧
    (n ≠ 0 → (s.client n).state = .closing → exec .setAperture s = .next (answered t (refusal .busy) s)) ∧
    (n ≠ 0 → (s.client n).state = .closed → exec .setAperture s = .next (answered t (refusal .notPermitted) s)) ∧
    (n ≠ 0 → (s.client n).state = .opened → 1048575 < base ∨ 1048575 < limit ∨ limit < base →
      exec .setAperture s = .next (answered t (refusal .badSource) s)) ∧
    (n ≠ 0 → (s.client n).state = .opened → base ≤ limit → limit ≤ 1048575 → outside →
      exec .setAperture s = .next (answered t (refusal .aperture) s)) ∧
    (n ≠ 0 → (s.client n).state = .opened → base ≤ limit → limit ≤ 1048575 → ¬ outside →
      exec .setAperture s = .next (answered t (accepted []) { s with
        clients := s.clients.set n { s.client n with aperture := some ⟨base, limit⟩ } }))) ∧
  (∀ (s : State) (t : Taken) (n : ClientId) (code : Nat) (heads : HeadSet), Takes s 0x33 2 t → t.client = 0 →
    argNat t.message.args 0 = n.val → argNat t.message.args 1 = code →
    heads = ⟨code = 1 ∨ code = 3, code = 2 ∨ code = 3⟩ →
    let leftOut := ∃ (w : WindowId) (hd : Held), (s.window w).life.held? = some hd ∧ hd.owner = n ∧
      heads.has hd.head = false
    (n = 0 → exec .setHeads s = .next (answered t (refusal .notPermitted) s)) ∧
    (n ≠ 0 → (s.client n).state = .closing → exec .setHeads s = .next (answered t (refusal .busy) s)) ∧
    (n ≠ 0 → (s.client n).state = .closed → exec .setHeads s = .next (answered t (refusal .notPermitted) s)) ∧
    (n ≠ 0 → (s.client n).state = .opened → 3 < code → exec .setHeads s = .next (answered t (refusal .badCommand) s)) ∧
    (n ≠ 0 → (s.client n).state = .opened → code ≤ 3 → leftOut → exec .setHeads s = .next (answered t (refusal .inUse) s)) ∧
    (n ≠ 0 → (s.client n).state = .opened → code ≤ 3 → ¬ leftOut →
      exec .setHeads s = .next (answered t (accepted []) { s with
        clients := s.clients.set n { s.client n with heads := heads } })))

/-! ### Tags and notices -/

/-- R122, R13: RECLAIM_TAGS: every ABANDONED tag FREE, a release for each in ascending tag number, and their number
answered. `v` is the state before the response is placed. -/
def Obligations.ReclaimFreesAbandonedTags : Prop :=
  ∀ (s : State) (t : Taken), Takes s 0x40 0 t →
    (t.client ≠ 0 → exec .reclaimTags s = .next (answered t (refusal .notPermitted) s)) ∧
    (t.client = 0 → ∃ v : State,
      exec .reclaimTags s = .next (respond 0 t.message
        (accepted [BitVec.ofNat 32 (allTags.countP (fun i => (s.tag i).state = .abandoned))]) v) ∧
      (∀ i, v.tag i = if (s.tag i).state = .abandoned then { s.tag i with state := .free } else s.tag i) ∧
      (∀ w, (v.window w).refs = (s.window w).refs -
        allTags.countP (fun i => (s.tag i).state = .abandoned ∧ (s.tag i).window = w)) ∧
      LivesKept s v ∧ FreesReleased s v ((allTags.filter (fun i => (s.tag i).state = .abandoned)).map
        (fun i => (s.tag i).window)) ∧ NoticesKept s v id ∧
      HostSideKept (consume t s) v ∧ v.lastServed = s.lastServed ∧ ∀ h, HeadKept s v h)

/-- R155, R156: FETCH_NOTICES reports the issuing client's record and makes every kind of it not pending; R154:
SET_NOTICE_MASK replaces the issuing client's mask. -/
def Obligations.NoticeCommandsActOnTheIssuersRecord : Prop :=
  (∀ (s : State) (t : Taken), Takes s 0x50 0 t →
      let r := s.notice t.client
      ∃ x y z, exec .fetchNotices s = .next (answered t (accepted [x, y, z]) { s with
          notices := s.notices.set t.client { NoticeRecord.cleared with mask := r.mask } }) ∧
        x.getLsbD 0 = r.committed.isSome ∧ x.getLsbD 1 = r.underrun.isSome ∧ x.getLsbD 2 = r.layerDropped.isSome ∧
        x.getLsbD 3 = r.fetchFault.isSome ∧ x.getLsbD 4 = r.retired.isSome ∧ x.getLsbD 5 = r.followLocked.isSome ∧
        x.getLsbD 6 = r.followLost.isSome ∧ x.getLsbD 7 = r.tagAbandoned.isSome ∧
        x.getLsbD 8 = r.strayResponse.isSome ∧ x.getLsbD 9 = r.clientClosed.isSome ∧
        (fieldOf x 16 16 = 1 ↔ r.committed.map HeadSet.head0 = some true) ∧
        (fieldOf x 17 17 = 1 ↔ r.committed.map HeadSet.head1 = some true) ∧
        fieldOf y 7 0 = (r.underrun.map Fin.val).getD 0 ∧ fieldOf y 15 8 = (r.layerDropped.map Fin.val).getD 0 ∧
        fieldOf y 23 16 = (r.fetchFault.map Fin.val).getD 0 ∧ fieldOf y 31 24 = (r.retired.map Fin.val).getD 0 ∧
        fieldOf z 3 0 = (r.followLocked.map Fin.val).getD 0 ∧ fieldOf z 7 4 = (r.followLost.map Fin.val).getD 0 ∧
        fieldOf z 15 8 = (r.tagAbandoned.map Fin.val).getD 0 ∧ fieldOf z 19 16 = (r.strayResponse.map Fin.val).getD 0 ∧
        fieldOf z 23 20 = (r.clientClosed.map Fin.val).getD 0) ∧
  (∀ (s : State) (t : Taken), Takes s 0x51 1 t →
      (1024 ≤ argNat t.message.args 0 ∨ (t.client ≠ 0 ∧ 32 ≤ argNat t.message.args 0) →
        exec .setNoticeMask s = .next (answered t (refusal .badCommand) s)) ∧
      (argNat t.message.args 0 < 1024 → t.client = 0 ∨ argNat t.message.args 0 < 32 →
        exec .setNoticeMask s = .next (answered t (accepted []) { s with
          notices := s.notices.set t.client
            { s.notice t.client with mask := BitVec.ofNat 10 (argNat t.message.args 0) } })))

/-! ### Raster timing -/

/-- R49: one period of a head's pixel clock; R126: the output position advances in an active pixel period. A STOPPED
head does not count. That the period in which the pixel counter reaches the active start pixel of an active line is
the active start (R51), and the one that ends a line is the line start, as commands of their own too (log 6), that
TAG_EXPIRY and LOSS_OF_LOCK name the line start that has this outcome (log 5), and that an event which is not due
changes nothing (log 2) are the model's. -/
def Obligations.PixelPeriodsAndLineStarts : Prop :=
  ∀ (s : State) (h : HeadId),
    ((s.head h).lineStartDue = false → exec (.lineStart h) s = .next s) ∧
    ((s.head h).activeStartDue = false → exec (.activeStart h) s = .next s) ∧
    ((s.head h).lossDue = true → exec (.lossOfLock h) s = exec (.lineStart h) s) ∧
    ((s.head h).lossDue = false → exec (.lossOfLock h) s = .next s) ∧
    (∀ t : TagNo, (s.tag t).head = h →
      let expires := ((s.tag t).state = .active ∨ (s.tag t).state = .stale) ∧ (s.tag t).age = 3
      (expires → (s.head h).lineStartDue = true → exec (.tagExpiry t) s = exec (.lineStart h) s) ∧
      (¬ expires ∨ (s.head h).lineStartDue = false → exec (.tagExpiry t) s = .next s)) ∧
    ((s.head h).state = .stopped → exec (.pixelPeriod h) s = .next s) ∧
    (∀ ts, (s.head h).timing = some ts → ((s.head h).activeStartDue = true ↔ (s.head h).state ≠ .stopped ∧
      (s.head h).startPending = false ∧ ActiveLineOf ts (s.head h).line ∧ 1 ≤ ts.activeHeight ∧
      (s.head h).pixel + 1 = ts.activeStartPixel)) ∧
    ((s.head h).activeStartDue = true → exec (.pixelPeriod h) s = exec (.activeStart h) s) ∧
    ∀ ts, (s.head h).timing = some ts → (s.head h).state ≠ .stopped → (s.head h).activeStartDue = false →
      ((s.head h).startPending = true ∨ (s.head h).pixel + 1 = ts.lineTotal →
        exec (.pixelPeriod h) s = exec (.lineStart h) s ∧ (s.head h).lineStartDue = true) ∧
      ((s.head h).startPending = false → (s.head h).pixel + 1 ≠ ts.lineTotal →
        (∀ sh, (s.head h).showing = some sh → (s.head h).activeHigh = true →
          exec (.pixelPeriod h) s = .next { s with heads := s.heads.set h { s.head h with
            pixel := (s.head h).pixel + 1
            showing := if sh.position + 1 < ts.activeWidth then some { sh with position := sh.position + 1 } else none } }) ∧
        ((s.head h).showing = none ∨ (s.head h).activeHigh = false →
          exec (.pixelPeriod h) s = .next { s with
            heads := s.heads.set h { s.head h with pixel := (s.head h).pixel + 1 } }))

/-- R49, R50, R59: the counters after a line start: of the first after START_HEAD, of a line that ends in its frame,
and of a frame end. The host side, the clients, the other head, its tags and its windows, and the notice kinds no line
start sets are untouched, and away from the commit line (R52) no queue is applied and the Depth List is left. -/
def Obligations.LineStartMovesTheCounters : Prop :=
  ∀ (s : State) (h : HeadId) (ts : TimingSet), (s.head h).timing = some ts → (s.head h).state ≠ .stopped →
    ((s.head h).startPending = true → ∃ u, exec (.lineStart h) s = .next u ∧
      (u.head h).line = 0 ∧ (u.head h).pixel = 0 ∧ (u.head h).frames = (s.head h).frames ∧
      (u.head h).startPending = false ∧
      ∀ k : SlotNo, (u.head h).slots[k].line? = some k.val) ∧
    (LineEnds s h ts → ∃ u, exec (.lineStart h) s = .next u ∧ (u.head h).pixel = 0 ∧
      (u.head h).timing = some ts ∧ (u.head h).pendingWrap = false ∧
      (FrameEnds (s.head h) ts → (u.head h).line = 0 ∧ (u.head h).frames = (s.head h).frames + 1) ∧
      (¬ FrameEnds (s.head h) ts → (u.head h).line = (s.head h).line + 1 ∧ (u.head h).frames = (s.head h).frames ∧
        (u.head h).state = (s.head h).state ∧ (u.head h).misses = (s.head h).misses ∧
        (u.head h).tally = (s.head h).tally ∧ (u.head h).bandMark = (s.head h).bandMark)) ∧
    ((s.head h).startPending = true ∨ LineEnds s h ts → ∃ u, exec (.lineStart h) s = .next u ∧
      HostSideKept s u ∧ u.lastServed = s.lastServed ∧ (∀ x, x ≠ h → HeadKept s u x) ∧
      NoticesKept s u (fun r => { r with
        committed := none, layerDropped := none, followLocked := none, followLost := none, tagAbandoned := none }) ∧
      (∀ c, c ≠ 0 → (s.client c).state ≠ .closing → (u.notice c).followLocked = (s.notice c).followLocked ∧
        (u.notice c).followLost = (s.notice c).followLost ∧ (u.notice c).tagAbandoned = (s.notice c).tagAbandoned) ∧
      ((u.head h).line ≠ ts.commitLine → LivesKept s u ∧ (u.head h).depthList = (s.head h).depthList ∧
        (u.head h).commitQueue = queueLeft s u h ∧
        ∀ c, (s.client c).state ≠ .closing → (u.notice c).committed = (s.notice c).committed) ∧
      (∀ i, (s.tag i).head ≠ h → u.tag i = s.tag i) ∧
      ∀ w, (s.window w).life.isRetiring = false → (∀ hd, (s.window w).life.held? = some hd → hd.head ≠ h) →
        (u.window w).life = (s.window w).life)

/-- R83, R85, R86, R96, R101: at a line start that takes its line by the counter's advance or a natural wrap (R71: the
locking wrap may be one), the slot that held the line that ended holds the line two after the one that begins; the
other two slots stay as they are. The references of the old content are released, and a RETIRING window whose last
they were enters FREE (R13, R11). Away from the commit point the line is resolved from the windows as they stand, the slot joins the cursor at its
first PENDING segment, LAYER_DROPPED goes to the OPEN owners of the windows dropped (R91, R93, R95; the statement
EachColumnShowsItsTopWindows says which those are), and the references released and added are exactly those of the
two contents of that slot. At the commit point (R35, R52), in a state with a valid timing set, right held counts and
lawful queues, whichever of release and apply comes first (R17, log 4): the queue is empty, each window of a queued
client is as its staged image or its retirement says, and the others are untouched. -/
def Obligations.LineStartResolvesTwoAhead : Prop :=
  ∀ (s : State) (h : HeadId) (ts : TimingSet) (k : SlotNo) (begun n : Nat), LineEnds s h ts →
    (s.head h).pendingWrap = false ∨ (s.head h).line + 1 = ts.frameTotal → (s.head h).lossDue = false →
    slotOfLine (s.head h) (s.head h).line = some k →
    begun = (if (s.head h).line + 1 = ts.frameTotal then 0 else (s.head h).line + 1) →
    n = (begun + 2) % ts.frameTotal →
    ∃ u, exec (.lineStart h) s = .next u ∧ (u.head h).slots[k].line? = some n ∧
      (∀ j : SlotNo, j ≠ k → (u.head h).slots[j] = (s.head h).slots[j] ∧ (u.head h).cursor[j] = (s.head h).cursor[j]) ∧
      (ts.isActive n = false ∨ (u.head h).state = .seeking →
        (u.head h).slots[k] = .blank n ∧ (u.head h).cursor[k] = none) ∧
      (begun ≠ ts.commitLine →
        (ts.isActive n = true → (u.head h).state ≠ .seeking →
          ∀ r, r = resolveLine (n - ts.activeFirstLine) ts.activeWidth
            (coversOf (n - ts.activeFirstLine) ts.activeWidth h s) →
          (u.head h).slots[k] = .active
            { phase := if pendingWindows r.spans = [] then .complete else .fetching
              line := n, spans := r.spans, budget := r.budget } ∧
            (∀ p, (u.head h).cursor[k] = some p ↔ FirstPending r.spans (fun _ _ => True) p) ∧
            ∀ c, (s.client c).state = .opened → (u.notice c).layerDropped =
              keepFirst (s.notice c).layerDropped (r.drops.find? (fun w => (s.window w).owner? = some c))) ∧
        LivesKept s u ∧ FreesReleased s u (s.head h).slots[k].references ∧
        ∀ w, (u.window w).refs = (s.window w).refs - (s.head h).slots[k].references.count w
          + (u.head h).slots[k].references.count w) ∧
      ((u.head h).state = .seeking ↔ (s.head h).state = .seeking ∧ (s.head h).pendingWrap = false) ∧
      (begun = ts.commitLine → ts.valid = true → HeldLaw s → QueueLaw s →
        (u.head h).commitQueue = [] ∧
        (∀ w, (u.window w).refs = (s.window w).refs - (s.head h).slots[k].references.count w) ∧
        (∀ w hd, hd.owner ∈ (s.head h).commitQueue → hd.head = h →
          ((s.window w).life = .reserved hd → (u.window w).life = .live hd hd.staged.image none) ∧
          (∀ img fault, (s.window w).life = .live hd img fault →
            (hd.staged.retirePending = false → (u.window w).life = .live hd hd.staged.image none) ∧
            (hd.staged.retirePending = true → (u.window w).life =
              if (s.window w).refs - (s.head h).slots[k].references.count w = 0 then .free
              else .retiring hd img fault))) ∧
        (∀ w, (s.window w).life.isRetiring = false → (∀ hd, (s.window w).life.held? = some hd →
          hd.owner ∉ (s.head h).commitQueue ∨ hd.head ≠ h) → (u.window w).life = (s.window w).life) ∧
        ((∃ c ∈ (s.head h).commitQueue, s.holdsOn c h = true) → (u.head h).depthList = builtDepthList h u) ∧
        ∀ c ∈ (s.head h).commitQueue, (u.client c).state ≠ .closed → (u.notice c).committed =
          some (((s.notice c).committed.getD ⟨false, false⟩).add h))

/-- R71, R73, R74: the line start after a mark made a wrap pending takes line 0. Of a SEEKING head it is the locking
wrap. When it is the first after START_HEAD (R59), line k is resolved into slot k and no slot is released; when it
comes from another line than the last, of a SEEKING, LOCKED or HOLDOVER head, it is a corrected wrap (R74): line k is
resolved into slot k, with the references of the old contents released. With a valid timing set these lines are BLANK
(R47). From the last line it is a natural wrap, whose slots the statement LineStartResolvesTwoAhead gives. Client 0 is
OPEN (R137). -/
def Obligations.PendingWrapTakesLineZero : Prop :=
  ∀ (s : State) (h : HeadId) (ts : TimingSet), SupervisorLaw s → (s.head h).timing = some ts →
    (s.head h).pendingWrap = true →
    let blank := fun (u : State) => ∀ k : SlotNo, (u.head h).slots[k] = .blank k.val ∧ (u.head h).cursor[k] = none
    let corrected := fun (u : State) => (∀ k : SlotNo, (u.head h).slots[k].line? = some k.val) ∧
      (∀ w, (u.window w).refs = (s.window w).refs - (s.headReferences h).count w + (u.headReferences h).count w) ∧
      (ts.valid = true → blank u ∧ LivesKept s u ∧ FreesReleased s u (s.headReferences h))
    ((s.head h).state = .seeking → (s.head h).startPending = true ∨ LineEnds s h ts →
      ∃ u, exec (.lineStart h) s = .next u ∧ (u.head h).line = 0 ∧ (u.head h).state = .locked ∧
        (u.head h).misses = 0 ∧ (u.head h).pendingWrap = false ∧
        (u.head h).frames = (if (s.head h).startPending then (s.head h).frames else (s.head h).frames + 1) ∧
        (u.notice 0).followLocked = keepFirst (s.notice 0).followLocked (some h) ∧
        ((s.head h).startPending = true → (∀ k : SlotNo, (u.head h).slots[k].line? = some k.val) ∧
          (∀ w, (u.window w).refs = (s.window w).refs + (u.headReferences h).count w) ∧ (ts.valid = true → blank u)) ∧
        ((s.head h).startPending = false → (s.head h).line + 1 ≠ ts.frameTotal → corrected u)) ∧
    ((s.head h).state = .locked ∨ (s.head h).state = .holdover → LineEnds s h ts →
      (s.head h).line + 1 ≠ ts.frameTotal → (s.head h).lossDue = false →
      ∃ u, exec (.lineStart h) s = .next u ∧ (u.head h).line = 0 ∧ (u.head h).pendingWrap = false ∧
        (u.head h).frames = (s.head h).frames + 1 ∧ corrected u)

/-- R75, R76: the judgement of the frame that ends, in LOCKED and HOLDOVER. -/
def Obligations.FrameEndIsJudged : Prop :=
  ∀ (s : State) (h : HeadId) (ts : TimingSet), LineEnds s h ts → FrameEnds (s.head h) ts →
    (s.head h).state = .locked ∨ (s.head h).state = .holdover →
    let good := (s.head h).tally = .one ∧ (s.head h).bandMark = true
    ∃ u, exec (.lineStart h) s = .next u ∧ (u.head h).tally = .zero ∧ (u.head h).bandMark = false ∧
      (good → (u.head h).state = .locked ∧ (u.head h).misses = 0) ∧
      (¬ good → (u.head h).misses = (s.head h).misses + 1 ∧
        ((s.head h).misses + 1 ≠ 3 → (u.head h).state = .holdover) ∧
        ((s.head h).misses + 1 = 3 → (u.head h).state = .seeking))

/-- R77: the loss of lock, at the frame end whose judgement brings the miss count to 3. The STALE tags age at the same
line start (R120). A RETIRING window whose last reference the emptying releases enters FREE (R13, R11). Client 0 is
OPEN (R137). With a valid timing set line 0 is no commit line (R47). -/
def Obligations.LossOfLockEmptiesTheHead : Prop :=
  ∀ (s : State) (h : HeadId) (ts : TimingSet), SupervisorLaw s → LineEnds s h ts → FrameEnds (s.head h) ts →
    (s.head h).state = .locked ∨ (s.head h).state = .holdover →
    ¬ ((s.head h).tally = .one ∧ (s.head h).bandMark = true) → (s.head h).misses = 2 →
    ∃ u, exec (.lossOfLock h) s = .next u ∧ (u.head h).state = .seeking ∧
      (u.notice 0).followLost = keepFirst (s.notice 0).followLost (some h) ∧
      (∀ k : SlotNo, (u.head h).slots[k] = .blank k.val ∧ (u.head h).cursor[k] = none) ∧
      (∀ w, (u.window w).refs = (s.window w).refs - (s.headReferences h).count w) ∧
      (ts.valid = true → LivesKept s u ∧ FreesReleased s u (s.headReferences h)) ∧
      (∀ i, (s.tag i).state = .active → (s.tag i).head = h → u.tag i = { s.tag i with
        age := (s.tag i).age + 1, state := if (s.tag i).age + 1 = 4 then .abandoned else .stale })

/-- R120: at every line start of a head its ACTIVE and STALE tags age, and a tag that reaches age 4 becomes ABANDONED,
with TAG_ABANDONED in client 0's record (client 0 is OPEN, R137) for the lowest-numbered of them when none was
pending; FREE and ABANDONED tags and those of the other head do not age. TAG_EXPIRY of a tag that reaches age 4 has
this effect too (95: TAG_AGEING is "also within: TAG_EXPIRY"). -/
def Obligations.LineStartAgesTags : Prop :=
  ∀ (s : State) (h : HeadId), SupervisorLaw s → (s.head h).lineStartDue = true →
    let expires := fun (i : TagNo) => (s.tag i).head = h ∧ ((s.tag i).state = .active ∨ (s.tag i).state = .stale) ∧
      (s.tag i).age = 3
    let aged := fun (u : State) =>
      (∀ i, ((s.tag i).head ≠ h ∨ (s.tag i).state = .free ∨ (s.tag i).state = .abandoned → u.tag i = s.tag i) ∧
        ((s.tag i).head = h → (s.tag i).state = .active ∨ (s.tag i).state = .stale →
          u.tag i = { s.tag i with age := (s.tag i).age + 1, state := (u.tag i).state } ∧
          ((s.tag i).age = 3 → (u.tag i).state = .abandoned) ∧
          ((s.tag i).age ≠ 3 → (u.tag i).state = (s.tag i).state ∨ (u.tag i).state = .stale))) ∧
      ((∀ i, ¬ expires i) → (u.notice 0).tagAbandoned = (s.notice 0).tagAbandoned) ∧
      (∀ i, expires i → (∀ j, j < i → ¬ expires j) →
        (u.notice 0).tagAbandoned = keepFirst (s.notice 0).tagAbandoned (some (s.tag i).window))
    (∃ u, exec (.lineStart h) s = .next u ∧ aged u) ∧
    (∀ i, expires i → ∃ u, exec (.tagExpiry i) s = .next u ∧ aged u)

/-- R69, R70, R72, and the first part of R73: a mark arrival, by the head's state. -/
def Obligations.MarkArrivalUpdatesTheFollowRecord : Prop :=
  ∀ (s : State) (h : HeadId), s.resetHeld = false →
    ((s.head h).state = .freeRun ∨ (s.head h).state = .stopped → exec (.markArrival h) s = .next s) ∧
    ((s.head h).state = .seeking → exec (.markArrival h) s = .next { s with
      heads := s.heads.set h { s.head h with pendingWrap := true } }) ∧
    ((s.head h).state = .locked ∨ (s.head h).state = .holdover → ∀ (ts : TimingSet) (v : Nat),
      (s.head h).timing = some ts → v = (s.head h).line → 16 ≤ ts.frameTotal → ts.captureBand ≤ 15 → v < ts.frameTotal →
      let inBand := v = 0 ∨ (1 ≤ v ∧ v ≤ ts.captureBand) ∨ (ts.frameTotal - ts.captureBand ≤ v ∧ v ≤ ts.frameTotal - 1)
      ∃ (tally : Tally) (mark wrap : Bool), exec (.markArrival h) s = .next { s with
          heads := s.heads.set h { s.head h with tally := tally, bandMark := mark, pendingWrap := wrap } } ∧
        tally = (if (s.head h).tally = .zero then .one else .many) ∧
        ((s.head h).tally = .zero → (mark = true ↔ inBand)) ∧
        ((s.head h).tally = .one → mark = false) ∧
        ((s.head h).tally = .many → mark = (s.head h).bandMark) ∧
        (wrap = true ↔ (s.head h).pendingWrap = true ∨ (inBand ∧ v ≠ 0 ∧ v ≠ ts.frameTotal - 1)))

/-- R53, R54, R55, R56: the outputs of a head that has had its first line start, and of a STOPPED one; R57, R59: a head
whose first line start has not come keeps its STOPPED values. R158: NOTICE and the notice indication of a channel. -/
def Obligations.OutputsFollowTheState : Prop :=
  (∀ hd : Head,
      (hd.state = .stopped ∨ hd.startPending = true → hd.lsyncHigh = true ∧ hd.fsyncHigh = true ∧ hd.activeHigh = false ∧
        hd.pix = (hd.timing.map TimingSet.background).getD 0) ∧
      ∀ ts, hd.state ≠ .stopped → hd.startPending = false → hd.timing = some ts →
        (hd.lsyncHigh = false ↔ hd.pixel ≤ ts.lineSyncEnd) ∧ (hd.fsyncHigh = false ↔ hd.line ≤ ts.frameSyncEnd) ∧
        (hd.activeHigh = true ↔ (hd.state = .freeRun ∨ hd.state = .locked ∨ hd.state = .holdover) ∧
          ts.activeFirstLine ≤ hd.line ∧ hd.line < ts.activeFirstLine + ts.activeHeight ∧
          ts.activeStartPixel ≤ hd.pixel ∧ hd.pixel < ts.activeStartPixel + ts.activeWidth) ∧
        (hd.activeHigh = true → hd.pix = hd.assembledPixel ts.background) ∧
        (hd.activeHigh = false → hd.pix = ts.background)) ∧
  (∀ s : State,
      (∀ c, s.indication c = true ↔ (s.client c).state = .opened ∧
        (s.notice c).someUnmasked) ∧
      (s.noticeLine = true ↔ ∃ c, s.indication c = true))

/-! ### Fetch scheduling and the Memory Request Port -/

/-- R117, R119, R125: the active start of a line whose slot is FETCHING: the deadline. UNDERRUN is read in the record
of a client that is OPEN, where the first setting of the step is kept (R152). R13, R11: a RETIRING window whose last
reference the deadline releases enters FREE. R118, R125: the active start of a line
whose slot is COMPLETE, of a BLANK one, and in SEEKING. -/
def Obligations.ActiveStartSettlesAndShowsTheSlot : Prop :=
  (∀ (s : State) (h : HeadId) (k : SlotNo) (a : ActiveLine), (s.head h).activeStartDue = true →
      (s.head h).state.displaying = true → slotOfLine (s.head h) (s.head h).line = some k →
      (s.head h).slots[k] = .active a → a.phase = .fetching →
      ∃ u, exec (.activeStart h) s = .next u ∧
        (∃ b, (u.head h).slots[k] = .active b ∧ b.phase = .showing ∧ b.line = a.line ∧ b.budget = a.budget ∧
          b.spans = a.spans.map (fun sp => { sp with layers := sp.layers.map (fun l =>
            if l.status = .pending then { l with status := .absent } else l) })) ∧
        (u.head h).cursor[k] = none ∧ (u.head h).showing = some { slot := k, position := 0 } ∧
        (∀ j : SlotNo, j ≠ k → (u.head h).slots[j] = (s.head h).slots[j] ∧ (u.head h).cursor[j] = (s.head h).cursor[j]) ∧
        (∀ i, u.tag i = if (s.tag i).state = .active ∧ (s.tag i).head = h ∧ (s.tag i).slot = k
          then { s.tag i with state := .stale } else s.tag i) ∧
        (∀ w, (u.window w).refs = (s.window w).refs - (pendingWindows a.spans).count w) ∧
        (∀ c, (s.client c).state = .opened → (u.notice c).underrun =
          keepFirst (s.notice c).underrun ((pendingWindows a.spans).find? (fun w => (s.window w).owner? = some c))) ∧
        LivesKept s u ∧ FreesReleased s u (pendingWindows a.spans) ∧
        NoticesKept s u (fun r => { r with underrun := none }) ∧
        HostSideKept s u ∧ u.lastServed = s.lastServed ∧ (∀ x, x ≠ h → HeadKept s u x) ∧
        u.head h = { s.head h with
          pixel := (s.head h).pixel + 1
          slots := (u.head h).slots, cursor := (u.head h).cursor
          showing := (u.head h).showing, commitQueue := queueLeft s u h }) ∧
  (∀ (s : State) (h : HeadId), (s.head h).activeStartDue = true →
      ((s.head h).state.displaying = false → exec (.activeStart h) s = .next { s with
        heads := s.heads.set h { s.head h with pixel := (s.head h).pixel + 1 } }) ∧
      ((s.head h).state.displaying = true → ∀ k, slotOfLine (s.head h) (s.head h).line = some k →
        (∀ n, (s.head h).slots[k] = .blank n → exec (.activeStart h) s = .next { s with
          heads := s.heads.set h { s.head h with pixel := (s.head h).pixel + 1 } }) ∧
        (∀ a, (s.head h).slots[k] = .active a → a.phase = .complete →
          exec (.activeStart h) s = .next { s with heads := s.heads.set h { s.head h with
            pixel := (s.head h).pixel + 1
            slots := (s.head h).slots.set k (.active { a with phase := .showing })
            cursor := (s.head h).cursor.set k none
            showing := some { slot := k, position := 0 } } })))

/-- R106, R123: the port accepts the request the arbiter offers, under the lowest-numbered FREE tag. R107, R108: which
head's next request is offered. R102: a head's next request is of the slot in the cursor whose line is shown first,
from the line in progress on; PieceStaysInItsBlock says how the walk goes on within a slot. -/
def Obligations.RequestIssueServesTheArbitersChoice : Prop :=
  (∀ s : State,
      ((∀ t, (s.tag t).state ≠ .free) ∨ arbitrated s = none → exec .requestIssue s = .next s) ∧
      ∀ (t : TagNo) (r : Request), (s.tag t).state = .free → (∀ v, v < t → (s.tag v).state ≠ .free) →
        arbitrated s = some r →
        exec .requestIssue s = .next { s with
          tags := s.tags.set t
            { state := .active, head := r.head, slot := r.slot, span := r.pos.span, layer := r.pos.layer
              window := r.window, address := r.address, byteCount := r.byteCount, age := 0 }
          heads := s.heads.set r.head
            { s.head r.head with cursor := (s.head r.head).cursor.set r.slot r.after }
          windows := s.windows.set r.window { s.window r.window with refs := (s.window r.window).refs + 1 }
          lastServed := r.head }) ∧
  (∀ s : State,
      (∀ h : HeadId, ∀ x : HeadId, x ≠ h → nextRequest x s = none → arbitrated s = nextRequest h s) ∧
      (∀ (h x : HeadId) (r q : Request), h ≠ x → nextRequest h s = some r → nextRequest x s = some q →
        (urgent s r = true → urgent s q = false → arbitrated s = some r) ∧
        (urgent s r = urgent s q → s.lastServed = x → arbitrated s = some r)) ∧
      (∀ (h : HeadId) (r : Request) (ts : TimingSet), (s.head h).timing = some ts → nextRequest h s = some r →
        r.head = h ∧ (urgent s r = true ↔ r.line = (s.head h).line ∨ r.line = ((s.head h).line + 1) % ts.frameTotal))) ∧
  (∀ (s : State) (h : HeadId), (∀ k : SlotNo, (s.head h).cursor[k] = none) → nextRequest h s = none) ∧
  (∀ (s : State) (h : HeadId) (ts : TimingSet) (k : SlotNo) (a : ActiveLine) (p : Pos) (r : Request) (d : Fin 3),
      (s.head h).timing = some ts → (s.head h).line < ts.frameTotal → (s.head h).slots[k] = .active a →
      (s.head h).cursor[k] = some p → requestAt h k a p = some r →
      a.line = ((s.head h).line + d.val) % ts.frameTotal →
      (∀ j : SlotNo, (s.head h).slots[j].line? = some a.line → j = k) →
      (∀ e : Fin 3, e < d → ∀ j : SlotNo, (s.head h).slots[j].line? = some (((s.head h).line + e.val) % ts.frameTotal) →
        (s.head h).cursor[j] = none) →
      nextRequest h s = some r)

/-- R103: a piece has 1 to 256 bytes, lies within one 256-byte block, and ends at the end of that block or at the end
of its segment, whichever comes first; the request for a position carries the piece's first address and its byte
count, and the position after it is the next piece of the segment when there is one, otherwise the beginning of the
next PENDING segment of the walk (R102: spans from left to right, within a span layers from top to bottom), if any. A
position of a segment that is not PENDING gives no request. -/
def Obligations.PieceStaysInItsBlock : Prop :=
  (∀ first len o : Nat, o < len →
    let n := pieceBytes first len o
    1 ≤ n ∧ n ≤ 256 ∧ o + n ≤ len ∧ (first + o) / 256 = (first + o + n - 1) / 256 ∧
    (o + n < len → (first + o + n) % 256 = 0)) ∧
  (∀ (h : HeadId) (k : SlotNo) (a : ActiveLine) (p : Pos) (sp : Span) (l : Layer), a.spans[p.span]? = some sp →
    sp.layers[p.layer]? = some l → l.status = .pending →
    ∃ r, requestAt h k a p = some r ∧ r.address = l.firstByte + p.offset ∧
      r.byteCount = pieceBytes l.firstByte (segmentLength sp l) p.offset ∧ r.window = l.window ∧ r.line = a.line ∧
      (p.offset + r.byteCount < segmentLength sp l → r.after = some { p with offset := p.offset + r.byteCount }) ∧
      (segmentLength sp l ≤ p.offset + r.byteCount → ∀ q, r.after = some q ↔
        FirstPending a.spans (WalkBefore p.span p.layer) q)) ∧
  (∀ (h : HeadId) (k : SlotNo) (a : ActiveLine) (p : Pos),
    (∀ l, layerAt a.spans p.span p.layer = some l → l.status ≠ .pending) → requestAt h k a p = none)

/-- R110, R111, R112: a response with status OK for an ACTIVE tag of a PENDING segment. R98: the slot keeps its line,
spans and budget used; R101: its place in the cursor stays while the segment there is PENDING. R13, R11: a RETIRING
window whose last reference the tag held enters FREE. -/
def Obligations.OkResponseFillsTheSegment : Prop :=
  ∀ (s : State) (earlier : List Beat) (final : Beat) (tg : Tag) (a : ActiveLine) (sp : Span) (l : Layer),
    s.resetHeld = false → final.status = .ok → s.tag final.tag = tg → tg.state = .active →
    (s.head tg.head).slots[tg.slot] = .active a → a.spans[tg.span]? = some sp → sp.layers[tg.layer]? = some l →
    l.status = .pending → l.firstByte ≤ tg.address →
    ∃ (u : State) (b : ActiveLine) (sq : Span) (m : Layer),
      exec (.responseArrival earlier final) s = .next u ∧
      (∀ i, u.tag i = if i = final.tag then { tg with state := .free } else s.tag i) ∧
      (∀ w, (u.window w).refs = (s.window w).refs - (if w = tg.window then 1 else 0)) ∧
      (u.head tg.head).slots[tg.slot] = .active b ∧ b.spans[tg.span]? = some sq ∧ sq.layers[tg.layer]? = some m ∧
      m = { l with bytes := m.bytes, arrived := l.arrived + tg.byteCount
                   status := if l.arrived + tg.byteCount = segmentLength sp l then .filled else .pending } ∧
      (∀ i, m.byteAt? i =
        if tg.address ≤ l.firstByte + i ∧ l.firstByte + i < tg.address + tg.byteCount then
          some (((earlier ++ [final]).flatMap Beat.data).getD (l.firstByte + i - tg.address) 0)
        else l.byteAt? i) ∧
      (∀ i j, (i, j) ≠ (tg.span, tg.layer) → layerAt b.spans i j = layerAt a.spans i j) ∧ LineKept a b ∧
      CursorKept b.spans ((s.head tg.head).cursor[tg.slot]) ((u.head tg.head).cursor[tg.slot]) ∧
      LivesKept s u ∧ FreesReleased s u [tg.window] ∧ NoticesKept s u id ∧ HostSideKept s u ∧ u.lastServed = s.lastServed ∧ (∀ x, x ≠ tg.head → HeadKept s u x) ∧
      (∀ j : SlotNo, j ≠ tg.slot → (u.head tg.head).slots[j] = (s.head tg.head).slots[j] ∧
        (u.head tg.head).cursor[j] = (s.head tg.head).cursor[j]) ∧
      u.head tg.head = { s.head tg.head with
        slots := (u.head tg.head).slots, cursor := (u.head tg.head).cursor
        commitQueue := queueLeft s u tg.head }

/-- R113, R4, R112: a response with status ERROR for an ACTIVE tag of a PENDING segment, in a state where the segment
and the tag hold their references (R14). R98: the slot keeps its line, spans and budget used; R101, R113: the pieces of
the segment that were not issued are skipped. R11, R18, R144: what the owner is told when its RETIRING window enters
FREE. -/
def Obligations.ErrorResponseDropsTheSegment : Prop :=
  ∀ (s : State) (earlier : List Beat) (final : Beat) (tg : Tag) (a : ActiveLine) (l : Layer) (hd : Held) (img : Image)
    (fault : Option Nat), s.resetHeld = false → final.status = .error → s.tag final.tag = tg → tg.state = .active →
    (s.head tg.head).slots[tg.slot] = .active a → layerAt a.spans tg.span tg.layer = some l → l.status = .pending →
    l.window = tg.window → 2 ≤ (s.window tg.window).refs →
    (s.window tg.window).life = .live hd img fault ∨ (s.window tg.window).life = .retiring hd img fault →
    ∃ (u : State) (b : ActiveLine), exec (.responseArrival earlier final) s = .next u ∧
      (u.tag final.tag).state = .free ∧
      (∀ i, i ≠ final.tag → u.tag i = if (s.tag i).state = .active ∧ (s.tag i).head = tg.head ∧
        (s.tag i).slot = tg.slot ∧ (s.tag i).span = tg.span ∧ (s.tag i).layer = tg.layer
        then { s.tag i with state := .stale } else s.tag i) ∧
      (u.head tg.head).slots[tg.slot] = .active b ∧
      layerAt b.spans tg.span tg.layer = some { l with status := .absent } ∧
      (∀ i j, (i, j) ≠ (tg.span, tg.layer) → layerAt b.spans i j = layerAt a.spans i j) ∧ LineKept a b ∧
      CursorKept b.spans ((s.head tg.head).cursor[tg.slot]) ((u.head tg.head).cursor[tg.slot]) ∧
      (u.window tg.window).refs = (s.window tg.window).refs - 2 ∧
      ((s.window tg.window).life = .live hd img fault →
        (u.window tg.window).life = .live hd img (some (fault.getD tg.address))) ∧
      ((s.window tg.window).life = .retiring hd img fault →
        (u.window tg.window).life = (if (s.window tg.window).refs = 2 then .free
          else .retiring hd img (some (fault.getD tg.address)))) ∧
      ((s.client hd.owner).state ≠ .closing ∨ (u.window tg.window).life ≠ .free →
        (u.notice hd.owner).fetchFault = if fault = none then
          keepFirst (s.notice hd.owner).fetchFault (some tg.window) else (s.notice hd.owner).fetchFault) ∧
      (∀ c, c ≠ hd.owner → (u.notice c).fetchFault = (s.notice c).fetchFault) ∧
      ReportsFreed s u (freedIn s u) ∧ NoticesKept s u (fun r => { r with fetchFault := none }) ∧
      (∀ w, w ≠ tg.window → u.window w = s.window w) ∧
      HostSideKept s u ∧ u.lastServed = s.lastServed ∧ (∀ x, x ≠ tg.head → HeadKept s u x) ∧
      (∀ j : SlotNo, j ≠ tg.slot → (u.head tg.head).slots[j] = (s.head tg.head).slots[j] ∧
        (u.head tg.head).cursor[j] = (s.head tg.head).cursor[j]) ∧
      u.head tg.head = { s.head tg.head with
        slots := (u.head tg.head).slots, cursor := (u.head tg.head).cursor
        commitQueue := queueLeft s u tg.head }

/-- R115, R116, R16, R13: a response for a STALE, an ABANDONED or a FREE tag, with either status. Where it frees its
window, the held count of an OPEN owner falls and RETIRED is set (R11, R18), and a CLOSING owner whose last window it
was becomes CLOSED (R144). -/
def Obligations.LateAndStrayResponsesAreDiscarded : Prop :=
  ∀ (s : State) (earlier : List Beat) (final : Beat) (tg : Tag), s.resetHeld = false → s.tag final.tag = tg →
    (tg.state = .free → exec (.responseArrival earlier final) s = .next { s with
      notices := s.notices.set 0 { s.notice 0 with
        strayResponse := keepFirst (s.notice 0).strayResponse (some final.tag) } }) ∧
    (tg.state = .stale ∨ tg.state = .abandoned →
      ((s.window tg.window).life.isRetiring = false ∨ 1 < (s.window tg.window).refs →
        exec (.responseArrival earlier final) s = .next { s with
          tags := s.tags.set final.tag { tg with state := .free }
          windows := s.windows.set tg.window
            { s.window tg.window with refs := (s.window tg.window).refs - 1 } }) ∧
      ((s.window tg.window).life.isRetiring = true → (s.window tg.window).refs = 1 →
        ∃ u, exec (.responseArrival earlier final) s = .next u ∧
          u.tag final.tag = { tg with state := .free } ∧ (u.window tg.window).life = .free ∧
          (u.window tg.window).refs = 0 ∧ (∀ w, w ≠ tg.window → u.window w = s.window w) ∧
          ReportsFreed s u [tg.window] ∧ NoticesKept s u id ∧
          (∀ c, (s.window tg.window).owner? = some c → c ≠ 0 → (s.client c).state = .closing →
            (s.client c).held = 1 → BecomesClosed s u c) ∧
          (∀ i, i ≠ final.tag → u.tag i = s.tag i) ∧ HostSideKept s u ∧ u.lastServed = s.lastServed ∧
          ∀ h, HeadKept s u h))

/-! ### Span resolution and line assembly -/

/-- The covers a resolution works on (R86 to R88): each clipped to the active width, not empty, one for each window,
within its window's columns and rows on the active row. -/
def Obligations.CoversAreClippedToTheLine : Prop :=
  ∀ (s : State) (h : HeadId) (row width : Nat),
    (∀ c ∈ coversOf row width h s, c.lo < c.past ∧ c.past ≤ width ∧ c.lo = c.geometry.x ∧
      c.past = min (c.geometry.x + c.geometry.width) width ∧
      c.geometry.y ≤ row ∧ row < c.geometry.y + c.geometry.height ∧
      ∃ hd img, (s.window c.window).life = .live hd img none ∧ img.geometry = some c.geometry ∧
        img.source = some c.source ∧ img.ringRows = c.ringRows ∧ img.key = c.key) ∧
    (∀ w hd img g src, w ∈ (s.head h).depthList → (s.window w).life = .live hd img none → img.geometry = some g →
      img.source = some src → g.y ≤ row → row < g.y + g.height → g.x < width → 1 ≤ g.width →
      ∃ c ∈ coversOf row width h s, c.window = w) ∧
    (∀ w, (s.window w).life.fault? ≠ none → ∀ c ∈ coversOf row width h s, c.window ≠ w) ∧
    ((coversOf row width h s).map Cover.window).Sublist (s.head h).depthList

/-- R97: what every resolved active line is: 1 to 32 contiguous spans that cover the active width exactly, at most 4
layers in each, none after an opaque one, and a budget used of at most 16,384. R95: each segment of the walk is
entered PENDING exactly when its cost fits beside the PENDING ones before it, and ABSENT otherwise, and the budget
used is the cost of the PENDING ones. -/
def Obligations.ResolvedSpansTileTheLine : Prop :=
  ∀ (row width : Nat) (covers : List Cover), 1 ≤ width → (∀ c ∈ covers, c.lo < c.past ∧ c.past ≤ width) →
    let r := resolveLine row width covers
    SpansLaw width r.spans r.budget ∧ r.budget = pendingCost (segmentCosts r.spans) ∧
    ∀ before cost status rest, segmentCosts r.spans = before ++ (cost, status) :: rest →
      (pendingCost before + cost ≤ 16384 → status = .pending) ∧ (16384 < pendingCost before + cost → status = .absent)

/-- R89 to R93: the span that holds column `x` has the top windows that cover `x`, in Depth List order, down to and
including the first opaque one and at most 4, and neighbouring spans differ; but when more than 32 spans would be
needed, the 32nd is a background span to the right edge. R91, R93, R95, R99: the windows dropped are, in this order,
those the layer limit cuts from the stacks of the elementary intervals, from left to right (an interval begins at
column 0 and at each edge of a cover) and in each from top to bottom; those of the spans replaced, each once, in the
order of its first place from left to right and top to bottom; and those whose segments are ABSENT, in walk order. -/
def Obligations.EachColumnShowsItsTopWindows : Prop :=
  ∀ (row width : Nat) (covers : List Cover), 1 ≤ width → (∀ c ∈ covers, c.lo < c.past ∧ c.past ≤ width) →
    let r := resolveLine row width covers
    let stack := fun (x : Nat) =>
      let covering := covers.filter (fun c => c.lo ≤ x && x < c.past)
      let keyed := covering.takeWhile (fun c => c.key ≠ none)
      (keyed ++ (covering.drop keyed.length).take 1).map Cover.window
    let shown := fun (x : Nat) => (r.spans.filter (fun sp => sp.xStart ≤ x ∧ x ≤ sp.xEnd)).flatMap
      (fun sp => sp.layers.map Layer.window)
    let replaced := fun (sp : Span) => r.spans.length = 32 ∧ sp.xEnd + 1 = width ∧ sp.layers = [] ∧
      ∃ x y, sp.xStart ≤ x ∧ x < y ∧ y ≤ sp.xEnd ∧ (stack x).take 4 ≠ (stack y).take 4
    (∀ x, x < width → ∃ sp ∈ r.spans, sp.xStart ≤ x ∧ x ≤ sp.xEnd ∧
      (sp.layers.map Layer.window = (stack x).take 4 ∨ replaced sp)) ∧
    (∀ before sp next rest, r.spans = before ++ sp :: next :: rest →
      sp.layers.map Layer.window ≠ next.layers.map Layer.window ∨ replaced next) ∧
    r.drops = ((List.range width).filter (fun x => x = 0 ∨ ∃ c ∈ covers, c.lo = x ∨ c.past = x)).flatMap (fun x => (stack x).drop 4) ++
      ((List.range width).flatMap (fun x => ((stack x).take 4).filter (fun w => w ∉ shown x))).eraseDups ++
      ((walkLayers r.spans).filter (fun l => l.status = .absent)).map Layer.window

/-- R94, R5, R6, R7: the segment of every layer of a resolved line begins at the address of its window's pixel at the
span's first column and lies within the window's source extent. -/
def Obligations.SegmentsLieInTheSourceExtent : Prop :=
  ∀ (row width : Nat) (covers : List Cover),
    (∀ c ∈ covers, c.lo < c.past ∧ c.past ≤ width ∧ c.lo = c.geometry.x ∧ c.past ≤ c.geometry.x + c.geometry.width ∧
      c.geometry.y ≤ row ∧ row < c.geometry.y + c.geometry.height ∧ (∀ r, c.ringRows = some r → 1 ≤ r) ∧
      (c.source.scrollX + c.geometry.width) * c.source.format.bytes ≤ c.source.pitch) →
    (covers.map Cover.window).Nodup →
    ∀ sp ∈ (resolveLine row width covers).spans, ∀ l ∈ sp.layers, ∃ c ∈ covers, c.window = l.window ∧
      l.format = c.source.format ∧ l.key = c.key ∧ l.firstByte = pixelAddress c row sp.xStart ∧
      c.source.base ≤ l.firstByte ∧
      l.firstByte + segmentLength sp l ≤ lastByte c.geometry c.source c.ringRows + 1

/-- R129, R130, R131, R133: pixel values, the key test and the widening to 24 bits. -/
def Obligations.PixelsAreKeyedAndWidened : Prop :=
  (∀ (l : Layer) (o : Nat) (b0 b1 : Byte), l.format = .p16 → l.byteAt? o = some b0 → l.byteAt? (o + 1) = some b1 →
    let v := b0.toNat + 256 * b1.toNat
    let r := v / 2048
    let g := v / 32 % 64
    let b := v % 32
    l.pixelValue o = v ∧
    (widenPixel .p16 v).toNat = 65536 * (r * 8 + r / 4) + 256 * (g * 4 + g / 16) + (b * 8 + b / 4) ∧
    (l.transparentAt o = true ↔ ∃ k, l.key = some k ∧ v = k.toNat % 65536)) ∧
  (∀ (l : Layer) (o : Nat) (b0 b1 b2 : Byte), l.format = .p32 → l.byteAt? o = some b0 → l.byteAt? (o + 1) = some b1 →
    l.byteAt? (o + 2) = some b2 →
    let v := b0.toNat + 256 * b1.toNat + 65536 * b2.toNat
    l.pixelValue o = v ∧ (widenPixel .p32 v).toNat = 65536 * b2.toNat + 256 * b1.toNat + b0.toNat ∧
    (l.transparentAt o = true ↔ ∃ k, l.key = some k ∧ v = k.toNat % 16777216))

/-- R126, R127, R128, R132: the pixel produced for an output position is that of the first layer, from the top of the
span that holds the position, whose segment is FILLED and which is not transparent there; the background colour when
there is none, or when the assembler holds no slot. -/
def Obligations.FirstVisibleLayerMakesThePixel : Prop :=
  ∀ (hd : Head) (bg : Colour),
    (hd.showing = none → hd.assembledPixel bg = bg) ∧
    ∀ (sh : Showing) (a : ActiveLine) (pre post : List Span) (sp : Span), hd.showing = some sh →
      hd.slots[sh.slot] = .active a → a.spans = pre ++ sp :: post →
      (∀ q ∈ pre, ¬ (q.xStart ≤ sh.position ∧ sh.position ≤ q.xEnd)) →
      sp.xStart ≤ sh.position → sh.position ≤ sp.xEnd →
      let shows := fun (l : Layer) => l.status = .filled ∧
        l.transparentAt ((sh.position - sp.xStart) * l.format.bytes) = false
      ((∀ l ∈ sp.layers, ¬ shows l) → hd.assembledPixel bg = bg) ∧
      (∀ (above below : List Layer) (l : Layer), sp.layers = above ++ l :: below → (∀ m ∈ above, ¬ shows m) → shows l →
        hd.assembledPixel bg = widenPixel l.format (l.pixelValue ((sh.position - sp.xStart) * l.format.bytes)))

/-! ### Laws of every state -/

/-- The laws below hold in the state after device reset. -/
def Obligations.LawsHoldAtReset : Prop :=
  ReferenceLaw State.reset ∧ HeldLaw State.reset ∧ QueueLaw State.reset ∧ DepthListLaw State.reset ∧
  ApertureLaw State.reset ∧ SlotLaw State.reset ∧ TimingLaw State.reset ∧ FollowLaw State.reset ∧
  ChannelLaw State.reset ∧ SupervisorLaw State.reset ∧ TagLaw State.reset ∧ TenantNoticeLaw State.reset ∧
  BytesLaw State.reset ∧ ImageLaw State.reset ∧ ServeLaw State.reset

/-- R14: a window's references are its segments that are not ABSENT plus the tags that name it, and a RETIRING window
has some; with what that rests on (1.4: FREE and RESERVED windows have none; R42, R59: a head that has not had its
first line start has EMPTY slots). Every step keeps it. -/
def Obligations.StepKeepsReferencesCounted : Prop :=
  ∀ s u : State, ReferenceLaw s → step s = .next u → ReferenceLaw u

/-- R18, R136: each client's held count is the number of its windows and does not exceed its quota, and a CLOSED
client's record is empty. Every step keeps it. -/
def Obligations.StepKeepsHeldCounts : Prop :=
  ∀ s u : State, HeldLaw s → step s = .next u → HeldLaw u

/-- R31: the Commit Queues. Every step keeps it. -/
def Obligations.StepKeepsCommitQueues : Prop :=
  ∀ s u : State, QueueLaw s → step s = .next u → QueueLaw u

/-- R38: each Depth List is the one built from the whole table. Every step keeps it. -/
def Obligations.StepKeepsDepthLists : Prop :=
  ∀ s u : State, DepthListLaw s → step s = .next u → DepthListLaw u

/-- R7: every staged and every live image fits its owner's aperture. Every step from a state whose held counts are
right (R18) keeps it. 1.1.1, R26, R27: and every step keeps the images in their ranges, with a pitch that holds a
row. -/
def Obligations.StepKeepsImagesInApertures : Prop :=
  (∀ s u : State, ApertureLaw s → HeldLaw s → step s = .next u → ApertureLaw u) ∧
  (∀ s u : State, ImageLaw s → step s = .next u → ImageLaw u)

/-- R97, R134, R46, R49: line slots and counters fit the head's timing set, which is valid. Every step keeps it. -/
def Obligations.StepKeepsSlotsAndTiming : Prop :=
  ∀ s u : State, SlotLaw s → TimingLaw s → step s = .next u → SlotLaw u ∧ TimingLaw u

/-- R68, R76, R77: the follow record fits the head state. Every step keeps it. -/
def Obligations.StepKeepsFollowRecords : Prop :=
  ∀ s u : State, FollowLaw s → step s = .next u → FollowLaw u

/-- R137, R161, R168: FIFOs hold at most 16 words, a channel is CLOSED exactly while its client is not OPEN, and
client 0's record is fixed but for its held count. Every step keeps it. -/
def Obligations.StepKeepsChannelsAndSupervisor : Prop :=
  ∀ s u : State, ChannelLaw s → SupervisorLaw s → step s = .next u → ChannelLaw u ∧ SupervisorLaw u

/-- R104, R120, R151: ages of tags, no supervisor kind in a tenant's record, and segment bytes in their canonical
form. Every step keeps it. R105, R101: what ACTIVE tags and the cursor serve. Every step from a state whose heads that
have had no first line start have EMPTY slots (R42, R59) keeps it. -/
def Obligations.StepKeepsTagsNoticesAndBytes : Prop :=
  (∀ s u : State, TagLaw s → TenantNoticeLaw s → BytesLaw s → step s = .next u →
    TagLaw u ∧ TenantNoticeLaw u ∧ BytesLaw u) ∧
  (∀ s u : State, ServeLaw s → StoppedSlotsEmpty s → step s = .next u → ServeLaw u)

/-- 8.1, 2.1 (R25), 2.2, 3.4.2 (R64), 6.10 (R122), 8.2 (R138), 9.3 (R156), 10.6 (R170, R171): a message of a tenant changes no window of another client, no other client's record or
channel, no other tenant's notice record, no head's state, timing set or slots, and no tag. -/
def Obligations.TenantMessageReachesOnlyItsOwn : Prop :=
  ∀ (s u : State) (t : Taken) (i : Instr), s.nextMessage = some t → t.client ≠ 0 →
    (i = .unknownCommandCode ∨ ∃ row, i.commandRow = some row) → exec i s = .next u →
    (∀ w c, (s.window w).owner? = some c → c ≠ t.client → u.window w = s.window w) ∧
    (∀ c, c ≠ t.client → u.client c = s.client c ∧ u.channel c = s.channel c) ∧
    (∀ c, c ≠ t.client → c ≠ 0 → u.notice c = s.notice c) ∧
    (∀ h, (u.head h).state = (s.head h).state ∧ (u.head h).timing = (s.head h).timing ∧
      (u.head h).slots = (s.head h).slots ∧ (u.head h).line = (s.head h).line ∧
      (∀ c, c ≠ t.client → (c ∈ (u.head h).commitQueue ↔ c ∈ (s.head h).commitQueue))) ∧
    (∀ i, u.tag i = s.tag i)
end

