-- ==== Sys2Proof/Laws/State.lean ====
section
/-! SUPPORT. What one update of one record leaves of State: a read after a write of the same record, a
read of another record or table, and a read of a record past an update of a plain field. No later proof
unfolds a record update. -/

namespace Sys2Proof.Machine

variable (s : State)

/-! ### Reading a record after it is replaced -/

@[simp] theorem State.window_setWindow_self (w : WindowId) (v : Window) : (s.setWindow w v).window w = v := by
  simp [State.window, State.setWindow]

theorem State.window_setWindow (w y : WindowId) (v : Window) :
    (s.setWindow w v).window y = if w = y then v else s.window y := by
  simp only [State.window, State.setWindow, Fin.getElem_fin, Vector.getElem_set, Fin.ext_iff]

@[simp] theorem State.window_setWindow_of_ne {w y : WindowId} (hne : w ≠ y) (v : Window) :
    (s.setWindow w v).window y = s.window y := by
  rw [State.window_setWindow, if_neg hne]

@[simp] theorem State.setWindow_window_self (w : WindowId) : s.setWindow w (s.window w) = s := by
  simp [State.window, State.setWindow]

@[simp] theorem State.setWindow_setWindow (w : WindowId) (v u : Window) : (s.setWindow w v).setWindow w u = s.setWindow w u := by
  simp [State.setWindow]

@[simp] theorem State.client_setClient_self (c : ClientId) (v : Client) : (s.setClient c v).client c = v := by
  simp [State.client, State.setClient]

theorem State.client_setClient (c y : ClientId) (v : Client) :
    (s.setClient c v).client y = if c = y then v else s.client y := by
  simp only [State.client, State.setClient, Fin.getElem_fin, Vector.getElem_set, Fin.ext_iff]

@[simp] theorem State.client_setClient_of_ne {c y : ClientId} (hne : c ≠ y) (v : Client) :
    (s.setClient c v).client y = s.client y := by
  rw [State.client_setClient, if_neg hne]

@[simp] theorem State.setClient_client_self (c : ClientId) : s.setClient c (s.client c) = s := by
  simp [State.client, State.setClient]

@[simp] theorem State.setClient_setClient (c : ClientId) (v u : Client) : (s.setClient c v).setClient c u = s.setClient c u := by
  simp [State.setClient]

@[simp] theorem State.channel_setChannel_self (c : ClientId) (v : Channel) : (s.setChannel c v).channel c = v := by
  simp [State.channel, State.setChannel]

theorem State.channel_setChannel (c y : ClientId) (v : Channel) :
    (s.setChannel c v).channel y = if c = y then v else s.channel y := by
  simp only [State.channel, State.setChannel, Fin.getElem_fin, Vector.getElem_set, Fin.ext_iff]

@[simp] theorem State.channel_setChannel_of_ne {c y : ClientId} (hne : c ≠ y) (v : Channel) :
    (s.setChannel c v).channel y = s.channel y := by
  rw [State.channel_setChannel, if_neg hne]

@[simp] theorem State.setChannel_channel_self (c : ClientId) : s.setChannel c (s.channel c) = s := by
  simp [State.channel, State.setChannel]

@[simp] theorem State.setChannel_setChannel (c : ClientId) (v u : Channel) : (s.setChannel c v).setChannel c u = s.setChannel c u := by
  simp [State.setChannel]

@[simp] theorem State.head_setHead_self (h : HeadId) (v : Head) : (s.setHead h v).head h = v := by
  simp [State.head, State.setHead]

theorem State.head_setHead (h y : HeadId) (v : Head) :
    (s.setHead h v).head y = if h = y then v else s.head y := by
  simp only [State.head, State.setHead, Fin.getElem_fin, Vector.getElem_set, Fin.ext_iff]

@[simp] theorem State.head_setHead_of_ne {h y : HeadId} (hne : h ≠ y) (v : Head) :
    (s.setHead h v).head y = s.head y := by
  rw [State.head_setHead, if_neg hne]

@[simp] theorem State.setHead_head_self (h : HeadId) : s.setHead h (s.head h) = s := by
  simp [State.head, State.setHead]

@[simp] theorem State.setHead_setHead (h : HeadId) (v u : Head) : (s.setHead h v).setHead h u = s.setHead h u := by
  simp [State.setHead]

@[simp] theorem State.tag_setTag_self (t : TagNo) (v : Tag) : (s.setTag t v).tag t = v := by
  simp [State.tag, State.setTag]

theorem State.tag_setTag (t y : TagNo) (v : Tag) :
    (s.setTag t v).tag y = if t = y then v else s.tag y := by
  simp only [State.tag, State.setTag, Fin.getElem_fin, Vector.getElem_set, Fin.ext_iff]

@[simp] theorem State.tag_setTag_of_ne {t y : TagNo} (hne : t ≠ y) (v : Tag) :
    (s.setTag t v).tag y = s.tag y := by
  rw [State.tag_setTag, if_neg hne]

@[simp] theorem State.setTag_tag_self (t : TagNo) : s.setTag t (s.tag t) = s := by
  simp [State.tag, State.setTag]

@[simp] theorem State.setTag_setTag (t : TagNo) (v u : Tag) : (s.setTag t v).setTag t u = s.setTag t u := by
  simp [State.setTag]

@[simp] theorem State.notice_setNotice_self (c : ClientId) (v : NoticeRecord) : (s.setNotice c v).notice c = v := by
  simp [State.notice, State.setNotice]

theorem State.notice_setNotice (c y : ClientId) (v : NoticeRecord) :
    (s.setNotice c v).notice y = if c = y then v else s.notice y := by
  simp only [State.notice, State.setNotice, Fin.getElem_fin, Vector.getElem_set, Fin.ext_iff]

@[simp] theorem State.notice_setNotice_of_ne {c y : ClientId} (hne : c ≠ y) (v : NoticeRecord) :
    (s.setNotice c v).notice y = s.notice y := by
  rw [State.notice_setNotice, if_neg hne]

@[simp] theorem State.setNotice_notice_self (c : ClientId) : s.setNotice c (s.notice c) = s := by
  simp [State.notice, State.setNotice]

@[simp] theorem State.setNotice_setNotice (c : ClientId) (v u : NoticeRecord) : (s.setNotice c v).setNotice c u = s.setNotice c u := by
  simp [State.setNotice]

/-! ### Other tables and plain fields -/

@[simp] theorem State.client_setWindow (w : WindowId) (v : Window) (i : ClientId) : (s.setWindow w v).client i = s.client i := rfl
@[simp] theorem State.channel_setWindow (w : WindowId) (v : Window) (i : ClientId) : (s.setWindow w v).channel i = s.channel i := rfl
@[simp] theorem State.head_setWindow (w : WindowId) (v : Window) (i : HeadId) : (s.setWindow w v).head i = s.head i := rfl
@[simp] theorem State.tag_setWindow (w : WindowId) (v : Window) (i : TagNo) : (s.setWindow w v).tag i = s.tag i := rfl
@[simp] theorem State.notice_setWindow (w : WindowId) (v : Window) (i : ClientId) : (s.setWindow w v).notice i = s.notice i := rfl
@[simp] theorem State.resetHeld_setWindow (w : WindowId) (v : Window) : (s.setWindow w v).resetHeld = s.resetHeld := rfl
@[simp] theorem State.pointer_setWindow (w : WindowId) (v : Window) : (s.setWindow w v).pointer = s.pointer := rfl
@[simp] theorem State.lastServed_setWindow (w : WindowId) (v : Window) : (s.setWindow w v).lastServed = s.lastServed := rfl
@[simp] theorem State.readData_setWindow (w : WindowId) (v : Window) : (s.setWindow w v).readData = s.readData := rfl
@[simp] theorem State.raceDraws_setWindow (w : WindowId) (v : Window) : (s.setWindow w v).raceDraws = s.raceDraws := rfl
@[simp] theorem State.pending_setWindow (w : WindowId) (v : Window) : (s.setWindow w v).pending = s.pending := rfl

@[simp] theorem State.window_setClient (c : ClientId) (v : Client) (i : WindowId) : (s.setClient c v).window i = s.window i := rfl
@[simp] theorem State.channel_setClient (c : ClientId) (v : Client) (i : ClientId) : (s.setClient c v).channel i = s.channel i := rfl
@[simp] theorem State.head_setClient (c : ClientId) (v : Client) (i : HeadId) : (s.setClient c v).head i = s.head i := rfl
@[simp] theorem State.tag_setClient (c : ClientId) (v : Client) (i : TagNo) : (s.setClient c v).tag i = s.tag i := rfl
@[simp] theorem State.notice_setClient (c : ClientId) (v : Client) (i : ClientId) : (s.setClient c v).notice i = s.notice i := rfl
@[simp] theorem State.resetHeld_setClient (c : ClientId) (v : Client) : (s.setClient c v).resetHeld = s.resetHeld := rfl
@[simp] theorem State.pointer_setClient (c : ClientId) (v : Client) : (s.setClient c v).pointer = s.pointer := rfl
@[simp] theorem State.lastServed_setClient (c : ClientId) (v : Client) : (s.setClient c v).lastServed = s.lastServed := rfl
@[simp] theorem State.readData_setClient (c : ClientId) (v : Client) : (s.setClient c v).readData = s.readData := rfl
@[simp] theorem State.raceDraws_setClient (c : ClientId) (v : Client) : (s.setClient c v).raceDraws = s.raceDraws := rfl
@[simp] theorem State.pending_setClient (c : ClientId) (v : Client) : (s.setClient c v).pending = s.pending := rfl

@[simp] theorem State.window_setChannel (c : ClientId) (v : Channel) (i : WindowId) : (s.setChannel c v).window i = s.window i := rfl
@[simp] theorem State.client_setChannel (c : ClientId) (v : Channel) (i : ClientId) : (s.setChannel c v).client i = s.client i := rfl
@[simp] theorem State.head_setChannel (c : ClientId) (v : Channel) (i : HeadId) : (s.setChannel c v).head i = s.head i := rfl
@[simp] theorem State.tag_setChannel (c : ClientId) (v : Channel) (i : TagNo) : (s.setChannel c v).tag i = s.tag i := rfl
@[simp] theorem State.notice_setChannel (c : ClientId) (v : Channel) (i : ClientId) : (s.setChannel c v).notice i = s.notice i := rfl
@[simp] theorem State.resetHeld_setChannel (c : ClientId) (v : Channel) : (s.setChannel c v).resetHeld = s.resetHeld := rfl
@[simp] theorem State.pointer_setChannel (c : ClientId) (v : Channel) : (s.setChannel c v).pointer = s.pointer := rfl
@[simp] theorem State.lastServed_setChannel (c : ClientId) (v : Channel) : (s.setChannel c v).lastServed = s.lastServed := rfl
@[simp] theorem State.readData_setChannel (c : ClientId) (v : Channel) : (s.setChannel c v).readData = s.readData := rfl
@[simp] theorem State.raceDraws_setChannel (c : ClientId) (v : Channel) : (s.setChannel c v).raceDraws = s.raceDraws := rfl
@[simp] theorem State.pending_setChannel (c : ClientId) (v : Channel) : (s.setChannel c v).pending = s.pending := rfl

@[simp] theorem State.window_setHead (h : HeadId) (v : Head) (i : WindowId) : (s.setHead h v).window i = s.window i := rfl
@[simp] theorem State.client_setHead (h : HeadId) (v : Head) (i : ClientId) : (s.setHead h v).client i = s.client i := rfl
@[simp] theorem State.channel_setHead (h : HeadId) (v : Head) (i : ClientId) : (s.setHead h v).channel i = s.channel i := rfl
@[simp] theorem State.tag_setHead (h : HeadId) (v : Head) (i : TagNo) : (s.setHead h v).tag i = s.tag i := rfl
@[simp] theorem State.notice_setHead (h : HeadId) (v : Head) (i : ClientId) : (s.setHead h v).notice i = s.notice i := rfl
@[simp] theorem State.resetHeld_setHead (h : HeadId) (v : Head) : (s.setHead h v).resetHeld = s.resetHeld := rfl
@[simp] theorem State.pointer_setHead (h : HeadId) (v : Head) : (s.setHead h v).pointer = s.pointer := rfl
@[simp] theorem State.lastServed_setHead (h : HeadId) (v : Head) : (s.setHead h v).lastServed = s.lastServed := rfl
@[simp] theorem State.readData_setHead (h : HeadId) (v : Head) : (s.setHead h v).readData = s.readData := rfl
@[simp] theorem State.raceDraws_setHead (h : HeadId) (v : Head) : (s.setHead h v).raceDraws = s.raceDraws := rfl
@[simp] theorem State.pending_setHead (h : HeadId) (v : Head) : (s.setHead h v).pending = s.pending := rfl

@[simp] theorem State.window_setTag (t : TagNo) (v : Tag) (i : WindowId) : (s.setTag t v).window i = s.window i := rfl
@[simp] theorem State.client_setTag (t : TagNo) (v : Tag) (i : ClientId) : (s.setTag t v).client i = s.client i := rfl
@[simp] theorem State.channel_setTag (t : TagNo) (v : Tag) (i : ClientId) : (s.setTag t v).channel i = s.channel i := rfl
@[simp] theorem State.head_setTag (t : TagNo) (v : Tag) (i : HeadId) : (s.setTag t v).head i = s.head i := rfl
@[simp] theorem State.notice_setTag (t : TagNo) (v : Tag) (i : ClientId) : (s.setTag t v).notice i = s.notice i := rfl
@[simp] theorem State.resetHeld_setTag (t : TagNo) (v : Tag) : (s.setTag t v).resetHeld = s.resetHeld := rfl
@[simp] theorem State.pointer_setTag (t : TagNo) (v : Tag) : (s.setTag t v).pointer = s.pointer := rfl
@[simp] theorem State.lastServed_setTag (t : TagNo) (v : Tag) : (s.setTag t v).lastServed = s.lastServed := rfl
@[simp] theorem State.readData_setTag (t : TagNo) (v : Tag) : (s.setTag t v).readData = s.readData := rfl
@[simp] theorem State.raceDraws_setTag (t : TagNo) (v : Tag) : (s.setTag t v).raceDraws = s.raceDraws := rfl
@[simp] theorem State.pending_setTag (t : TagNo) (v : Tag) : (s.setTag t v).pending = s.pending := rfl

@[simp] theorem State.window_setNotice (c : ClientId) (v : NoticeRecord) (i : WindowId) : (s.setNotice c v).window i = s.window i := rfl
@[simp] theorem State.client_setNotice (c : ClientId) (v : NoticeRecord) (i : ClientId) : (s.setNotice c v).client i = s.client i := rfl
@[simp] theorem State.channel_setNotice (c : ClientId) (v : NoticeRecord) (i : ClientId) : (s.setNotice c v).channel i = s.channel i := rfl
@[simp] theorem State.head_setNotice (c : ClientId) (v : NoticeRecord) (i : HeadId) : (s.setNotice c v).head i = s.head i := rfl
@[simp] theorem State.tag_setNotice (c : ClientId) (v : NoticeRecord) (i : TagNo) : (s.setNotice c v).tag i = s.tag i := rfl
@[simp] theorem State.resetHeld_setNotice (c : ClientId) (v : NoticeRecord) : (s.setNotice c v).resetHeld = s.resetHeld := rfl
@[simp] theorem State.pointer_setNotice (c : ClientId) (v : NoticeRecord) : (s.setNotice c v).pointer = s.pointer := rfl
@[simp] theorem State.lastServed_setNotice (c : ClientId) (v : NoticeRecord) : (s.setNotice c v).lastServed = s.lastServed := rfl
@[simp] theorem State.readData_setNotice (c : ClientId) (v : NoticeRecord) : (s.setNotice c v).readData = s.readData := rfl
@[simp] theorem State.raceDraws_setNotice (c : ClientId) (v : NoticeRecord) : (s.setNotice c v).raceDraws = s.raceDraws := rfl
@[simp] theorem State.pending_setNotice (c : ClientId) (v : NoticeRecord) : (s.setNotice c v).pending = s.pending := rfl

/-! ### Records past an update of a plain field -/

@[simp] theorem State.window_with_resetHeld (p : Bool) (i : WindowId) : State.window { s with resetHeld := p } i = s.window i := rfl
@[simp] theorem State.client_with_resetHeld (p : Bool) (i : ClientId) : State.client { s with resetHeld := p } i = s.client i := rfl
@[simp] theorem State.channel_with_resetHeld (p : Bool) (i : ClientId) : State.channel { s with resetHeld := p } i = s.channel i := rfl
@[simp] theorem State.head_with_resetHeld (p : Bool) (i : HeadId) : State.head { s with resetHeld := p } i = s.head i := rfl
@[simp] theorem State.tag_with_resetHeld (p : Bool) (i : TagNo) : State.tag { s with resetHeld := p } i = s.tag i := rfl
@[simp] theorem State.notice_with_resetHeld (p : Bool) (i : ClientId) : State.notice { s with resetHeld := p } i = s.notice i := rfl

@[simp] theorem State.window_with_pointer (p : ClientId) (i : WindowId) : State.window { s with pointer := p } i = s.window i := rfl
@[simp] theorem State.client_with_pointer (p : ClientId) (i : ClientId) : State.client { s with pointer := p } i = s.client i := rfl
@[simp] theorem State.channel_with_pointer (p : ClientId) (i : ClientId) : State.channel { s with pointer := p } i = s.channel i := rfl
@[simp] theorem State.head_with_pointer (p : ClientId) (i : HeadId) : State.head { s with pointer := p } i = s.head i := rfl
@[simp] theorem State.tag_with_pointer (p : ClientId) (i : TagNo) : State.tag { s with pointer := p } i = s.tag i := rfl
@[simp] theorem State.notice_with_pointer (p : ClientId) (i : ClientId) : State.notice { s with pointer := p } i = s.notice i := rfl

@[simp] theorem State.window_with_lastServed (p : HeadId) (i : WindowId) : State.window { s with lastServed := p } i = s.window i := rfl
@[simp] theorem State.client_with_lastServed (p : HeadId) (i : ClientId) : State.client { s with lastServed := p } i = s.client i := rfl
@[simp] theorem State.channel_with_lastServed (p : HeadId) (i : ClientId) : State.channel { s with lastServed := p } i = s.channel i := rfl
@[simp] theorem State.head_with_lastServed (p : HeadId) (i : HeadId) : State.head { s with lastServed := p } i = s.head i := rfl
@[simp] theorem State.tag_with_lastServed (p : HeadId) (i : TagNo) : State.tag { s with lastServed := p } i = s.tag i := rfl
@[simp] theorem State.notice_with_lastServed (p : HeadId) (i : ClientId) : State.notice { s with lastServed := p } i = s.notice i := rfl

@[simp] theorem State.window_with_readData (p : Word) (i : WindowId) : State.window { s with readData := p } i = s.window i := rfl
@[simp] theorem State.client_with_readData (p : Word) (i : ClientId) : State.client { s with readData := p } i = s.client i := rfl
@[simp] theorem State.channel_with_readData (p : Word) (i : ClientId) : State.channel { s with readData := p } i = s.channel i := rfl
@[simp] theorem State.head_with_readData (p : Word) (i : HeadId) : State.head { s with readData := p } i = s.head i := rfl
@[simp] theorem State.tag_with_readData (p : Word) (i : TagNo) : State.tag { s with readData := p } i = s.tag i := rfl
@[simp] theorem State.notice_with_readData (p : Word) (i : ClientId) : State.notice { s with readData := p } i = s.notice i := rfl

@[simp] theorem State.window_with_raceDraws (p : Nat) (i : WindowId) : State.window { s with raceDraws := p } i = s.window i := rfl
@[simp] theorem State.client_with_raceDraws (p : Nat) (i : ClientId) : State.client { s with raceDraws := p } i = s.client i := rfl
@[simp] theorem State.channel_with_raceDraws (p : Nat) (i : ClientId) : State.channel { s with raceDraws := p } i = s.channel i := rfl
@[simp] theorem State.head_with_raceDraws (p : Nat) (i : HeadId) : State.head { s with raceDraws := p } i = s.head i := rfl
@[simp] theorem State.tag_with_raceDraws (p : Nat) (i : TagNo) : State.tag { s with raceDraws := p } i = s.tag i := rfl
@[simp] theorem State.notice_with_raceDraws (p : Nat) (i : ClientId) : State.notice { s with raceDraws := p } i = s.notice i := rfl

@[simp] theorem State.window_with_pending (p : List Instr) (i : WindowId) : State.window { s with pending := p } i = s.window i := rfl
@[simp] theorem State.client_with_pending (p : List Instr) (i : ClientId) : State.client { s with pending := p } i = s.client i := rfl
@[simp] theorem State.channel_with_pending (p : List Instr) (i : ClientId) : State.channel { s with pending := p } i = s.channel i := rfl
@[simp] theorem State.head_with_pending (p : List Instr) (i : HeadId) : State.head { s with pending := p } i = s.head i := rfl
@[simp] theorem State.tag_with_pending (p : List Instr) (i : TagNo) : State.tag { s with pending := p } i = s.tag i := rfl
@[simp] theorem State.notice_with_pending (p : List Instr) (i : ClientId) : State.notice { s with pending := p } i = s.notice i := rfl

/-! ### Records past a replaced tag table -/

@[simp] theorem State.window_with_tags (ts : Vector Tag 16) (i : WindowId) : State.window { s with tags := ts } i = s.window i := rfl
@[simp] theorem State.client_with_tags (ts : Vector Tag 16) (i : ClientId) : State.client { s with tags := ts } i = s.client i := rfl
@[simp] theorem State.channel_with_tags (ts : Vector Tag 16) (i : ClientId) : State.channel { s with tags := ts } i = s.channel i := rfl
@[simp] theorem State.head_with_tags (ts : Vector Tag 16) (i : HeadId) : State.head { s with tags := ts } i = s.head i := rfl
@[simp] theorem State.notice_with_tags (ts : Vector Tag 16) (i : ClientId) : State.notice { s with tags := ts } i = s.notice i := rfl

/-- Two states are equal when all their records and plain fields are. -/
theorem State.ext_records {s u : State} (hr : s.resetHeld = u.resetHeld) (hp : s.pointer = u.pointer)
    (hl : s.lastServed = u.lastServed) (hd : s.readData = u.readData) (hn : s.raceDraws = u.raceDraws)
    (hq : s.pending = u.pending) (hc : ∀ i, s.channel i = u.channel i) (hk : ∀ i, s.client i = u.client i)
    (hw : ∀ i, s.window i = u.window i) (hh : ∀ i, s.head i = u.head i) (ht : ∀ i, s.tag i = u.tag i)
    (ho : ∀ i, s.notice i = u.notice i) : s = u := by
  cases s; cases u
  simp only [State.channel, State.client, State.window, State.head, State.tag, State.notice,
    Fin.getElem_fin] at *
  simp only [State.mk.injEq]
  exact ⟨hr, Vector.ext fun i hi => hc ⟨i, hi⟩, hp, Vector.ext fun i hi => hk ⟨i, hi⟩,
    Vector.ext fun i hi => hw ⟨i, hi⟩, Vector.ext fun i hi => hh ⟨i, hi⟩, Vector.ext fun i hi => ht ⟨i, hi⟩,
    hl, Vector.ext fun i hi => ho ⟨i, hi⟩, hd, hn, hq⟩

end Sys2Proof.Machine
end

