-- ==== Sys2Proof/Laws/Ops.lean ====
section
/-! SUPPORT. What each named operation of Machine/Ops.lean can do, said once: which record it changes and
what it leaves. Later proofs cite these and do not unfold the operations. -/

namespace Sys2Proof.Machine

/-! ### What the internal operations never touch

Notices, held counts, references, tags and slots are changed by the operations of Ops.lean; the host's side
of the part (channels, pointer, pins) and the queue of commands never are. -/

/-- The channels and the plain fields of `s'` are those of `s`. -/
structure KeepsHost (s s' : State) : Prop where
  channels   : s'.channels = s.channels
  resetHeld  : s'.resetHeld = s.resetHeld
  pointer    : s'.pointer = s.pointer
  lastServed : s'.lastServed = s.lastServed
  readData   : s'.readData = s.readData
  raceDraws  : s'.raceDraws = s.raceDraws
  pending    : s'.pending = s.pending

theorem KeepsHost.refl (s : State) : KeepsHost s s := ⟨rfl, rfl, rfl, rfl, rfl, rfl, rfl⟩

theorem KeepsHost.trans {a b c : State} (h : KeepsHost a b) (g : KeepsHost b c) : KeepsHost a c :=
  ⟨g.1.trans h.1, g.2.trans h.2, g.3.trans h.3, g.4.trans h.4, g.5.trans h.5, g.6.trans h.6, g.7.trans h.7⟩

theorem KeepsHost.channel {s s' : State} (h : KeepsHost s s') (c : ClientId) : s'.channel c = s.channel c := by
  simp only [State.channel, h.channels]

/-- A fold of operations that keep the host's side keeps it. -/
theorem KeepsHost.foldl {α : Type} (f : State → α → State) (hf : ∀ s a, KeepsHost s (f s a)) (l : List α)
    (s : State) : KeepsHost s (l.foldl f s) := by
  induction l generalizing s with
  | nil => exact .refl s
  | cons a l ih => exact (hf s a).trans (ih (f s a))

section
variable (s : State)

theorem setWindow_keepsHost (w : WindowId) (v : Window) : KeepsHost s (s.setWindow w v) := ⟨rfl, rfl, rfl, rfl, rfl, rfl, rfl⟩
theorem setClient_keepsHost (c : ClientId) (v : Client) : KeepsHost s (s.setClient c v) := ⟨rfl, rfl, rfl, rfl, rfl, rfl, rfl⟩
theorem setHead_keepsHost (h : HeadId) (v : Head) : KeepsHost s (s.setHead h v) := ⟨rfl, rfl, rfl, rfl, rfl, rfl, rfl⟩
theorem setTag_keepsHost (t : TagNo) (v : Tag) : KeepsHost s (s.setTag t v) := ⟨rfl, rfl, rfl, rfl, rfl, rfl, rfl⟩
theorem setNotice_keepsHost (c : ClientId) (v : NoticeRecord) : KeepsHost s (s.setNotice c v) := ⟨rfl, rfl, rfl, rfl, rfl, rfl, rfl⟩
theorem notify_keepsHost (c : ClientId) (n : Notice) : KeepsHost s (notify c n s) := setNotice_keepsHost s _ _
theorem dequeue_keepsHost (c : ClientId) (h : HeadId) : KeepsHost s (dequeue c h s) := setHead_keepsHost s _ _

theorem notifyOwner_keepsHost (w : WindowId) (n : Notice) : KeepsHost s (notifyOwner w n s) := by
  unfold notifyOwner
  split
  · exact notify_keepsHost s _ _
  · exact .refl s

theorem notifyOwners_keepsHost (mk : WindowId → Notice) (ws : List WindowId) :
    KeepsHost s (notifyOwners mk ws s) :=
  KeepsHost.foldl _ (fun s w => notifyOwner_keepsHost s w (mk w)) ws s

theorem enterClosed_keepsHost (c : ClientId) : KeepsHost s (enterClosed c s) := ⟨rfl, rfl, rfl, rfl, rfl, rfl, rfl⟩

theorem dropHeld_keepsHost (c : ClientId) : KeepsHost s (dropHeld c s) := by
  unfold dropHeld
  simp only []
  split
  · exact (setClient_keepsHost s _ _).trans (enterClosed_keepsHost _ _)
  · exact setClient_keepsHost s _ _

theorem freeWindow_keepsHost (w : WindowId) : KeepsHost s (freeWindow w s) := by
  unfold freeWindow
  split
  · exact .refl s
  · exact (setWindow_keepsHost s _ _).trans (dropHeld_keepsHost _ _)
  · exact (setWindow_keepsHost s _ _).trans ((notify_keepsHost _ _ _).trans (dropHeld_keepsHost _ _))
  · exact (setWindow_keepsHost s _ _).trans ((notify_keepsHost _ _ _).trans (dropHeld_keepsHost _ _))

theorem addRef_keepsHost (w : WindowId) : KeepsHost s (addRef w s) := setWindow_keepsHost s _ _
theorem addRefs_keepsHost (ws : List WindowId) : KeepsHost s (addRefs ws s) :=
  KeepsHost.foldl _ (fun s w => addRef_keepsHost s w) ws s

theorem releaseRef_keepsHost (w : WindowId) : KeepsHost s (releaseRef w s) := by
  unfold releaseRef
  simp only []
  split
  · exact (setWindow_keepsHost s _ _).trans (freeWindow_keepsHost _ _)
  · exact setWindow_keepsHost s _ _

theorem releaseRefs_keepsHost (ws : List WindowId) : KeepsHost s (releaseRefs ws s) :=
  KeepsHost.foldl _ (fun s w => releaseRef_keepsHost s w) ws s

theorem staleTags_keepsHost (p : Tag → Bool) : KeepsHost s (staleTags p s) := by
  constructor <;> simp only [staleTags]

theorem freeTag_keepsHost (t : TagNo) : KeepsHost s (freeTag t s) :=
  (setTag_keepsHost s _ _).trans (releaseRef_keepsHost _ _)

theorem setSlot_keepsHost (h : HeadId) (k : SlotNo) (v : Slot) (next : Option Pos) :
    KeepsHost s (setSlot h k v next s) := setHead_keepsHost s _ _

theorem emptySlot_keepsHost (h : HeadId) (k : SlotNo) : KeepsHost s (emptySlot h k s) :=
  (setSlot_keepsHost s _ _ _ _).trans ((staleTags_keepsHost _ _).trans (releaseRefs_keepsHost _ _))

theorem emptySlots_keepsHost (h : HeadId) : KeepsHost s (emptySlots h s) :=
  KeepsHost.foldl _ (fun s k => emptySlot_keepsHost s h k) allSlots s
end

/-! ### Notices -/

section
variable (s : State) (c : ClientId) (n : Notice)

/-- R152: the setting changes the record of its client alone. -/
theorem notify_notice (x : ClientId) : (notify c n s).notice x = if c = x then (s.notice c).set n else s.notice x := by
  simp only [notify, State.notice_setNotice]

@[simp] theorem notify_window (w : WindowId) : (notify c n s).window w = s.window w := rfl
@[simp] theorem notify_client (x : ClientId) : (notify c n s).client x = s.client x := rfl
@[simp] theorem notify_head (h : HeadId) : (notify c n s).head h = s.head h := rfl
@[simp] theorem notify_tag (t : TagNo) : (notify c n s).tag t = s.tag t := rfl

@[simp] theorem notifyOwner_window (v w : WindowId) : (notifyOwner v n s).window w = s.window w := by
  unfold notifyOwner; split <;> rfl
@[simp] theorem notifyOwner_client (v : WindowId) (x : ClientId) : (notifyOwner v n s).client x = s.client x := by
  unfold notifyOwner; split <;> rfl
@[simp] theorem notifyOwner_head (v : WindowId) (h : HeadId) : (notifyOwner v n s).head h = s.head h := by
  unfold notifyOwner; split <;> rfl
@[simp] theorem notifyOwner_tag (v : WindowId) (t : TagNo) : (notifyOwner v n s).tag t = s.tag t := by
  unfold notifyOwner; split <;> rfl
end

section
variable (mk : WindowId → Notice) (ws : List WindowId) (s : State)

@[simp] theorem notifyOwners_window (w : WindowId) : (notifyOwners mk ws s).window w = s.window w := by
  induction ws generalizing s with
  | nil => rfl
  | cons v vs ih => exact (ih _).trans (notifyOwner_window s _ v w)
@[simp] theorem notifyOwners_client (x : ClientId) : (notifyOwners mk ws s).client x = s.client x := by
  induction ws generalizing s with
  | nil => rfl
  | cons v vs ih => exact (ih _).trans (notifyOwner_client s _ v x)
@[simp] theorem notifyOwners_head (h : HeadId) : (notifyOwners mk ws s).head h = s.head h := by
  induction ws generalizing s with
  | nil => rfl
  | cons v vs ih => exact (ih _).trans (notifyOwner_head s _ v h)
@[simp] theorem notifyOwners_tag (t : TagNo) : (notifyOwners mk ws s).tag t = s.tag t := by
  induction ws generalizing s with
  | nil => rfl
  | cons v vs ih => exact (ih _).trans (notifyOwner_tag s _ v t)
end

/-! ### Entry to CLOSED (R144) and entry to FREE (R11) -/

section
variable (s : State) (c : ClientId)

theorem enterClosed_client (x : ClientId) :
    (enterClosed c s).client x = if c = x then Client.closedRecord else s.client x := by
  show (s.setClient c Client.closedRecord).client x = _
  rw [State.client_setClient]

/-- R45: the client leaves both Commit Queues; nothing else of a head changes. -/
theorem enterClosed_head (h : HeadId) :
    (enterClosed c s).head h = { s.head h with commitQueue := (s.head h).commitQueue.filter (· ≠ c) } := by
  show (dequeue c 1 (dequeue c 0 (s.setClient c _))).head h = _
  simp only [dequeue, State.head_setHead, State.head_setClient]
  fin_cases h <;> rfl

@[simp] theorem enterClosed_window (w : WindowId) : (enterClosed c s).window w = s.window w := rfl
@[simp] theorem enterClosed_tag (t : TagNo) : (enterClosed c s).tag t = s.tag t := rfl

theorem enterClosed_notice (x : ClientId) :
    (enterClosed c s).notice x =
      if x = 0 then ((if c = 0 then NoticeRecord.cleared else s.notice 0).set (.clientClosed c))
      else if x = c then NoticeRecord.cleared else s.notice x := by
  show (notify 0 (.clientClosed c) ((dequeue c 1 (dequeue c 0 (s.setClient c _))).setNotice c _)).notice x = _
  rw [notify_notice]
  by_cases hx : x = 0
  · subst hx
    by_cases hc : c = 0
    · subst hc; simp [dequeue]
    · simp [hc, dequeue]
  · rw [if_neg (Ne.symm hx), if_neg hx, State.notice_setNotice]
    by_cases hc : x = c
    · subst hc; simp
    · rw [if_neg (Ne.symm hc), if_neg hc]; simp [dequeue]

/-- R11, R18, R144: the two things a fall of the held count can do. -/
theorem dropHeld_cases :
    ((s.client c).state = .closing ∧ (s.client c).held - 1 = 0 ∧
      dropHeld c s = enterClosed c (s.setClient c { s.client c with held := (s.client c).held - 1 })) ∨
    (¬ ((s.client c).state = .closing ∧ (s.client c).held - 1 = 0) ∧
      dropHeld c s = s.setClient c { s.client c with held := (s.client c).held - 1 }) := by
  unfold dropHeld
  simp only []
  split
  · next h => exact .inl ⟨h.1, h.2, rfl⟩
  · next h => exact .inr ⟨h, rfl⟩

theorem dropHeld_client_of_ne {x : ClientId} (hne : c ≠ x) : (dropHeld c s).client x = s.client x := by
  rcases dropHeld_cases s c with ⟨-, -, h⟩ | ⟨-, h⟩ <;> rw [h]
  · rw [enterClosed_client, if_neg hne, State.client_setClient_of_ne s hne]
  · rw [State.client_setClient_of_ne s hne]

@[simp] theorem dropHeld_window (w : WindowId) : (dropHeld c s).window w = s.window w := by
  rcases dropHeld_cases s c with ⟨-, -, h⟩ | ⟨-, h⟩ <;> rw [h] <;> rfl

@[simp] theorem dropHeld_tag (t : TagNo) : (dropHeld c s).tag t = s.tag t := by
  rcases dropHeld_cases s c with ⟨-, -, h⟩ | ⟨-, h⟩ <;> rw [h] <;> rfl

/-- R45: of a head, a fall of the held count changes at most the Commit Queue. -/
theorem dropHeld_head (h : HeadId) :
    (dropHeld c s).head h = s.head h ∨
    (dropHeld c s).head h = { s.head h with commitQueue := (s.head h).commitQueue.filter (· ≠ c) } := by
  rcases dropHeld_cases s c with ⟨-, -, e⟩ | ⟨-, e⟩ <;> rw [e]
  · right; rw [enterClosed_head]; rfl
  · left; rfl
end

section
variable (s : State) (w : WindowId)

/-- R11: the record of a window that enters FREE; its references are not the entry's to change. -/
theorem freeWindow_window (x : WindowId) :
    (freeWindow w s).window x = if w = x then { s.window w with life := .free } else s.window x := by
  unfold freeWindow
  split
  · next h =>
    split
    · next e => subst e; cases hv : s.window w; simp_all
    · rfl
  · rw [dropHeld_window, State.window_setWindow]
  · rw [dropHeld_window, notify_window, State.window_setWindow]
  · rw [dropHeld_window, notify_window, State.window_setWindow]

@[simp] theorem freeWindow_tag (t : TagNo) : (freeWindow w s).tag t = s.tag t := by
  unfold freeWindow; split <;> simp

/-- R45: of a head, an entry to FREE changes at most the Commit Queue, which loses clients and no order. -/
theorem freeWindow_head (h : HeadId) :
    ∃ q, q.Sublist (s.head h).commitQueue ∧ (freeWindow w s).head h = { s.head h with commitQueue := q } := by
  have drop : ∀ (u : State) (c : ClientId), u.head h = s.head h →
      ∃ q, q.Sublist (s.head h).commitQueue ∧ (dropHeld c u).head h = { s.head h with commitQueue := q } := by
    intro u c hu
    rcases dropHeld_head u c h with e | e <;> rw [e, hu]
    · exact ⟨_, List.Sublist.refl _, rfl⟩
    · exact ⟨_, List.filter_sublist, rfl⟩
  unfold freeWindow
  split
  · exact ⟨_, List.Sublist.refl _, rfl⟩
  · exact drop _ _ rfl
  · exact drop _ _ rfl
  · exact drop _ _ rfl
end

/-! ### References (R15, R16, R13) -/

section
variable (s : State)

theorem addRef_window (w x : WindowId) :
    (addRef w s).window x = if w = x then { s.window w with refs := (s.window w).refs + 1 } else s.window x := by
  rw [addRef, State.window_setWindow]

/-- The references after one more for each window of a list. -/
theorem addRefs_refs (ws : List WindowId) (x : WindowId) :
    ((addRefs ws s).window x).refs = (s.window x).refs + ws.count x := by
  induction ws generalizing s with
  | nil => rfl
  | cons v vs ih =>
    show ((addRefs vs (addRef v s)).window x).refs = _
    rw [ih, addRef_window, List.count_cons]
    by_cases h : v = x
    · subst h; simp; omega
    · simp [h]

@[simp] theorem addRefs_life (ws : List WindowId) (x : WindowId) :
    ((addRefs ws s).window x).life = (s.window x).life := by
  induction ws generalizing s with
  | nil => rfl
  | cons v vs ih =>
    show ((addRefs vs (addRef v s)).window x).life = _
    rw [ih, addRef_window]
    split
    · next h => subst h; rfl
    · rfl

@[simp] theorem addRefs_client (ws : List WindowId) (c : ClientId) : (addRefs ws s).client c = s.client c := by
  induction ws generalizing s with
  | nil => rfl
  | cons v vs ih => exact (ih _).trans rfl
@[simp] theorem addRefs_head (ws : List WindowId) (h : HeadId) : (addRefs ws s).head h = s.head h := by
  induction ws generalizing s with
  | nil => rfl
  | cons v vs ih => exact (ih _).trans rfl
@[simp] theorem addRefs_tag (ws : List WindowId) (t : TagNo) : (addRefs ws s).tag t = s.tag t := by
  induction ws generalizing s with
  | nil => rfl
  | cons v vs ih => exact (ih _).trans rfl
@[simp] theorem addRefs_notice (ws : List WindowId) (c : ClientId) : (addRefs ws s).notice c = s.notice c := by
  induction ws generalizing s with
  | nil => rfl
  | cons v vs ih => exact (ih _).trans rfl

/-- R16, R13: the two things a release can do. -/
theorem releaseRef_cases (w : WindowId) :
    ((s.window w).life.isRetiring = true ∧ (s.window w).refs - 1 = 0 ∧
      releaseRef w s = freeWindow w (s.setWindow w { s.window w with refs := (s.window w).refs - 1 })) ∨
    (¬ ((s.window w).life.isRetiring = true ∧ (s.window w).refs - 1 = 0) ∧
      releaseRef w s = s.setWindow w { s.window w with refs := (s.window w).refs - 1 }) := by
  unfold releaseRef
  simp only []
  split
  · next h => exact .inl ⟨h.1, h.2, rfl⟩
  · next h => exact .inr ⟨h, rfl⟩

/-- R16, R13: the window records after a release. -/
theorem releaseRef_window (w x : WindowId) :
    (releaseRef w s).window x =
      if w = x then
        { life := if (s.window w).life.isRetiring ∧ (s.window w).refs - 1 = 0 then .free else (s.window w).life
          refs := (s.window w).refs - 1 }
      else s.window x := by
  rcases releaseRef_cases s w with ⟨h1, h2, h⟩ | ⟨h1, h⟩ <;> rw [h]
  · rw [freeWindow_window]
    split
    · simp [h1, h2]
    · next e => rw [State.window_setWindow_of_ne s e]
  · rw [State.window_setWindow, if_neg h1]

@[simp] theorem releaseRef_tag (w : WindowId) (t : TagNo) : (releaseRef w s).tag t = s.tag t := by
  rcases releaseRef_cases s w with ⟨-, -, h⟩ | ⟨-, h⟩ <;> rw [h] <;> simp

/-- R45: of a head, a release changes at most the Commit Queue. -/
theorem releaseRef_head (w : WindowId) (h : HeadId) :
    ∃ q, q.Sublist (s.head h).commitQueue ∧ (releaseRef w s).head h = { s.head h with commitQueue := q } := by
  rcases releaseRef_cases s w with ⟨-, -, e⟩ | ⟨-, e⟩ <;> rw [e]
  · exact freeWindow_head (s.setWindow w _) w h
  · exact ⟨_, List.Sublist.refl _, rfl⟩

/-- R84: of a head, the releases of one step change at most the Commit Queue. -/
theorem releaseRefs_head (ws : List WindowId) (h : HeadId) :
    ∃ q, q.Sublist (s.head h).commitQueue ∧ (releaseRefs ws s).head h = { s.head h with commitQueue := q } := by
  induction ws generalizing s with
  | nil => exact ⟨_, List.Sublist.refl _, rfl⟩
  | cons v vs ih =>
    obtain ⟨q, hq, e⟩ := releaseRef_head s v h
    obtain ⟨r, hr, f⟩ := ih (releaseRef v s)
    refine ⟨r, ?_, ?_⟩
    · rw [e] at hr; exact hr.trans hq
    · show (releaseRefs vs (releaseRef v s)).head h = _
      rw [f, e]

@[simp] theorem releaseRefs_tag (ws : List WindowId) (t : TagNo) : (releaseRefs ws s).tag t = s.tag t := by
  induction ws generalizing s with
  | nil => rfl
  | cons v vs ih => exact (ih _).trans (releaseRef_tag s v t)

/-- R16: the references after the releases of one step. -/
theorem releaseRefs_refs (ws : List WindowId) (x : WindowId) :
    ((releaseRefs ws s).window x).refs = (s.window x).refs - ws.count x := by
  induction ws generalizing s with
  | nil => rfl
  | cons v vs ih =>
    show ((releaseRefs vs (releaseRef v s)).window x).refs = _
    rw [ih, releaseRef_window, List.count_cons]
    by_cases h : v = x
    · subst h; simp; omega
    · simp [h]

/-- R13: a window that is not RETIRING keeps its life over releases. -/
theorem releaseRefs_life (ws : List WindowId) (x : WindowId) (hx : (s.window x).life.isRetiring = false) :
    ((releaseRefs ws s).window x).life = (s.window x).life := by
  induction ws generalizing s with
  | nil => rfl
  | cons v vs ih =>
    have key : ((releaseRef v s).window x).life = (s.window x).life := by
      rw [releaseRef_window]
      split
      · next h => subst h; simp [hx]
      · rfl
    show ((releaseRefs vs (releaseRef v s)).window x).life = _
    rw [ih (releaseRef v s) (by rw [key]; exact hx), key]
end

/-! ### Tags and slots -/

section
variable (s : State)

/-- R105: what STALE-making leaves of a tag. -/
theorem staleTags_tag (p : Tag → Bool) (t : TagNo) :
    (staleTags p s).tag t = if (s.tag t).state = .active ∧ p (s.tag t) then { s.tag t with state := .stale } else s.tag t := by
  simp only [State.tag, staleTags, Fin.getElem_fin, Vector.getElem_ofFn]
  rfl

@[simp] theorem staleTags_window (p : Tag → Bool) (w : WindowId) : (staleTags p s).window w = s.window w := rfl
@[simp] theorem staleTags_client (p : Tag → Bool) (c : ClientId) : (staleTags p s).client c = s.client c := rfl
@[simp] theorem staleTags_head (p : Tag → Bool) (h : HeadId) : (staleTags p s).head h = s.head h := rfl
@[simp] theorem staleTags_notice (p : Tag → Bool) (c : ClientId) : (staleTags p s).notice c = s.notice c := rfl

/-- R16: the tags after one is freed. -/
theorem freeTag_tag (t x : TagNo) :
    (freeTag t s).tag x = if t = x then { s.tag t with state := .free } else s.tag x := by
  rw [freeTag, releaseRef_tag, State.tag_setTag]

theorem setSlot_head (h : HeadId) (k : SlotNo) (v : Slot) (next : Option Pos) (x : HeadId) :
    (setSlot h k v next s).head x =
      if h = x then { s.head h with slots := (s.head h).slots.set k v, cursor := (s.head h).cursor.set k next }
      else s.head x := by
  rw [setSlot, State.head_setHead]

/-- R84: of its head, emptying a slot changes that slot, its place in the cursor, and at most the Commit
Queue. -/
theorem emptySlot_head_self (h : HeadId) (k : SlotNo) :
    ∃ q, q.Sublist (s.head h).commitQueue ∧ (emptySlot h k s).head h =
      { s.head h with slots := (s.head h).slots.set k .empty, cursor := (s.head h).cursor.set k none, commitQueue := q } := by
  obtain ⟨q, hq, e⟩ := releaseRefs_head
    (staleTags (fun t => t.head == h && t.slot == k) (setSlot h k .empty none s)) ((s.head h).slots[k].references) h
  rw [staleTags_head, setSlot_head, if_pos rfl] at hq e
  exact ⟨q, hq, e⟩

/-- R84: of the other head, emptying a slot changes at most the Commit Queue. -/
theorem emptySlot_head_of_ne {h x : HeadId} (hne : h ≠ x) (k : SlotNo) :
    ∃ q, q.Sublist (s.head x).commitQueue ∧ (emptySlot h k s).head x = { s.head x with commitQueue := q } := by
  obtain ⟨q, hq, e⟩ := releaseRefs_head
    (staleTags (fun t => t.head == h && t.slot == k) (setSlot h k .empty none s)) ((s.head h).slots[k].references) x
  rw [staleTags_head, setSlot_head, if_neg hne] at hq e
  exact ⟨q, hq, e⟩

/-- R105: the tags after a slot is emptied. -/
theorem emptySlot_tag (h : HeadId) (k : SlotNo) (t : TagNo) :
    (emptySlot h k s).tag t =
      if (s.tag t).state = .active ∧ (s.tag t).head = h ∧ (s.tag t).slot = k then { s.tag t with state := .stale }
      else s.tag t := by
  unfold emptySlot
  simp only [releaseRefs_tag, staleTags_tag]
  simp [setSlot]

/-- The slot that is found for a line holds that line. -/
theorem slotOfLine_some {hd : Head} {n : Nat} {k : SlotNo} (h : slotOfLine hd n = some k) :
    hd.slots[k].line? = some n := by
  have := List.find?_some h
  simpa using this
end

end Sys2Proof.Machine
end

