-- ==== Sys2Proof/Laws/Apply.lean ====
section
/-! SUPPORT. What the apply (R35 to R39) can do, part by part. -/

namespace Sys2Proof.Machine

section
variable (s : State)

/-- R36, R37: the four things the processing of one window can do. -/
theorem processWindow_cases (w : WindowId) :
    (∃ hd, (s.window w).life = .reserved hd ∧
      processWindow w s = s.setWindow w { s.window w with life := .live hd hd.staged.image none }) ∨
    (∃ hd img f, (s.window w).life = .live hd img f ∧ hd.staged.retirePending = false ∧
      processWindow w s = s.setWindow w { s.window w with life := .live hd hd.staged.image none }) ∨
    (∃ hd img f, (s.window w).life = .live hd img f ∧ hd.staged.retirePending = true ∧ (s.window w).refs ≠ 0 ∧
      processWindow w s = s.setWindow w { s.window w with life := .retiring hd img f }) ∨
    (∃ hd img f, (s.window w).life = .live hd img f ∧ hd.staged.retirePending = true ∧ (s.window w).refs = 0 ∧
      processWindow w s = freeWindow w s) ∨
    (((s.window w).life = .free ∨ ∃ hd img f, (s.window w).life = .retiring hd img f) ∧ processWindow w s = s) := by
  unfold processWindow
  cases hl : (s.window w).life with
  | free => simp [hl]
  | reserved hd => simp [hl]
  | live hd img f =>
    cases hp : hd.staged.retirePending with
    | false => simp [hl, hp]
    | true =>
      by_cases hr : (s.window w).refs = 0
      · simp [hl, hp, hr]
      · simp [hl, hp, hr]
  | retiring hd img f => simp [hl]

theorem processWindow_keepsHost (w : WindowId) : KeepsHost s (processWindow w s) := by
  rcases processWindow_cases s w with ⟨hd, -, e⟩ | ⟨hd, img, f, -, -, e⟩ | ⟨hd, img, f, -, -, -, e⟩ |
    ⟨hd, img, f, -, -, -, e⟩ | ⟨-, e⟩ <;> rw [e]
  · exact setWindow_keepsHost s _ _
  · exact setWindow_keepsHost s _ _
  · exact setWindow_keepsHost s _ _
  · exact freeWindow_keepsHost s w
  · exact .refl s

@[simp] theorem processWindow_tag (w : WindowId) (t : TagNo) : (processWindow w s).tag t = s.tag t := by
  rcases processWindow_cases s w with ⟨hd, -, e⟩ | ⟨hd, img, f, -, -, e⟩ | ⟨hd, img, f, -, -, -, e⟩ |
    ⟨hd, img, f, -, -, -, e⟩ | ⟨-, e⟩ <;> rw [e] <;> simp

/-- Processing one window touches no other window record. -/
theorem processWindow_window_of_ne {w x : WindowId} (hne : w ≠ x) : (processWindow w s).window x = s.window x := by
  rcases processWindow_cases s w with ⟨hd, -, e⟩ | ⟨hd, img, f, -, -, e⟩ | ⟨hd, img, f, -, -, -, e⟩ |
    ⟨hd, img, f, -, -, -, e⟩ | ⟨-, e⟩ <;> rw [e]
  · rw [State.window_setWindow_of_ne s hne]
  · rw [State.window_setWindow_of_ne s hne]
  · rw [State.window_setWindow_of_ne s hne]
  · rw [freeWindow_window, if_neg hne]

/-- R36: the references of a window are unchanged by an apply. -/
theorem processWindow_refs (w x : WindowId) : ((processWindow w s).window x).refs = (s.window x).refs := by
  by_cases hne : w = x
  · subst hne
    rcases processWindow_cases s w with ⟨hd, -, e⟩ | ⟨hd, img, f, -, -, e⟩ | ⟨hd, img, f, -, -, -, e⟩ |
      ⟨hd, img, f, -, -, -, e⟩ | ⟨-, e⟩ <;> rw [e]
    · simp
    · simp
    · simp
    · rw [freeWindow_window, if_pos rfl]
  · rw [processWindow_window_of_ne s hne]

/-- R45: of a head, processing a window changes at most the Commit Queue. -/
theorem processWindow_head (w : WindowId) (h : HeadId) :
    ∃ q, q.Sublist (s.head h).commitQueue ∧ (processWindow w s).head h = { s.head h with commitQueue := q } := by
  rcases processWindow_cases s w with ⟨hd, -, e⟩ | ⟨hd, img, f, -, -, e⟩ | ⟨hd, img, f, -, -, -, e⟩ |
    ⟨hd, img, f, -, -, -, e⟩ | ⟨-, e⟩ <;> rw [e]
  · exact ⟨_, List.Sublist.refl _, rfl⟩
  · exact ⟨_, List.Sublist.refl _, rfl⟩
  · exact ⟨_, List.Sublist.refl _, rfl⟩
  · exact freeWindow_head s w h
  · exact ⟨_, List.Sublist.refl _, rfl⟩

theorem applyClient_keepsHost (h : HeadId) (c : ClientId) : KeepsHost s (applyClient h s c) :=
  KeepsHost.foldl _ (fun s w => by
    split
    · exact processWindow_keepsHost s w
    · exact .refl s) allWindows s

/-- R36: the references of every window are unchanged when a client is applied. -/
theorem applyClient_refs (h : HeadId) (c : ClientId) (x : WindowId) :
    ((applyClient h s c).window x).refs = (s.window x).refs := by
  unfold applyClient
  generalize allWindows = l
  induction l generalizing s with
  | nil => rfl
  | cons w ws ih =>
    simp only [List.foldl_cons]
    rw [ih]
    split
    · exact processWindow_refs s w x
    · rfl

@[simp] theorem applyClient_tag (h : HeadId) (c : ClientId) (t : TagNo) : (applyClient h s c).tag t = s.tag t := by
  unfold applyClient
  generalize allWindows = l
  induction l generalizing s with
  | nil => rfl
  | cons w ws ih =>
    simp only [List.foldl_cons]
    rw [ih]
    split
    · exact processWindow_tag s w t
    · rfl

theorem rebuildDepthList_keepsHost (h : HeadId) : KeepsHost s (rebuildDepthList h s) := setHead_keepsHost s _ _

@[simp] theorem rebuildDepthList_window (h : HeadId) (w : WindowId) : (rebuildDepthList h s).window w = s.window w := rfl

theorem setCommitted_keepsHost (h : HeadId) (c : ClientId) : KeepsHost s (setCommitted h s c) := by
  unfold setCommitted
  split
  · exact .refl s
  · exact notify_keepsHost s _ _

@[simp] theorem setCommitted_window (h : HeadId) (c : ClientId) (w : WindowId) :
    (setCommitted h s c).window w = s.window w := by
  unfold setCommitted; split <;> rfl

@[simp] theorem setCommitted_head (h x : HeadId) (c : ClientId) : (setCommitted h s c).head x = s.head x := by
  unfold setCommitted; split <;> rfl

theorem applyClients_keepsHost (h : HeadId) (cs : List ClientId) : KeepsHost s (applyClients h cs s) := by
  unfold applyClients
  simp only []
  refine ((KeepsHost.foldl _ (fun s c => applyClient_keepsHost s h c) cs s).trans ?_).trans
    (KeepsHost.foldl _ (fun s c => setCommitted_keepsHost s h c) cs _)
  split
  · exact rebuildDepthList_keepsHost _ h
  · exact .refl _

theorem applyQueue_keepsHost (h : HeadId) : KeepsHost s (applyQueue h s) := by
  unfold applyQueue
  split
  · exact .refl s
  · exact (applyClients_keepsHost s h _).trans (setHead_keepsHost _ _ _)

/-- R35: the queue is empty after it is applied. -/
theorem applyQueue_queue (h : HeadId) : ((applyQueue h s).head h).commitQueue = [] := by
  unfold applyQueue
  split
  · next e => exact e
  · simp only [State.head_setHead_self]
end

end Sys2Proof.Machine
end

