-- ==== Sys2Proof/Laws/Closing.lean ====
section
/-! SUPPORT. R45 and R144 over the releases of one step: which clients become CLOSED, and that just these leave the
Commit Queues (HeadKept of Safety.lean). -/

namespace Sys2Proof.Machine

/-- From `s` to `u` only CLOSING clients have become CLOSED, and each head is unchanged but for their leaving its
Commit Queue. -/
structure QueuesFollow (s u : State) : Prop where
  states : ∀ c, (u.client c).state = (s.client c).state ∨
    ((s.client c).state = .closing ∧ (u.client c).state = .closed)
  heads  : ∀ h, HeadKept s u h

/-- A step that changes no client state and no head. -/
theorem QueuesFollow.of_same {s u : State} (hc : ∀ c, (u.client c).state = (s.client c).state)
    (hh : ∀ h, u.head h = s.head h) : QueuesFollow s u := by
  refine ⟨fun c => .inl (hc c), fun h => ?_⟩
  have keep : queueLeft s u h = (s.head h).commitQueue := by
    apply List.filter_eq_self.mpr
    intro c _
    simp [Closes, hc]
  rw [HeadKept, keep, hh]

theorem QueuesFollow.refl (s : State) : QueuesFollow s s := .of_same (fun _ => rfl) (fun _ => rfl)

/-- A client that closes over two steps closes in one of them. -/
theorem QueuesFollow.closes_iff {s u v : State} (a : QueuesFollow s u) (b : QueuesFollow u v) (c : ClientId) :
    Closes s v c ↔ Closes s u c ∨ Closes u v c := by
  unfold Closes
  rcases a.states c with e | ⟨e, f⟩ <;> rcases b.states c with g | ⟨g, k⟩ <;> simp_all

theorem QueuesFollow.trans {s u v : State} (a : QueuesFollow s u) (b : QueuesFollow u v) : QueuesFollow s v := by
  refine ⟨fun c => ?_, fun h => ?_⟩
  · rcases a.states c with e | ⟨e, f⟩ <;> rcases b.states c with g | ⟨g, k⟩ <;> simp_all
  · have left : queueLeft u v h = queueLeft s v h := by
      have hq : (u.head h).commitQueue = queueLeft s u h := by rw [a.heads h]
      rw [queueLeft, hq, queueLeft, queueLeft, List.filter_filter]
      apply List.filter_congr
      intro c _
      simp [a.closes_iff b, Bool.and_comm]
    have hv : v.head h = { u.head h with commitQueue := queueLeft s v h } := by rw [← left]; exact b.heads h
    rw [HeadKept, hv, a.heads h]

/-- The same after a step that changes no client state and no head. -/
theorem QueuesFollow.after {s u v : State} (b : QueuesFollow u v) (hc : ∀ c, (u.client c).state = (s.client c).state)
    (hh : ∀ h, u.head h = s.head h) : QueuesFollow s v := (QueuesFollow.of_same hc hh).trans b

theorem QueuesFollow.foldl {α : Type} (f : State → α → State) (hf : ∀ s a, QueuesFollow s (f s a)) (l : List α)
    (s : State) : QueuesFollow s (l.foldl f s) := by
  induction l generalizing s with
  | nil => exact .refl s
  | cons a l ih => exact (hf s a).trans (ih (f s a))

section
variable (s : State)

/-- R144, R45: a CLOSING client that becomes CLOSED, whatever its held count. -/
theorem enterClosed_queuesFollow (c : ClientId) (v : Client) (h : (s.client c).state = .closing) :
    QueuesFollow s (enterClosed c (s.setClient c v)) := by
  refine ⟨fun x => ?_, fun y => ?_⟩
  · rw [enterClosed_client]
    split
    · next e => subst e; exact .inr ⟨h, rfl⟩
    · next e => rw [State.client_setClient_of_ne s e]; exact .inl rfl
  · have left : queueLeft s (enterClosed c (s.setClient c v)) y = (s.head y).commitQueue.filter (· ≠ c) := by
      apply List.filter_congr
      intro x _
      by_cases e : c = x
      · subst e
        simp [Closes, h, enterClosed_client, Client.closedRecord]
      · simp [Closes, enterClosed_client, State.client_setClient_of_ne s e, e, Ne.symm e]
    rw [HeadKept, enterClosed_head, left]
    rfl

/-- R18, R144: a fall of a held count. -/
theorem dropHeld_queuesFollow (c : ClientId) : QueuesFollow s (dropHeld c s) := by
  rcases dropHeld_cases s c with ⟨h, -, e⟩ | ⟨-, e⟩ <;> rw [e]
  · exact enterClosed_queuesFollow s c _ h
  · refine .of_same (fun x => ?_) (fun _ => rfl)
    rw [State.client_setClient]
    split
    · next e => subst e; rfl
    · rfl

/-- R11: an entry to FREE. -/
theorem freeWindow_queuesFollow (w : WindowId) : QueuesFollow s (freeWindow w s) := by
  unfold freeWindow
  split
  · exact .refl s
  all_goals exact (dropHeld_queuesFollow _ _).after (fun _ => rfl) (fun _ => rfl)

/-- R13: a release. -/
theorem releaseRef_queuesFollow (w : WindowId) : QueuesFollow s (releaseRef w s) := by
  rcases releaseRef_cases s w with ⟨-, -, e⟩ | ⟨-, e⟩ <;> rw [e]
  · exact (freeWindow_queuesFollow _ _).after (fun _ => rfl) (fun _ => rfl)
  · exact .of_same (fun _ => rfl) (fun _ => rfl)

/-- R84: the releases of one step. -/
theorem releaseRefs_queuesFollow (ws : List WindowId) : QueuesFollow s (releaseRefs ws s) :=
  .foldl _ (fun s w => releaseRef_queuesFollow s w) ws s
end

end Sys2Proof.Machine
end

