-- ==== Sys2Proof/Laws/Engine.lean ====
section
/-! SUPPORT. A step of the Command Engine (R169 to R173) as its parts: the message consumed, the body, the
answer. -/

namespace Sys2Proof.Machine

section
variable (t : Taken) (s : State)

@[simp] theorem consume_window (w : WindowId) : (consume t s).window w = s.window w := rfl
@[simp] theorem consume_client (c : ClientId) : (consume t s).client c = s.client c := rfl
@[simp] theorem consume_head (h : HeadId) : (consume t s).head h = s.head h := rfl
@[simp] theorem consume_tag (i : TagNo) : (consume t s).tag i = s.tag i := rfl
@[simp] theorem consume_notice (c : ClientId) : (consume t s).notice c = s.notice c := rfl

@[simp] theorem answered_window (r : Reply) (w : WindowId) : (answered t r s).window w = s.window w := rfl
@[simp] theorem answered_client (r : Reply) (c : ClientId) : (answered t r s).client c = s.client c := rfl
@[simp] theorem answered_head (r : Reply) (h : HeadId) : (answered t r s).head h = s.head h := rfl
@[simp] theorem answered_tag (r : Reply) (i : TagNo) : (answered t r s).tag i = s.tag i := rfl
@[simp] theorem answered_notice (r : Reply) (c : ClientId) : (answered t r s).notice c = s.notice c := rfl

/-- R170, R173: a message that is consumed and answered with no other effect. -/
theorem respond_consume (r : Reply) : respond t.client t.message r (consume t s) = answered t r s := by
  unfold respond consume answered State.setChannel State.channel
  simp

/-- R170: consuming and answering touch nothing a body changes: the answer can be placed before the body's
effects on the other tables. -/
theorem respond_of_channels (r : Reply) (u : State) (hc : u.channels = (consume t s).channels)
    (hp : u.pointer = t.client) :
    respond t.client t.message r u = answered t r { u with channels := s.channels, pointer := s.pointer } := by
  cases u
  simp only at hc hp
  subst hc hp
  unfold respond answered State.setChannel State.channel consume
  simp [State.setChannel, State.channel]

/-- R171: a message with the command's code and argument count runs the command's body. -/
theorem engineTake_of_takes {s : State} {code argc : Nat} {t : Taken} (h : Takes s code argc t) (body : Body) :
    engineTake code argc body s = takeMessage t body s := by
  obtain ⟨h1, h2, h3⟩ := h
  unfold engineTake
  simp only [h1, h2, if_true, takeMessage, checkedLength, h3]

/-- R173: a body that only answers. -/
theorem takeMessage_answer {body : Body} {r : Reply}
    (h : body t.client t.message.args (consume t s) = (consume t s, r)) :
    takeMessage t body s = answered t r s := by
  unfold takeMessage
  rw [h]
  exact respond_consume t s r

/-- R170: a body with an effect on other tables, and its answer. -/
theorem takeMessage_effect {body : Body} {r : Reply} {u : State}
    (h : body t.client t.message.args (consume t s) = (u, r)) (hc : u.channels = (consume t s).channels)
    (hp : u.pointer = t.client) :
    takeMessage t body s = answered t r { u with channels := s.channels, pointer := s.pointer } := by
  unfold takeMessage
  rw [h]
  exact respond_of_channels t s r u hc hp

/-- R171: a step of the engine for another command code, or with no eligible channel, does nothing. -/
theorem engineTake_of_not {s : State} {code argc : Nat} (body : Body)
    (h : ∀ t, s.nextMessage = some t → t.message.code ≠ code) : engineTake code argc body s = s := by
  unfold engineTake
  cases hn : s.nextMessage with
  | none => rfl
  | some t => simp [h t hn]

/-- R169: the client of a message the engine takes has an OPEN channel with this message at its head. -/
theorem nextMessage_eligible {s : State} {t : Taken} (h : s.nextMessage = some t) :
    (s.channel t.client).eligible? = some (t.message, t.rest) := by
  unfold State.nextMessage at h
  obtain ⟨c, -, hc⟩ := List.exists_of_findSome?_eq_some h
  cases he : (s.channel c).eligible? with
  | none => simp [he] at hc
  | some p => simp only [he, Option.some.injEq] at hc; subst hc; exact he

/-- R168: what eligibility says. -/
theorem eligible_spec {ch : Channel} {m : Message} {rest : List Word} (h : ch.eligible? = some (m, rest)) :
    ch.state = .opened ∧ ch.responses.length + 8 ≤ 16 ∧ frameMessage ch.commands = some (m, rest) := by
  unfold Channel.eligible? at h
  split at h
  · next hc => exact ⟨hc.1, hc.2, h⟩
  · exact nomatch h
end

end Sys2Proof.Machine
end

