-- ==== Sys2Proof/Laws/Fetch.lean ====
section
/-! SUPPORT. The segment bytes of a layer, the one addressed buffer of the part: every write keeps their
canonical form, a read after a write of the same offset gives what was written, and other offsets keep theirs. -/

namespace Sys2Proof.Machine

/-- The cells a write brings. -/
theorem written_cells (data : List Byte) (o : Nat) :
    ((data.zipIdx o).map (fun e => (e.2, e.1))).map Prod.fst = (List.range data.length).map (fun i => o + i) := by
  induction data generalizing o with
  | nil => rfl
  | cons b bs ih =>
    simp only [List.zipIdx_cons, List.map_cons, ih, List.length_cons, List.range_succ_eq_map, List.map_map]
    refine List.cons_eq_cons.mpr ⟨by simp, ?_⟩
    apply List.map_congr_left
    intro i _
    simp only [Function.comp_apply]
    omega

/-- Every offset of the cells a write brings lies in the range written. -/
theorem written_range {data : List Byte} {o : Nat} {c : Host.Cell}
    (h : c ∈ (data.zipIdx o).map (fun e => (e.2, e.1))) : o ≤ c.1 ∧ c.1 < o + data.length := by
  have : c.1 ∈ ((data.zipIdx o).map (fun e => (e.2, e.1))).map Prod.fst := List.mem_map_of_mem h
  rw [written_cells] at this
  obtain ⟨i, hi, e⟩ := List.mem_map.mp this
  rw [List.mem_range] at hi
  omega

/-- The cells a write brings are in rising order. -/
theorem written_rising (data : List Byte) (o : Nat) :
    ((data.zipIdx o).map (fun e => (e.2, e.1))).Pairwise (fun a b : Host.Cell => a.1 < b.1) := by
  rw [← List.pairwise_map (f := Prod.fst), written_cells, List.pairwise_map]
  exact List.pairwise_lt_range.imp (by intros; omega)

/-- R111: writing bytes into a segment keeps the offsets strictly rising. -/
theorem writeBytes_rising {bytes : List Host.Cell} (h : bytes.Pairwise (fun a b => a.1 < b.1)) (o : Nat)
    (data : List Byte) : (writeBytes bytes o data).Pairwise (fun a b => a.1 < b.1) := by
  unfold writeBytes
  rw [List.append_assoc, List.pairwise_append, List.pairwise_append]
  refine ⟨h.filter _, ⟨written_rising data o, h.filter _, ?_⟩, ?_⟩
  · intro a ha b hb
    have := written_range ha
    have := (List.mem_filter.mp hb).2
    simp only [decide_eq_true_eq] at this
    omega
  · intro a ha b hb
    have h1 := (List.mem_filter.mp ha).2
    simp only [decide_eq_true_eq] at h1
    rcases List.mem_append.mp hb with hb | hb
    · have := written_range hb; omega
    · have := (List.mem_filter.mp hb).2
      simp only [decide_eq_true_eq] at this
      omega

/-- R111: a layer that receives bytes keeps its segment bytes in canonical form. -/
theorem Layer.receive_bytesWf {l : Layer} (h : l.bytesWf = true) (sp : Span) (address : Nat) (data : List Byte) :
    (l.receive sp address data).bytesWf = true := by
  simp only [Layer.bytesWf, decide_eq_true_eq] at h ⊢
  exact writeBytes_rising h _ _

/-- R94: a layer is resolved with no byte, which is in canonical form. -/
theorem layerOf_bytesWf (row x : Nat) (c : Cover) (st : SegStatus) : (layerOf row x c st).bytesWf = true := by
  simp [Layer.bytesWf, layerOf]

/-- R111: an offset outside the range written keeps the byte it had. -/
theorem writeBytes_outside (bytes : List Host.Cell) (o : Nat) (data : List Byte) (i : Nat)
    (hi : i < o ∨ o + data.length ≤ i) :
    (writeBytes bytes o data).find? (fun c => c.1 == i) = bytes.find? (fun c => c.1 == i) := by
  have none_of : ∀ l : List Host.Cell, (∀ c ∈ l, c.1 ≠ i) → l.find? (fun c => c.1 == i) = none := by
    intro l hl
    rw [List.find?_eq_none]
    intro c hc
    simpa using hl c hc
  have filt : ∀ (l : List Host.Cell) (p : Host.Cell → Bool), (∀ c : Host.Cell, c.1 = i → p c = true) →
      (l.filter p).find? (fun c => c.1 == i) = l.find? (fun c => c.1 == i) := by
    intro l p hp
    induction l with
    | nil => rfl
    | cons c cs ih =>
      by_cases hc : c.1 = i
      · rw [List.filter_cons_of_pos (hp c hc), List.find?_cons_of_pos (by simpa using hc),
          List.find?_cons_of_pos (by simpa using hc)]
      · rw [List.find?_cons_of_neg (by simpa using hc), ← ih]
        by_cases hpc : p c = true
        · rw [List.filter_cons_of_pos hpc, List.find?_cons_of_neg (by simpa using hc)]
        · rw [List.filter_cons_of_neg hpc]
  have hmid : ((data.zipIdx o).map (fun e => (e.2, e.1))).find? (fun c : Host.Cell => c.1 == i) = none :=
    none_of _ (fun c hc => by have := written_range hc; omega)
  unfold writeBytes
  rw [List.find?_append, List.find?_append, hmid]
  rcases hi with hi | hi
  · rw [none_of (bytes.filter (fun c => decide (o + data.length ≤ c.1))) (fun c hc => by
        have := (List.mem_filter.mp hc).2
        simp only [decide_eq_true_eq] at this
        omega), filt bytes _ (fun c hc => by simp; omega)]
    cases bytes.find? (fun c => c.1 == i) <;> rfl
  · rw [none_of (bytes.filter (fun c => decide (c.1 < o))) (fun c hc => by
        have := (List.mem_filter.mp hc).2
        simp only [decide_eq_true_eq] at this
        omega), filt bytes _ (fun c hc => by simp; omega)]
    rfl

/-- R110: as many bytes are taken as the byte count says. -/
@[simp] theorem takenBytes_length (count : Nat) (data : List Byte) : (takenBytes count data).length = count := by
  simp [takenBytes]
  omega

end Sys2Proof.Machine
end

