-- ==== Sys2Proof/Laws/Fields.lean ====
section
/-! SUPPORT. Reading back the fields of a packed word (10.8): a field reads the value put in it, modulo its
width, and a field reads 0 of the values put elsewhere. -/

namespace Sys2Proof.Machine

/-- A field of the zero word is 0. -/
@[simp] theorem fieldOf_zero (hi lo : Nat) : fieldOf 0 hi lo = 0 := by
  simp [fieldOf, BitVec.extractLsb, BitVec.extractLsb']

/-- One bit of a word that carries one field. -/
theorem getLsbD_fieldWord (hi lo v i : Nat) :
    (fieldWord hi lo v).getLsbD i = (decide (lo ≤ i) && decide (i - lo < hi - lo + 1) && decide (i < 32) && v.testBit (i - lo)) := by
  simp only [fieldWord, BitVec.getLsbD_shiftLeft, BitVec.getLsbD_setWidth, BitVec.getLsbD_ofNat]
  by_cases h1 : lo ≤ i <;> by_cases h2 : i - lo < hi - lo + 1 <;> by_cases h3 : i < 32 <;>
    simp [h1, h2, h3, Nat.not_lt.mpr] <;> intros <;> omega

/-- One bit of a word is a bit of the number read from a field. -/
theorem testBit_fieldOf (w : Word) (hi lo i : Nat) :
    (fieldOf w hi lo).testBit i = (decide (i < hi - lo + 1) && w.getLsbD (lo + i)) := by
  simp [fieldOf, BitVec.testBit_toNat]

/-- A field of an OR is the OR of the fields. -/
theorem fieldOf_or (a b : Word) (hi lo : Nat) : fieldOf (a ||| b) hi lo = fieldOf a hi lo ||| fieldOf b hi lo := by
  apply Nat.eq_of_testBit_eq
  intro i
  simp only [Nat.testBit_or, testBit_fieldOf, BitVec.getLsbD_or, Bool.and_or_distrib_left]

/-- The field a value was put in reads that value, modulo the field's width. -/
@[simp] theorem fieldOf_fieldWord (hi lo v : Nat) (hhi : hi < 32) (hle : lo ≤ hi) :
    fieldOf (fieldWord hi lo v) hi lo = v % 2 ^ (hi - lo + 1) := by
  apply Nat.eq_of_testBit_eq
  intro i
  rw [testBit_fieldOf, getLsbD_fieldWord, Nat.testBit_mod_two_pow]
  by_cases h : i < hi - lo + 1
  · have h2 : lo + i < 32 := by omega
    have h3 : lo + i - lo = i := by omega
    simp [h, h2, h3]
  · simp [h]

/-- A field below or above the one a value was put in reads 0. -/
theorem fieldOf_fieldWord_disjoint (hi lo hi' lo' v : Nat) (hle : lo ≤ hi) (hle' : lo' ≤ hi')
    (hd : hi < lo' ∨ hi' < lo) : fieldOf (fieldWord hi' lo' v) hi lo = 0 := by
  apply Nat.eq_of_testBit_eq
  intro i
  rw [testBit_fieldOf, getLsbD_fieldWord, Nat.zero_testBit]
  by_cases h : i < hi - lo + 1
  · rcases hd with hd | hd
    · have : ¬ lo' ≤ lo + i := by omega
      simp [this]
    · have : ¬ lo + i - lo' < hi' - lo' + 1 := by omega
      simp [this]
  · simp [h]

/-- The packed word as the OR of its fields, read at one field. -/
theorem fieldOf_foldl_or (fields : List (Nat × Nat × Nat)) (acc : Word) (hi lo : Nat) :
    fieldOf (fields.foldl (fun acc f => acc ||| fieldWord f.1 f.2.1 f.2.2) acc) hi lo
      = fields.foldl (fun acc f => acc ||| fieldOf (fieldWord f.1 f.2.1 f.2.2) hi lo) (fieldOf acc hi lo) := by
  induction fields generalizing acc with
  | nil => rfl
  | cons f fs ih => simp only [List.foldl_cons, ih, fieldOf_or]

/-- A field of a packed word is the OR of what its parts put there. -/
theorem fieldOf_packWord (fields : List (Nat × Nat × Nat)) (hi lo : Nat) :
    fieldOf (packWord fields) hi lo
      = fields.foldl (fun acc f => acc ||| fieldOf (fieldWord f.1 f.2.1 f.2.2) hi lo) 0 := by
  rw [packWord, fieldOf_foldl_or, fieldOf_zero]

/-- R160: every byte of a write with all lanes enabled is taken. -/
@[simp] theorem maskLanes_all (data : Word) : maskLanes 15 data = data := by
  have h0 : BitVec.getLsbD (15 : Lanes) 0 = true := by decide
  have h1 : BitVec.getLsbD (15 : Lanes) 1 = true := by decide
  have h2 : BitVec.getLsbD (15 : Lanes) 2 = true := by decide
  have h3 : BitVec.getLsbD (15 : Lanes) 3 = true := by decide
  simp only [maskLanes, h0, h1, h2, h3, if_true, ← BitVec.and_or_distrib_left]
  have : (0x000000FF#32 ||| 0x0000FF00#32 ||| 0x00FF0000#32 ||| 0xFF000000#32) = BitVec.allOnes 32 := by decide
  simp only [this, BitVec.and_allOnes]

/-- R160: a write with no lane enabled is the word 0. -/
@[simp] theorem maskLanes_none (data : Word) : maskLanes 0 data = 0 := by
  simp [maskLanes]

end Sys2Proof.Machine
end

