-- ==== Sys2Proof/Laws/PerInstr.lean ====
section
/-! SUPPORT. What is said of every command one by one: the family CommandRow, about the command table of 10.8. -/

namespace Sys2Proof.Laws.CommandRow

open Sys2Proof.Machine

/-- 10.8, R167: a command with a row in the command table has a code of that table and an argument count its
header can carry, and no other command has its code. -/
def Statement (i : Instr) : Prop :=
  ∀ r, i.commandRow = some r →
    r.code ∈ knownCodes ∧ r.argc ≤ 7 ∧ ∀ j q, j.commandRow = some q → q.code = r.code → j = i

/-- A command without a row in the command table. -/
theorem of_none {i : Instr} (h : i.commandRow = none) : Statement i := fun r hr => by rw [h] at hr; exact nomatch hr

/-- The command of a code of 10.8. -/
def ofCode (code : Nat) : Option Instr :=
  [Instr.reserve, .place, .source, .key, .showWindow, .hideWindow, .retire, .commit, .queryWindow, .setTiming,
   .startHead, .stopHead, .queryHead, .openClient, .closeClient, .setAperture, .setHeads, .queryClient,
   .reclaimTags, .fetchNotices, .setNoticeMask].find? (fun i => i.commandRow.map CommandRow.code == some code)

/-- The code of a command names it. -/
theorem ofCode_code {j : Instr} {q : CommandRow} (hj : j.commandRow = some q) : ofCode q.code = some j := by
  cases j <;> simp only [Instr.commandRow, Option.some.injEq, reduceCtorEq] at hj <;> subst hj <;> decide

/-- The commands with a code are told apart by it. -/
theorem code_injective {i j : Instr} {r q : CommandRow} (hi : i.commandRow = some r) (hj : j.commandRow = some q)
    (h : q.code = r.code) : j = i := by
  have a := ofCode_code hi
  rw [← h, ofCode_code hj] at a
  exact Option.some.inj a

theorem reserve : Statement .reserve := fun _ hr => ⟨by cases hr; decide, by cases hr; decide, fun _ _ hj h => code_injective hr hj h⟩
theorem place : Statement .place := fun _ hr => ⟨by cases hr; decide, by cases hr; decide, fun _ _ hj h => code_injective hr hj h⟩
theorem source : Statement .source := fun _ hr => ⟨by cases hr; decide, by cases hr; decide, fun _ _ hj h => code_injective hr hj h⟩
theorem key : Statement .key := fun _ hr => ⟨by cases hr; decide, by cases hr; decide, fun _ _ hj h => code_injective hr hj h⟩
theorem showWindow : Statement .showWindow := fun _ hr => ⟨by cases hr; decide, by cases hr; decide, fun _ _ hj h => code_injective hr hj h⟩
theorem hideWindow : Statement .hideWindow := fun _ hr => ⟨by cases hr; decide, by cases hr; decide, fun _ _ hj h => code_injective hr hj h⟩
theorem retire : Statement .retire := fun _ hr => ⟨by cases hr; decide, by cases hr; decide, fun _ _ hj h => code_injective hr hj h⟩
theorem commit : Statement .commit := fun _ hr => ⟨by cases hr; decide, by cases hr; decide, fun _ _ hj h => code_injective hr hj h⟩
theorem queryWindow : Statement .queryWindow := fun _ hr => ⟨by cases hr; decide, by cases hr; decide, fun _ _ hj h => code_injective hr hj h⟩
theorem setTiming : Statement .setTiming := fun _ hr => ⟨by cases hr; decide, by cases hr; decide, fun _ _ hj h => code_injective hr hj h⟩
theorem startHead : Statement .startHead := fun _ hr => ⟨by cases hr; decide, by cases hr; decide, fun _ _ hj h => code_injective hr hj h⟩
theorem stopHead : Statement .stopHead := fun _ hr => ⟨by cases hr; decide, by cases hr; decide, fun _ _ hj h => code_injective hr hj h⟩
theorem queryHead : Statement .queryHead := fun _ hr => ⟨by cases hr; decide, by cases hr; decide, fun _ _ hj h => code_injective hr hj h⟩
theorem openClient : Statement .openClient := fun _ hr => ⟨by cases hr; decide, by cases hr; decide, fun _ _ hj h => code_injective hr hj h⟩
theorem closeClient : Statement .closeClient := fun _ hr => ⟨by cases hr; decide, by cases hr; decide, fun _ _ hj h => code_injective hr hj h⟩
theorem setAperture : Statement .setAperture := fun _ hr => ⟨by cases hr; decide, by cases hr; decide, fun _ _ hj h => code_injective hr hj h⟩
theorem setHeads : Statement .setHeads := fun _ hr => ⟨by cases hr; decide, by cases hr; decide, fun _ _ hj h => code_injective hr hj h⟩
theorem queryClient : Statement .queryClient := fun _ hr => ⟨by cases hr; decide, by cases hr; decide, fun _ _ hj h => code_injective hr hj h⟩
theorem reclaimTags : Statement .reclaimTags := fun _ hr => ⟨by cases hr; decide, by cases hr; decide, fun _ _ hj h => code_injective hr hj h⟩
theorem fetchNotices : Statement .fetchNotices := fun _ hr => ⟨by cases hr; decide, by cases hr; decide, fun _ _ hj h => code_injective hr hj h⟩
theorem setNoticeMask : Statement .setNoticeMask := fun _ hr => ⟨by cases hr; decide, by cases hr; decide, fun _ _ hj h => code_injective hr hj h⟩
theorem unknownCommandCode : Statement .unknownCommandCode := of_none rfl
theorem commandWrite (ch : ClientId) (lanes : Lanes) (data : Word) : Statement (.commandWrite ch lanes data) := of_none rfl
theorem responseRead (ch : ClientId) : Statement (.responseRead ch) := of_none rfl
theorem resync (ch : ClientId) (lanes : Lanes) (data : Word) : Statement (.resync ch lanes data) := of_none rfl
theorem reset (lanes : Lanes) (data : Word) : Statement (.reset lanes data) := of_none rfl
theorem hostWriteDiscarded (page : PageNo) (word : WordIndex) (lanes : Lanes) (data : Word) : Statement (.hostWriteDiscarded page word lanes data) := of_none rfl
theorem resetN : Statement .resetN := of_none rfl
theorem lineStart (h : HeadId) : Statement (.lineStart h) := of_none rfl
theorem tagExpiry (t : TagNo) : Statement (.tagExpiry t) := of_none rfl
theorem lossOfLock (h : HeadId) : Statement (.lossOfLock h) := of_none rfl
theorem activeStart (h : HeadId) : Statement (.activeStart h) := of_none rfl
theorem markArrival (h : HeadId) : Statement (.markArrival h) := of_none rfl
theorem requestIssue : Statement .requestIssue := of_none rfl
theorem responseArrival (earlier : List Beat) (final : Beat) : Statement (.responseArrival earlier final) := of_none rfl
theorem pixelPeriod (h : HeadId) : Statement (.pixelPeriod h) := of_none rfl
theorem resetNRise : Statement .resetNRise := of_none rfl

end Sys2Proof.Laws.CommandRow
end

