-- ==== Sys2Proof/Laws/Resolve.lean ====
section
/-! SUPPORT. What writing a resolved line into a slot can do, and what it leaves. -/

namespace Sys2Proof.Machine

section
variable (h : HeadId) (k : SlotNo) (n : Nat) (s : State)

/-- R85, R96: the two things a resolution with a timing set can do. -/
theorem resolveInto_cases {t : TimingSet} (ht : (s.head h).timing = some t) :
    (((s.head h).state = .seeking ∨ t.isActive n = false) ∧ resolveInto h k n s = setSlot h k (.blank n) none s) ∨
    (¬ ((s.head h).state = .seeking ∨ t.isActive n = false) ∧
      ∃ r, r = resolveLine (n - t.activeFirstLine) t.activeWidth
          (coversOf (n - t.activeFirstLine) t.activeWidth h s) ∧
        resolveInto h k n s = notifyOwners .layerDropped r.drops (addRefs (pendingWindows r.spans)
          (setSlot h k (.active { phase := if pendingWindows r.spans = [] then .complete else .fetching
                                  line := n, spans := r.spans, budget := r.budget })
            (nextPending r.spans walkStart) s))) := by
  unfold resolveInto
  rw [ht]
  simp only []
  split
  · next hc => exact .inl ⟨hc, rfl⟩
  · next hc => exact .inr ⟨hc, _, rfl, rfl⟩

theorem resolveInto_keepsHost : KeepsHost s (resolveInto h k n s) := by
  cases ht : (s.head h).timing with
  | none => unfold resolveInto; rw [ht]; exact .refl s
  | some t =>
    rcases resolveInto_cases h k n s ht with ⟨-, e⟩ | ⟨-, r, -, e⟩ <;> rw [e]
    · exact setSlot_keepsHost s _ _ _ _
    · exact (setSlot_keepsHost s _ _ _ _).trans ((addRefs_keepsHost _ _).trans (notifyOwners_keepsHost _ _ _))

/-- Resolution changes no window but its references. -/
theorem resolveInto_life (w : WindowId) : ((resolveInto h k n s).window w).life = (s.window w).life := by
  cases ht : (s.head h).timing with
  | none => unfold resolveInto; rw [ht]
  | some t =>
    rcases resolveInto_cases h k n s ht with ⟨-, e⟩ | ⟨-, r, -, e⟩ <;> rw [e]
    · rfl
    · rw [notifyOwners_window, addRefs_life]; rfl

@[simp] theorem resolveInto_client (c : ClientId) : (resolveInto h k n s).client c = s.client c := by
  cases ht : (s.head h).timing with
  | none => unfold resolveInto; rw [ht]
  | some t =>
    rcases resolveInto_cases h k n s ht with ⟨-, e⟩ | ⟨-, r, -, e⟩ <;> rw [e]
    · rfl
    · rw [notifyOwners_client, addRefs_client]; rfl

@[simp] theorem resolveInto_tag (t : TagNo) : (resolveInto h k n s).tag t = s.tag t := by
  cases ht : (s.head h).timing with
  | none => unfold resolveInto; rw [ht]
  | some u =>
    rcases resolveInto_cases h k n s ht with ⟨-, e⟩ | ⟨-, r, -, e⟩ <;> rw [e]
    · rfl
    · rw [notifyOwners_tag, addRefs_tag]; rfl

/-- Resolution changes nothing of the other head. -/
theorem resolveInto_head_of_ne {x : HeadId} (hne : h ≠ x) : (resolveInto h k n s).head x = s.head x := by
  cases ht : (s.head h).timing with
  | none => unfold resolveInto; rw [ht]
  | some t =>
    rcases resolveInto_cases h k n s ht with ⟨-, e⟩ | ⟨-, r, -, e⟩ <;> rw [e]
    · rw [setSlot_head, if_neg hne]
    · rw [notifyOwners_head, addRefs_head, setSlot_head, if_neg hne]

/-- Of its head, resolution changes one slot and its place in the cursor. -/
theorem resolveInto_head_self : ∃ v p, (resolveInto h k n s).head h =
    { s.head h with slots := (s.head h).slots.set k v, cursor := (s.head h).cursor.set k p } := by
  cases ht : (s.head h).timing with
  | none =>
    refine ⟨(s.head h).slots[k], (s.head h).cursor[k], ?_⟩
    unfold resolveInto; rw [ht]; simp
  | some t =>
    rcases resolveInto_cases h k n s ht with ⟨-, e⟩ | ⟨-, r, -, e⟩ <;> rw [e]
    · exact ⟨_, _, by rw [setSlot_head, if_pos rfl]⟩
    · exact ⟨_, _, by rw [notifyOwners_head, addRefs_head, setSlot_head, if_pos rfl]⟩
end

end Sys2Proof.Machine
end

