-- ==== Sys2Proof/WellFormed.lean ====
section
/-! DEFINITION. Which commands are rows of the table as the table means them: a RESYNC that carries
the RESYNC action, a RESET that carries the RESET action, a discarded write to an address where a
write is discarded. The other rows take every operand their types admit. -/

namespace Sys2Proof

open Sys2Proof.Machine in
/-- R160, R163, R166: the host writes that are discarded whatever the part's state: to RESPONSE,
STATUS or an unused word, to CONTROL without the RESYNC action, and to the device control page but
for a RESET action at its word 0. -/
def WriteDiscarded (page : PageNo) (word : WordIndex) (lanes : Lanes) (data : Word) : Bool :=
  if page = devicePage then
    !(word == 0 && actionOf (maskLanes lanes data) == actionReset)
  else
    word != commandIndex &&
    !(word == controlIndex && actionOf (maskLanes lanes data) == actionResync)

open Sys2Proof.Machine in
/-- A command spelled as its row of the table means it. -/
def Instr.wellFormed : Instr → Bool
  | .resync _ lanes data => actionOf (maskLanes lanes data) == actionResync
  | .reset lanes data => actionOf (maskLanes lanes data) == actionReset
  | .hostWriteDiscarded page word lanes data => WriteDiscarded page word lanes data
  | .reserve | .place | .source | .key | .showWindow | .hideWindow | .retire | .commit
  | .queryWindow | .setTiming | .startHead | .stopHead | .queryHead | .openClient | .closeClient
  | .setAperture | .setHeads | .queryClient | .reclaimTags | .fetchNotices | .setNoticeMask
  | .unknownCommandCode | .commandWrite _ _ _ | .responseRead _ | .resetN | .lineStart _
  | .tagExpiry _ | .lossOfLock _ | .activeStart _ | .markArrival _ | .requestIssue
  | .responseArrival _ _ | .pixelPeriod _ | .resetNRise => true

end Sys2Proof
end

