-- ==== Sys2Proof/Tests/Slice0.lean ====
section
/-! SUPPORT. Tests of the model against the manual's worked examples and tables, and a witness for every
statement that has hypotheses: concrete states and operands that meet them, clause by clause. -/

namespace Sys2Proof.Tests

open Sys2Proof Sys2Proof.Machine

set_option maxRecDepth 8000

/-! ### WellFormed -/

theorem test_wellFormed_refuses_resync_without_its_action : (Instr.resync 1 15 2).wellFormed = false := by decide
theorem test_wellFormed_refuses_resync_with_masked_action : (Instr.resync 1 14 1).wellFormed = false := by decide
theorem test_wellFormed_refuses_reset_without_its_action : (Instr.reset 15 0).wellFormed = false := by decide
theorem test_wellFormed_refuses_discarded_write_to_command :
    (Instr.hostWriteDiscarded 3 0 15 7).wellFormed = false := by decide
theorem test_wellFormed_refuses_discarded_write_that_resyncs :
    (Instr.hostWriteDiscarded 3 3 15 1).wellFormed = false := by decide
theorem test_wellFormed_refuses_discarded_write_that_resets :
    (Instr.hostWriteDiscarded 8 0 15 1).wellFormed = false := by decide
theorem test_wellFormed_takes_discarded_writes :
    (Instr.hostWriteDiscarded 3 1 15 7).wellFormed = true ∧ (Instr.hostWriteDiscarded 3 3 15 2).wellFormed = true ∧
    (Instr.hostWriteDiscarded 8 1 15 1).wellFormed = true := by decide

/-! ### Small states -/

/-- A message header word (10.8): sequence number 9. -/
def header (code count : Nat) : Word := packWord [(7, 0, code), (15, 8, 9), (18, 16, count)]

/-- `s` with one whole message in the command FIFO of channel `c`, which is OPEN. -/
def saying (c : ClientId) (code : Nat) (args : List Word) (s : State) : State :=
  s.setChannel c { state := .opened, commands := header code args.length :: args, responses := [] }

/-- The message `saying` puts there. -/
def said (c : ClientId) (code : Nat) (args : List Word) : Taken :=
  { client := c, message := { code := code, seq := 9, args := args }, rest := [] }

/-- The state an outcome answers; `s` where it answers none. -/
def after (s : State) : Host.Outcome State Fault Refusal → State
  | .next u => u
  | _ => s

/-- The state after a message command said by channel `c`. -/
def done (i : Instr) (c : ClientId) (code : Nat) (args : List Word) (s : State) : State :=
  after s (exec i (saying c code args s))

/-- The status field of the response to it (10.7). -/
def answer (i : Instr) (c : ClientId) (code : Nat) (args : List Word) (s : State) : Nat :=
  fieldOf (((done i c code args s).channel c).responses.getD 0 0) 7 0

/-- Two 16-bit fields of an argument word. -/
def pair (lo hi : Nat) : Word := packWord [(15, 0, lo), (31, 16, hi)]

/-- A valid timing set (R47): 64 pixel periods by 20 lines, 32 by 8 active, capture band 2. -/
def smallSet : TimingSet :=
  { lineTotal := 64, lineSyncEnd := 1, activeStartPixel := 4, activeWidth := 32, frameTotal := 20, frameSyncEnd := 1
    activeFirstLine := 6, activeHeight := 8, commitLine := 15, captureBand := 2, background := 0x000040 }

/-- A geometry and a source for the small set. -/
def smallGeometry : Geometry := { x := 4, y := 2, width := 8, height := 4 }
def smallSource : Source := { format := .p16, base := 4096, pitch := 64, scrollX := 2, scrollY := 1 }

/-- An image of them, visible, at depth 5. -/
def smallImage : Image :=
  { visible := true, geometry := some smallGeometry, depth := 5, source := some smallSource, ringRows := none, key := none }

/-- What a tenant's window on head 0 holds. -/
def smallHeld : Held := { owner := 1, head := 0, staged := { image := smallImage, retirePending := false } }

/-- Client 1 OPEN with quota 4, granules 1 to 2 and both heads, holding window 0 on head 0 in life `life`. -/
def tenant (life : Life) (refs : Nat) (s : State) : State :=
  (s.setClient 1 { state := .opened, quota := 4, held := 1, aperture := some ⟨1, 2⟩, heads := ⟨true, true⟩ }).setWindow 0
    { life := life, refs := refs }

/-- Head 0 in a state with the small set, at a line and a pixel. -/
def raster (st : HeadState) (line pixel : Nat) (s : State) : State :=
  s.setHead 0 { s.head 0 with state := st, timing := some smallSet, line := line, pixel := pixel }

/-- The window 0 of `tenant`, RESERVED and LIVE. -/
def reserved : State := tenant (.reserved smallHeld) 0 State.reset
def live : State := tenant (.live smallHeld smallImage none) 0 State.reset

/-! ### Worked examples of the manual -/

/-- The image of 1.2.1. -/
def g121 : Geometry := { x := 100, y := 40, width := 320, height := 200 }
def s121 : Source := { format := .p16, base := 8388608, pitch := 1024, scrollX := 16, scrollY := 8 }
/-- The cover of that image on a line of width 800. -/
def c121 : Cover := { window := 5, geometry := g121, source := s121, ringRows := none, key := none, lo := 100, past := 420 }

/-- 1.2.1: row address, first byte and last byte of the extent, with and without a ring. -/
theorem test_addresses_of_1_2_1 :
    rowAddress c121 50 = 8407040 ∧ (layerOf 50 100 c121 .pending).firstByte = 8407072 ∧
    extentEnd g121 s121 none = 8601247 + 1 ∧
    rowAddress { c121 with source := { s121 with scrollY := 60 }, ringRows := some 64 } 50 = 8394752 ∧
    extentEnd g121 { s121 with scrollY := 60 } (some 64) = 8453791 + 1 := by decide

/-- 1.2.1, 8.3.1: the apertures that hold the image and those that do not. -/
theorem test_apertures_of_8_3_1 :
    withinAperture (some ⟨2048, 2099⟩) s121.base (extentEnd g121 s121 none) = true ∧
    withinAperture (some ⟨2048, 2098⟩) s121.base (extentEnd g121 s121 none) = false ∧
    withinAperture (some ⟨2049, 2200⟩) s121.base (extentEnd g121 s121 none) = false ∧
    withinAperture (some ⟨2000, 2200⟩) s121.base (extentEnd g121 s121 none) = true := by decide

/-- The timing set of 3.1.1. -/
def set311 : TimingSet :=
  { lineTotal := 1000, lineSyncEnd := 63, activeStartPixel := 160, activeWidth := 800, frameTotal := 520
    frameSyncEnd := 3, activeFirstLine := 20, activeHeight := 480, commitLine := 510, captureBand := 4
    background := 0x000040 }

/-- 3.1.1: the set is valid, and its three variants are not. -/
theorem test_timing_of_3_1_1 :
    set311.valid = true ∧ { set311 with commitLine := 518 }.valid = false ∧
    { set311 with commitLine := 18 }.valid = false ∧ { set311 with activeFirstLine := 5 }.valid = false := by decide

/-- A cover of the examples of chapter 5: a window at columns `x` to `x + width - 1`, clipped to `line`. -/
def band (w : WindowId) (f : PixelFormat) (x width line : Nat) (key : Option Word) : Cover :=
  { window := w, geometry := ⟨x, 0, width, 200⟩, source := { s121 with format := f, scrollX := 0 }, ringRows := none
    key := key, lo := x, past := min (x + width) line }

/-- The columns, windows and statuses of a resolved line. -/
def shape (r : Resolved) : List (Nat × Nat × List (WindowId × SegStatus)) :=
  r.spans.map (fun sp => (sp.xStart, sp.xEnd, sp.layers.map (fun l => (l.window, l.status))))

/-- 5.8: four windows, five spans, budget used 3,400. -/
theorem test_line_of_5_8 :
    let r := resolveLine 80 800 [band 4 .p32 100 300 800 (some 0), band 7 .p32 300 300 800 none,
      band 3 .p16 0 800 800 none, band 11 .p32 700 200 800 none]
    shape r = [(0, 99, [(3, .pending)]), (100, 299, [(4, .pending), (3, .pending)]),
      (300, 399, [(4, .pending), (7, .pending)]), (400, 599, [(7, .pending)]), (600, 799, [(3, .pending)])] ∧
    r.budget = 3400 ∧ r.drops = [] := by decide

/-- 5.9: the budget walk goes on past a refusal. -/
theorem test_line_of_5_9 :
    let r := resolveLine 80 1920 [band 20 .p32 0 1920 1920 (some 0), band 21 .p32 0 1560 1920 (some 0),
      band 22 .p16 0 1920 1920 none]
    shape r = [(0, 1559, [(20, .pending), (21, .pending), (22, .pending)]), (1560, 1919, [(20, .absent), (22, .pending)])] ∧
    r.budget = 16320 ∧ r.drops = [20] := by decide

/-- 5.10: the span limit. -/
theorem test_line_of_5_10 :
    let r := resolveLine 80 800 ((List.finRange 20).map (fun k => band (k.castLE (by decide)) .p16 (20 * k.val + 10) 10 800 none))
    r.spans.length = 32 ∧ (shape r)[31]? = some (310, 799, []) ∧ r.drops = [15, 16, 17, 18, 19] := by decide

/-- 6.2.1: the three pieces of one segment. -/
theorem test_pieces_of_6_2_1 :
    pieceBytes 8407072 640 0 = 224 ∧ pieceBytes 8407072 640 224 = 256 ∧ pieceBytes 8407072 640 480 = 160 := by decide

/-- A FILLED layer that holds some bytes. -/
def filled (w : WindowId) (f : PixelFormat) (key : Option Word) (bytes : List Host.Cell) : Layer :=
  { window := w, format := f, key := key, rowAddr := 0, offset := 0, status := .filled, bytes := bytes, arrived := 0 }

/-- 7.6: positions 50, 150, 151 and 450 of line 100. -/
theorem test_pixels_of_7_6 :
    let spans : List Span := [⟨0, 99, [filled 3 .p16 none [(100, 8), (101, 133)]]⟩,
      ⟨100, 299, [filled 4 .p32 (some 16711935) [(200, 255), (201, 0), (202, 255), (203, 128), (204, 40), (205, 80), (206, 120)],
        filled 3 .p16 none [(100, 0), (101, 248)]]⟩,
      ⟨300, 399, []⟩, ⟨400, 599, [{ filled 7 .p32 none [(0, 1)] with status := .absent }]⟩]
    spansPixel spans 0x000040 50 = colourOf 132 162 66 ∧ spansPixel spans 0x000040 150 = colourOf 255 0 0 ∧
    spansPixel spans 0x000040 151 = colourOf 120 80 40 ∧ spansPixel spans 0x000040 450 = colourOf 0 0 64 := by decide

/-- 10.9: the first and third choices of the Command Engine. -/
def engine109 (held5 : Nat) (pointer : ClientId) : State :=
  let s := { State.reset with pointer := pointer }
  let s := s.setChannel 0 { state := .opened, commands := [header 0x23 1, 0, header 0x40 0], responses := [] }
  let s := s.setChannel 2 { state := .opened, commands := [header 0x12 6, 0], responses := List.replicate 5 0 }
  s.setChannel 5 { state := .opened, commands := [header 0x14 1, 0], responses := List.replicate held5 0 }

theorem test_choices_of_10_9 :
    (engine109 10 2).nextMessage = some ⟨0, ⟨0x23, 9, [0]⟩, [header 0x40 0]⟩ ∧
    (engine109 6 2).nextMessage = some ⟨5, ⟨0x14, 9, [0]⟩, []⟩ := by decide

/-! ### One command at a time

`answer` is the status of the response: 00h OK and the refusals of 10.7. -/

theorem test_reserve_takes_window_0 : (done .reserve 1 0x10 [1] (tenant .free 0 State.reset)).window 0 =
    { life := .reserved { owner := 1, head := 1, staged := Staged.fresh }, refs := 0 } := by decide
theorem test_reserve_refusals : answer .reserve 1 0x10 [2] reserved = 0x03 ∧ answer .reserve 2 0x10 [0] reserved = 0x03 ∧
    answer .reserve 1 0x10 [0] (reserved.setClient 1 { reserved.client 1 with quota := 1 }) = 0x05 := by decide
theorem test_place_at_the_edges : answer .place 1 0x11 [0, pair 4095 4095, pair 1 1, 31] (tenant (.reserved
      { smallHeld with staged := Staged.fresh }) 0 State.reset) = 0x00 ∧
    answer .place 1 0x11 [0, pair 4095 0, pair 2 1, 31] reserved = 0x08 ∧
    answer .place 1 0x11 [0, pair 0 0, pair 8 4, 32] reserved = 0x08 := by decide
theorem test_place_pitch_and_aperture : answer .place 1 0x11 [0, pair 0 0, pair 30 4, 0] reserved = 0x00 ∧
    answer .place 1 0x11 [0, pair 0 0, pair 31 4, 0] reserved = 0x08 ∧
    answer .place 1 0x11 [0, pair 0 0, pair 30 127, 0] reserved = 0x00 ∧
    answer .place 1 0x11 [0, pair 0 0, pair 30 128, 0] reserved = 0x0A := by decide
theorem test_source_ranges : answer .source 1 0x12 [0, 2, 4098, 64, 0, 0] reserved = 0x09 ∧
    answer .source 1 0x12 [0, 1, 4098, 64, 0, 0] reserved = 0x00 ∧ answer .source 1 0x12 [0, 3, 4096, 64, 0, 0] reserved = 0x09 ∧
    answer .source 1 0x12 [0, 1, 4096, 64, 0, 0x10000] reserved = 0x09 := by decide
theorem test_source_aperture : answer .source 1 0x12 [0, 1, 4094, 64, 0, 0] reserved = 0x0A ∧
    ((done .source 1 0x12 [0, 2, 4096, 64, pair 8 3, 0x10005] reserved).window 0).life.held?.map
      (fun hd => (hd.staged.image.source, hd.staged.image.ringRows)) =
      some (some { format := .p32, base := 4096, pitch := 64, scrollX := 8, scrollY := 3 }, some 5) := by decide
theorem test_key_presence : answer .key 1 0x13 [0, 2, 5] live = 0x01 ∧
    ((done .key 1 0x13 [0, 1, 0xFFFFFFFF] live).window 0).life.held?.map (fun hd => hd.staged.image.key) = some (some 0xFFFFFFFF) := by
  decide
theorem test_show_needs_geometry_and_source : answer .showWindow 1 0x14 [0] reserved = 0x00 ∧
    answer .showWindow 1 0x14 [0] (tenant (.reserved { smallHeld with staged := Staged.fresh }) 0 State.reset) = 0x0B := by decide
theorem test_hide_keeps_the_live_image : ((done .hideWindow 1 0x15 [0] live).window 0).life =
    .live { smallHeld with staged := { smallHeld.staged with image := { smallImage with visible := false } } } smallImage none := by
  decide
theorem test_retire_reserved_and_live : ((done .retire 1 0x16 [0] reserved).window 0).life = .free ∧
    ((done .retire 1 0x16 [0] reserved).client 1).held = 0 ∧
    ((done .retire 1 0x16 [0] live).window 0).life =
      .live { smallHeld with staged := { smallHeld.staged with retirePending := true } } smallImage none := by decide
theorem test_commit_on_a_stopped_head_applies : ((done .commit 1 0x17 [0] reserved).window 0).life = .live smallHeld smallImage none ∧
    ((done .commit 1 0x17 [0] reserved).head 0).depthList = [0] ∧
    ((done .commit 1 0x17 [0] reserved).notice 1).committed = some ⟨true, false⟩ := by decide
theorem test_commit_on_a_running_head_queues :
    ((done .commit 1 0x17 [0] (raster .freeRun 3 0 live)).head 0).commitQueue = [1] ∧
    ((done .commit 1 0x17 [0] (raster .freeRun 3 0 live)).channel 1).responses.getD 1 0 = 1 := by decide
theorem test_query_window_words : ((done .queryWindow 1 0x18 [0, 0] live).channel 1).responses.drop 1 =
    [packWord [(1, 0, 2), (4, 2, 1), (20, 20, 1), (26, 22, 5), (28, 28, 1), (29, 29, 1)],
     pair 4 2, pair 8 4, 4096, packWord [(16, 0, 64), (31, 20, 2)], 1, 0] := by decide
theorem test_query_window_refusals : answer .queryWindow 2 0x18 [0, 0] live = 0x03 ∧ answer .queryWindow 0 0x18 [0, 3] live = 0x01 ∧
    answer .queryWindow 0 0x18 [47, 0] live = 0x06 := by decide

/-- The argument words of SET_TIMING for the small set on a head. -/
def timingWords (h : Nat) : List Word := [pair 64 1, pair 4 32, pair 20 1, pair 6 8, pair 15 2, BitVec.ofNat 32 h, 0xFF000040]

theorem test_set_timing : ((done .setTiming 0 0x20 (timingWords 1) State.reset).head 1).timing = some smallSet ∧
    ((done .setTiming 0 0x20 (timingWords 0xABCD0001) State.reset).head 1).timing = some smallSet ∧
    answer .setTiming 0 0x20 (timingWords 2) State.reset = 0x01 ∧
    answer .setTiming 0 0x20 (timingWords 0) (raster .locked 0 0 State.reset) = 0x0D := by decide
theorem test_start_head : answer .startHead 0 0x21 [0, 1] State.reset = 0x0C ∧
    ((done .startHead 0 0x21 [0, 1] (raster .stopped 0 0 State.reset)).head 0).state = .seeking ∧
    answer .startHead 0 0x21 [0, 2] (raster .stopped 0 0 State.reset) = 0x01 := by decide
theorem test_stop_head_applies_its_queue :
    let s := raster .freeRun 3 5 (reserved.setHead 0 { Head.reset with commitQueue := [1] })
    ((done .stopHead 0 0x22 [0] s).head 0).state = .stopped ∧ ((done .stopHead 0 0x22 [0] s).head 0).commitQueue = [] ∧
    ((done .stopHead 0 0x22 [0] s).window 0).life = .live smallHeld smallImage none ∧
    ((done .stopHead 0 0x22 [0] s).notice 1).committed = some ⟨true, false⟩ := by decide
theorem test_query_head_words : ((done .queryHead 0 0x23 [0] (raster .holdover 7 5 State.reset)).channel 0).responses.drop 1 =
    [packWord [(2, 0, 4), (8, 8, 1)], pair 7 0] := by decide
theorem test_open_client : (done .openClient 0 0x30 [3, packWord [(7, 0, 48), (15, 8, 2)], 0, 1048575] State.reset).client 3 =
      { state := .opened, quota := 48, held := 0, aperture := some ⟨0, 1048575⟩, heads := ⟨false, true⟩ } ∧
    answer .openClient 0 0x30 [3, packWord [(7, 0, 49)], 0, 0] State.reset = 0x01 ∧
    answer .openClient 0 0x30 [3, 0, 1, 0] State.reset = 0x09 := by decide
theorem test_close_client_on_a_stopped_head : (done .closeClient 0 0x31 [1] live).client 1 = Client.closedRecord ∧
    ((done .closeClient 0 0x31 [1] live).channel 0).responses.getD 1 0 = 2 ∧
    ((done .closeClient 0 0x31 [1] live).notice 0).clientClosed = some 1 := by decide
theorem test_close_client_on_a_running_head :
    ((done .closeClient 0 0x31 [1] (raster .freeRun 3 0 live)).client 1).state = .closing ∧
    ((done .closeClient 0 0x31 [1] (raster .freeRun 3 0 live)).head 0).commitQueue = [1] := by decide
theorem test_set_aperture : answer .setAperture 0 0x32 [1, 1, 1] live = 0x00 ∧ answer .setAperture 0 0x32 [1, 2, 2] live = 0x0A ∧
    answer .setAperture 0 0x32 [1, 2, 1] live = 0x09 ∧ answer .setAperture 0 0x32 [2, 1, 1] live = 0x03 := by decide
theorem test_set_heads : answer .setHeads 0 0x33 [1, 2] live = 0x0F ∧ answer .setHeads 0 0x33 [1, 4] live = 0x01 ∧
    ((done .setHeads 0 0x33 [1, 1] live).client 1).heads = ⟨true, false⟩ := by decide
theorem test_query_client_words : ((done .queryClient 1 0x34 [1] live).channel 1).responses.drop 1 =
    [packWord [(1, 0, 1), (13, 8, 4), (21, 16, 1), (25, 24, 3), (28, 28, 1)], 1, 2] ∧
    answer .queryClient 1 0x34 [2] live = 0x03 := by decide
theorem test_reclaim_tags :
    let s := (live.setTag 3 { Tag.reset with state := .abandoned, age := 4 }).setWindow 0 { live.window 0 with refs := 1 }
    ((done .reclaimTags 0 0x40 [] s).tag 3).state = .free ∧ ((done .reclaimTags 0 0x40 [] s).window 0).refs = 0 ∧
    ((done .reclaimTags 0 0x40 [] s).channel 0).responses.getD 1 0 = 1 := by decide
theorem test_fetch_notices_words :
    let r : NoticeRecord := { NoticeRecord.cleared with committed := some ⟨true, true⟩, retired := some 47, mask := 3 }
    ((done .fetchNotices 1 0x50 [] (live.setNotice 1 r)).channel 1).responses.drop 1 =
      [packWord [(9, 0, 17), (17, 16, 3)], packWord [(31, 24, 47)], 0] ∧
    (done .fetchNotices 1 0x50 [] (live.setNotice 1 r)).notice 1 = { NoticeRecord.cleared with mask := 3 } := by decide
theorem test_set_notice_mask : answer .setNoticeMask 1 0x51 [31] live = 0x00 ∧ answer .setNoticeMask 1 0x51 [32] live = 0x01 ∧
    answer .setNoticeMask 0 0x51 [1023] live = 0x00 ∧ answer .setNoticeMask 0 0x51 [1024] live = 0x01 := by decide
theorem test_unknown_code_is_consumed : answer .unknownCommandCode 1 0x19 [1, 2, 3] live = 0x01 ∧
    ((done .unknownCommandCode 1 0x19 [1, 2, 3] live).channel 1).commands = [] := by decide
theorem test_command_write_lanes : ((after live (exec (.commandWrite 0 5 0x11223344) live)).channel 0).commands = [0x00220044] := by
  decide
theorem test_response_read : (after live (exec (.responseRead 4) (live.setChannel 4
    { state := .closed, commands := [], responses := [7, 8] }))).readData = 7 := by decide
theorem test_resync : (after live (exec (.resync 4 15 1) (live.setChannel 4
    { state := .framingLost, commands := [7, 8], responses := [9] }))).channel 4 =
    { state := .opened, commands := [], responses := [9] } := by decide
theorem test_reset_action : after live (exec (.reset 15 1) live) = State.reset ∧ after live (exec (.reset 15 2) live) = live := by
  decide
theorem test_discarded_write : after live (exec (.hostWriteDiscarded 2 1 15 9) live) = live := by decide
theorem test_reset_n : (after live (exec .resetN live)).resetHeld = true ∧
    after live (exec .resetNRise (after live (exec .resetN live))) = State.reset := by decide

/-- Head 0 at the end of line `n` of the small set. -/
def ending (st : HeadState) (n : Nat) (s : State) : State := raster st n 63 s

theorem test_line_start_advances_and_wraps :
    ((after live (exec (.lineStart 0) (ending .freeRun 3 live))).head 0).line = 4 ∧
    ((after live (exec (.lineStart 0) (ending .freeRun 19 live))).head 0).line = 0 ∧
    ((after live (exec (.lineStart 0) (ending .freeRun 19 live))).head 0).frames = 1 := by decide
theorem test_line_start_resolves_two_ahead :
    let s := (ending .freeRun 5 live).setHead 0 { (ending .freeRun 5 live).head 0 with
      depthList := [0], slots := (Vector.replicate 3 Slot.empty).set 1 (.blank 5) }
    (((after s (exec (.lineStart 0) s)).head 0).slots[1].line? = some 8) ∧
    ((after s (exec (.lineStart 0) s)).window 0).refs = 1 ∧
    ((after s (exec (.lineStart 0) s)).head 0).cursor[1] = some ⟨1, 0, 0⟩ := by decide
theorem test_tag_expiry :
    let s := (ending .freeRun 3 live).setTag 2 { Tag.reset with state := .stale, age := 3 }
    (after s (exec (.tagExpiry 2) s)).tag 2 = { Tag.reset with state := .abandoned, age := 4 } ∧
    ((after s (exec (.tagExpiry 2) s)).notice 0).tagAbandoned = some 0 := by decide
theorem test_loss_of_lock :
    let s := (ending .holdover 19 live).setHead 0 { (ending .holdover 19 live).head 0 with misses := 2 }
    ((after s (exec (.lossOfLock 0) s)).head 0).state = .seeking ∧
    ((after s (exec (.lossOfLock 0) s)).notice 0).followLost = some 0 := by decide
theorem test_active_start_shows_a_complete_slot :
    let s := (raster .freeRun 6 3 live).setHead 0 { (raster .freeRun 6 3 live).head 0 with
      slots := (Vector.replicate 3 Slot.empty).set 2 (.active ⟨.complete, 6, [⟨0, 31, []⟩], 0⟩) }
    ((after s (exec (.activeStart 0) s)).head 0).showing = some ⟨2, 0⟩ := by decide
theorem test_mark_in_band_corrects : ((after live (exec (.markArrival 0) (raster .locked 2 5 live))).head 0).pendingWrap = true ∧
    ((after live (exec (.markArrival 0) (raster .locked 3 5 live))).head 0).pendingWrap = false ∧
    ((after live (exec (.markArrival 0) (raster .locked 18 5 live))).head 0).bandMark = true ∧
    ((after live (exec (.markArrival 0) (raster .locked 19 5 live))).head 0).pendingWrap = false := by decide

/-- Window 0 with one PENDING segment of 16 bytes at address 4,104 in slot 1 of head 0, on line 8, and its tag 0 ACTIVE. -/
def fetching : State :=
  let l : Layer := { window := 0, format := .p16, key := none, rowAddr := 4096, offset := 8, status := .pending, bytes := [], arrived := 0 }
  let s := raster .freeRun 6 10 (tenant (.live smallHeld smallImage none) 2 State.reset)
  let s := s.setHead 0 { s.head 0 with
    slots := (Vector.replicate 3 Slot.empty).set 1 (.active ⟨.fetching, 8, [⟨0, 3, []⟩, ⟨4, 11, [l]⟩, ⟨12, 31, []⟩], 16⟩)
    depthList := [0] }
  s.setTag 0 { state := .active, head := 0, slot := 1, span := 1, layer := 0, window := 0, address := 4104, byteCount := 16, age := 0 }

/-- The same before its request is issued. -/
def unissued : State :=
  let s := (fetching.setTag 0 Tag.reset).setWindow 0 { fetching.window 0 with refs := 1 }
  s.setHead 0 { s.head 0 with cursor := (Vector.replicate 3 none).set 1 (some ⟨1, 0, 0⟩) }

theorem test_request_issue : after live (exec .requestIssue unissued) = { fetching with lastServed := 0 } := by decide
theorem test_response_ok :
    let s := after live (exec (.responseArrival [⟨0, .ok, [1, 2, 3]⟩] ⟨0, .ok, [4]⟩) fetching)
    (s.head 0).slots[1].content?.map ActiveLine.phase = some .complete ∧ (s.window 0).refs = 1 ∧ (s.tag 0).state = .free := by decide
theorem test_response_error :
    let s := after live (exec (.responseArrival [] ⟨0, .error, []⟩) fetching)
    (s.window 0) = { life := .live smallHeld smallImage (some 4104), refs := 0 } ∧ (s.notice 1).fetchFault = some 0 ∧
    (s.head 0).slots[1].references = [] := by decide
theorem test_pixel_period : ((after live (exec (.pixelPeriod 0) (raster .seeking 3 62 live))).head 0).pixel = 63 ∧
    ((after live (exec (.pixelPeriod 0) (raster .seeking 3 63 live))).head 0).line = 4 := by decide

/-- R51, R126: the pixel period that reaches active start pixel 4 of line 8 has position 0 on PIX; the next has
position 1. -/
theorem test_pixel_period_shows_position_0 :
    let s := (raster .freeRun 8 3 live).setHead 0 { (raster .freeRun 8 3 live).head 0 with
      slots := (Vector.replicate 3 Slot.empty).set 2
        (.active ⟨.complete, 8, [⟨0, 31, [filled 0 .p32 none [(0, 1), (1, 2), (2, 3), (4, 5), (5, 6), (6, 7)]]⟩], 128⟩) }
    let u := after s (exec (.pixelPeriod 0) s)
    let v := after u (exec (.pixelPeriod 0) u)
    (s.head 0).activeHigh = false ∧ (u.head 0).activeHigh = true ∧ (u.head 0).pixel = 4 ∧ (u.head 0).pix = 0x030201 ∧
    (v.head 0).pix = 0x070605 := by decide

/-- R35, R52: the line start of commit line 15 applies the queued client 1 and empties the queue. -/
theorem test_line_start_commits :
    let s := (ending .freeRun 14 reserved).setHead 0 { (ending .freeRun 14 reserved).head 0 with commitQueue := [1] }
    let u := after s (exec (.lineStart 0) s)
    (u.window 0).life = .live smallHeld smallImage none ∧ (u.head 0).commitQueue = [] ∧ (u.head 0).depthList = [0] ∧
    (u.notice 1).committed = some ⟨true, false⟩ := by decide

/-! ### Witnesses

Each theorem gives, for the statement it is named after, states and operands that meet its hypotheses, clause by
clause, at the boundaries where clauses meet. -/

/-- Window 0 of `reserved` and of `live` can be edited by client 1. -/
theorem editable_reserved (code : Nat) (rest : List Word) :
    Editable (saying 1 code (0 :: rest) reserved) (said 1 code (0 :: rest)) 0 smallHeld :=
  ⟨by simp [said, argNat, argWord], rfl, by simp [saying, reserved, tenant, State.reset, State.head, State.setChannel,
    State.setWindow, State.setClient, Head.reset], .inl rfl⟩
theorem editable_live (code : Nat) (rest : List Word) :
    Editable (saying 1 code (0 :: rest) live) (said 1 code (0 :: rest)) 0 smallHeld :=
  ⟨by simp [said, argNat, argWord], rfl, by simp [saying, live, tenant, State.reset, State.head, State.setChannel,
    State.setWindow, State.setClient, Head.reset], .inr ⟨smallImage, none, rfl⟩⟩

theorem witness_StepTakesFrontOfQueue : State.reset.pending = [] := rfl

/-- ResetReachesResetState, DeviceResetIsHeld. -/
theorem witness_DeviceReset : live.resetHeld = false ∧ (maskLanes 15 0x101).toNat % 256 = 1 ∧
    (maskLanes 14 0x101).toNat % 256 ≠ 1 ∧ (maskLanes 15 2).toNat % 256 ≠ 1 ∧ (1 : WordIndex) ≠ 0 ∧
    Instr.resetN ≠ .resetNRise := by decide

theorem witness_EngineChoosesMessage : (engine109 6 2).nextMessage = some ⟨5, ⟨0x14, 9, [0]⟩, []⟩ ∧
    (accepted (List.replicate 7 0)).results.length ≤ 7 := by decide

/-- MessageChecksBeforeEffect: an unknown code; a count one short and one long; a tenant's supervisor command; a
window argument 48 and a FREE window 47; another client's window. -/
theorem witness_MessageChecks_unknown : (saying 1 0x19 [] live).nextMessage = some (said 1 0x19 []) ∧
    ∀ (i : Instr) (row : CommandRow), i.commandRow = some row → (said 1 0x19 []).message.code ≠ row.code := by
  refine ⟨by decide, ?_⟩
  intro i row h
  cases i <;> simp only [Instr.commandRow, Option.some.injEq, reduceCtorEq] at h <;> subst h <;> decide
theorem witness_MessageChecks : (saying 1 0x10 [] live).nextMessage = some (said 1 0x10 []) ∧
    (said 1 0x10 []).message.args.length ≠ 1 ∧
    (saying 1 0x10 [0, 0] live).nextMessage = some (said 1 0x10 [0, 0]) ∧
    (saying 1 0x40 [] live).nextMessage = some (said 1 0x40 []) ∧ (said 1 0x40 []).client ≠ 0 ∧
    (saying 1 0x15 [48] live).nextMessage = some (said 1 0x15 [48]) ∧
    (∀ w : WindowId, argNat (said 1 0x15 [48]).message.args 0 = w.val → ((saying 1 0x15 [48] live).window w).life = .free) ∧
    (∀ w : WindowId, argNat (said 1 0x15 [47]).message.args 0 = w.val → ((saying 1 0x15 [47] live).window w).life = .free) ∧
    ((saying 2 0x15 [0] live).window 0).life.held? = some smallHeld ∧ smallHeld.owner ≠ (said 2 0x15 [0]).client := by decide

/-- ChannelFifosTakeHostAccesses: 15 words, 16 words, and the other states; a FIFO with and without a response. -/
theorem witness_ChannelFifos : State.reset.resetHeld = false ∧ (State.reset.channel 0).state = .opened ∧
    ({ state := .opened, commands := List.replicate 15 0, responses := [] } : Channel).commands.length < 16 ∧
    16 ≤ ({ state := .opened, commands := List.replicate 16 0, responses := [] } : Channel).commands.length ∧
    (State.reset.channel 7).state ≠ .opened ∧ (maskLanes 1 0x01).toNat % 256 = 1 ∧ (maskLanes 1 0x00).toNat % 256 ≠ 1 ∧
    (State.reset.channel 7).responses = [] ∧
    ((done .queryHead 0 0x23 [0] State.reset).channel 0).responses.length = 3 := by decide

theorem witness_HostPagesAndStatus : (7 : PageNo) ≠ 8 ∧ (1 : WordIndex) ≠ 0 ∧ (1 : WordIndex) ≠ 3 ∧
    ((8 : PageNo) = 8 ∨ ((1 : WordIndex) ≠ 1 ∧ (1 : WordIndex) ≠ 2)) ∧ 31 < 32 ∧ State.reset.resetHeld = false ∧
    ((saying 3 0x10 (List.replicate 15 0) State.reset).channel 3).commands.length ≤ 16 ∧
    ((saying 3 0x10 [] State.reset).channel 3).responses.length ≤ 16 := by decide

/-- ReserveTakesLowestFreeWindow: head 1 permitted, head argument 2, a full quota, a full table, window 1 lowest. -/
theorem witness_Reserve : Takes (saying 1 0x10 [1] reserved) 0x10 1 (said 1 0x10 [1]) ∧
    Takes (saying 1 0x10 [2] reserved) 0x10 1 (said 1 0x10 [2]) := ⟨⟨by decide, rfl, rfl⟩, ⟨by decide, rfl, rfl⟩⟩
theorem witness_Reserve_clauses : argNat (said 1 0x10 [1]).message.args 0 = (1 : HeadId).val ∧
    (reserved.client 1).heads.has 1 = true ∧
    (∀ h : HeadId, argNat (said 1 0x10 [2]).message.args 0 = h.val → (reserved.client 1).heads.has h = false) ∧
    ({ reserved.client 1 with quota := 1 } : Client).held = ({ reserved.client 1 with quota := 1 } : Client).quota ∧
    (reserved.client 1).held ≠ (reserved.client 1).quota ∧ (reserved.window 1).life = .free ∧
    (∀ v : WindowId, v < 1 → (reserved.window v).life ≠ .free) ∧
    (∀ w, (({ reserved with windows := Vector.replicate 48 (reserved.window 0) } : State).window w).life ≠ .free) := by decide

/-- EditChecksItsWindow: an argument 48, a FREE window, another's window, a RETIRING one, a sealed one. -/
theorem witness_EditChecks : Instr.hideWindow.commandRow = some ⟨0x15, 1, false, true, true⟩ ∧
    (saying 1 0x15 [48] live).nextMessage = some (said 1 0x15 [48]) ∧
    (∀ w : WindowId, argNat (said 1 0x15 [48]).message.args 0 ≠ w.val) ∧
    argNat (said 1 0x15 [47]).message.args 0 = (47 : WindowId).val ∧ (live.window 47).life = .free ∧
    (live.window 0).life.held? = some smallHeld ∧ smallHeld.owner = (said 1 0x15 [0]).client ∧
    (Life.retiring smallHeld smallImage none).isRetiring = true ∧ (live.window 0).life.isRetiring = false ∧
    (1 : ClientId) ∈ ((done .commit 1 0x17 [0] (raster .freeRun 3 0 live)).head 0).commitQueue := by decide

/-- PlaceSetsGeometryAndDepth: `test_place_at_the_edges` and `test_place_pitch_and_aperture` meet each clause. -/
theorem witness_Place : Takes (saying 1 0x11 [0, pair 0 0, pair 30 4, 0] reserved) 0x11 4 (said 1 0x11 [0, pair 0 0, pair 30 4, 0]) ∧
    Editable (saying 1 0x11 [0, pair 0 0, pair 30 4, 0] reserved) (said 1 0x11 [0, pair 0 0, pair 30 4, 0]) 0 smallHeld :=
  ⟨⟨by decide, rfl, rfl⟩, editable_reserved _ _⟩
theorem witness_Place_clauses : 4096 < (4095 : Nat) + 2 ∧ ¬ 4096 < (4095 : Nat) + 1 ∧
    smallSource.pitch < (smallSource.scrollX + 31) * smallSource.format.bytes ∧
    ¬ smallSource.pitch < (smallSource.scrollX + 30) * smallSource.format.bytes ∧
    lastByte ⟨0, 0, 30, 127⟩ smallSource none = 12287 ∧ 12287 ≤ 2 * 4096 + 4095 ∧
    ¬ lastByte ⟨0, 0, 30, 128⟩ smallSource none ≤ 2 * 4096 + 4095 := by decide

/-- SourceSetsSourceAndRing: `test_source_ranges` and `test_source_aperture` meet each clause. -/
theorem witness_Source : Takes (saying 1 0x12 [0, 2, 4096, 64, 0, 0x10001] live) 0x12 6 (said 1 0x12 [0, 2, 4096, 64, 0, 0x10001]) ∧
    Editable (saying 1 0x12 [0, 2, 4096, 64, 0, 0x10001] live) (said 1 0x12 [0, 2, 4096, 64, 0, 0x10001]) 0 smallHeld ∧
    argNat [0, 2, 4096, 64, 0, 0x10001] 1 = 2 ∧ argField [0, 2, 4096, 64, 0, 0x10001] 5 16 16 = 1 :=
  ⟨⟨by decide, rfl, rfl⟩, editable_live _ _, by decide, by decide⟩

/-- KeyShowHideEditTheStagedImage: key presence 0, 1 and 2; an image with and without geometry and source. -/
theorem witness_KeyShowHide : Takes (saying 1 0x13 [0, 1, 7] live) 0x13 3 (said 1 0x13 [0, 1, 7]) ∧
    Editable (saying 1 0x13 [0, 1, 7] live) (said 1 0x13 [0, 1, 7]) 0 smallHeld ∧
    (said 1 0x13 [0, 1, 7]).message.args[2]? = some 7 ∧ argNat (said 1 0x13 [0, 0, 7]).message.args 1 = 0 ∧
    1 < argNat (said 1 0x13 [0, 2, 7]).message.args 1 ∧
    Takes (saying 1 0x14 [0] live) 0x14 1 (said 1 0x14 [0]) ∧ Takes (saying 1 0x15 [0] live) 0x15 1 (said 1 0x15 [0]) ∧
    smallHeld.staged.image.geometry ≠ none ∧ smallHeld.staged.image.source ≠ none ∧ Staged.fresh.image.geometry = none :=
  ⟨⟨by decide, rfl, rfl⟩, editable_live _ _, rfl, by decide, by decide, ⟨by decide, rfl, rfl⟩, ⟨by decide, rfl, rfl⟩, by decide,
    by decide, rfl⟩

theorem witness_Retire : Takes (saying 1 0x16 [0] reserved) 0x16 1 (said 1 0x16 [0]) ∧
    Editable (saying 1 0x16 [0] reserved) (said 1 0x16 [0]) 0 smallHeld ∧
    ((saying 1 0x16 [0] reserved).window 0).life = .reserved smallHeld ∧ ((saying 1 0x16 [0] reserved).client 1).state = .opened ∧
    Editable (saying 1 0x16 [0] live) (said 1 0x16 [0]) 0 smallHeld ∧
    ((saying 1 0x16 [0] live).window 0).life = .live smallHeld smallImage none :=
  ⟨⟨by decide, rfl, rfl⟩, editable_reserved _ _, rfl, rfl, editable_live _ _, rfl⟩

/-- CommitQueuesOrApplies: a head not permitted, a client on the queue, a running head with a window, a running head
without one, a STOPPED head. -/
theorem witness_Commit : Takes (saying 1 0x17 [0] (raster .freeRun 3 0 live)) 0x17 1 (said 1 0x17 [0]) ∧
    Takes (saying 1 0x17 [1] (raster .freeRun 3 0 live)) 0x17 1 (said 1 0x17 [1]) :=
  ⟨⟨by decide, rfl, rfl⟩, ⟨by decide, rfl, rfl⟩⟩
theorem witness_Commit_clauses : ((raster .freeRun 3 0 live).client 1).heads.has 0 = true ∧
    (∀ h : HeadId, argNat (said 1 0x17 [2]).message.args 0 = h.val → (live.client 1).heads.has h = false) ∧
    (1 : ClientId) ∉ ((raster .freeRun 3 0 live).head 0).commitQueue ∧ ((raster .freeRun 3 0 live).head 0).state ≠ .stopped ∧
    smallHeld.owner = 1 ∧ smallHeld.head = 0 ∧ ((raster .freeRun 3 0 live).window 0).life = .live smallHeld smallImage none ∧
    (live.head 0).state = .stopped ∧ (raster .freeRun 3 0 live).holdsOn 1 1 = false := by decide

/-- ApplyProcessesWindows: RESERVED; LIVE with retire pending no and yes, with and without references; a window of
another client; an apply of a client with no window on the head. -/
theorem witness_Apply : ([1, 2] : List ClientId).Nodup ∧ smallHeld.owner ∈ ([1, 2] : List ClientId) ∧ smallHeld.head = 0 ∧
    (reserved.window 0).life = .reserved smallHeld ∧ (live.window 0).life = .live smallHeld smallImage none ∧
    smallHeld.staged.retirePending = false ∧ (fetching.window 0).refs ≠ 0 ∧ (live.window 0).refs = 0 ∧
    smallHeld.owner ∉ ([2] : List ClientId) ∧ live.holdsOn 1 0 = true ∧
    live.holdsOn 2 0 = false ∧ (2 : ClientId) ∉ ([1] : List ClientId) ∧ (live.client 1).state ≠ .closing ∧
    ((applyClients 0 [1] live).client 1).state ≠ .closed := by decide

/-- QueryWindowReportsTheRecord: the three views, view 3, a FREE window, the supervisor and another tenant. -/
theorem witness_QueryWindow : Takes (saying 1 0x18 [0, 2] live) 0x18 2 (said 1 0x18 [0, 2]) ∧
    (live.window 0).life.held? = some smallHeld ∧ smallHeld.owner = (said 1 0x18 [0, 2]).client ∧
    argNat (said 1 0x18 [0, 2]).message.args 1 ≤ 2 ∧ 2 < argNat (said 1 0x18 [0, 3]).message.args 1 ∧
    smallHeld.owner ≠ (said 2 0x18 [0, 0]).client ∧ (live.window 0).refs ≤ 784 ∧ smallImage.inRange ∧
    (∀ a, (live.window 0).life.fault? = some a → a < 2 ^ 32) ∧
    (∀ w : WindowId, argNat (said 0 0x18 [47, 0]).message.args 0 = w.val → (live.window w).life = .free) := by
  refine ⟨⟨by decide, rfl, rfl⟩, rfl, rfl, by decide, by decide, by decide, by decide, ⟨by decide, ?_, ?_, ?_⟩, ?_, by decide⟩
  · intro g h; cases h; decide
  · intro src h; cases h; exact ⟨by decide, by decide⟩
  · intro r h; exact nomatch h
  · intro a h; exact nomatch h

/-- SetTimingAndStartHead: a STOPPED head with and without a set, a running head, a set that is not valid; both modes. -/
theorem witness_SetTimingAndStartHead : Takes (saying 0 0x20 (timingWords 1) live) 0x20 7 (said 0 0x20 (timingWords 1)) ∧
    Takes (saying 0 0x21 [0, 1] live) 0x21 2 (said 0 0x21 [0, 1]) := ⟨⟨by decide, rfl, rfl⟩, ⟨by decide, rfl, rfl⟩⟩
theorem witness_SetTimingAndStartHead_clauses : argField (timingWords 1) 5 15 0 = (1 : HeadId).val ∧ timingOf (timingWords 1) = smallSet ∧
    smallSet.valid = true ∧ ({ smallSet with commitLine := 17 } : TimingSet).valid = false ∧ (live.head 1).state = .stopped ∧
    ((raster .freeRun 0 0 live).head 0).state ≠ .stopped ∧ (live.head 0).timing = none ∧
    ((raster .stopped 0 0 live).head 0).timing ≠ none ∧ argNat (said 0 0x21 [0, 1]).message.args 1 ≤ 1 := by decide

theorem witness_StopHead : Takes (saying 0 0x22 [0] fetching) 0x22 1 (said 0 0x22 [0]) ∧
    argNat (said 0 0x22 [0]).message.args 0 = (0 : HeadId).val ∧ (fetching.head 0).state ≠ .stopped ∧ (live.head 0).state = .stopped :=
  ⟨⟨by decide, rfl, rfl⟩, by decide, by decide, by decide⟩

/-- StopHeadEmptiesAndApplies with a queued client, which is not CLOSED after the releases. -/
theorem witness_StopHead_queued :
    let s := saying 0 0x22 [0] (fetching.setHead 0 { fetching.head 0 with commitQueue := [1] })
    Takes s 0x22 1 (said 0 0x22 [0]) ∧ (s.head 0).state ≠ .stopped ∧ (1 : ClientId) ∈ (s.head 0).commitQueue ∧
    ¬ Closes s (stopRunning 0 s) 1 := ⟨⟨by decide, rfl, rfl⟩, by decide, by decide, by decide⟩

/-- Window 0 of `fetching` RETIRING: its segment's and its tag's reference are its last. -/
def draining : State := fetching.setWindow 0 { life := .retiring smallHeld smallImage none, refs := 2 }
/-- FreesReleased, ReportsFreed: a RETIRING window with references, at and before its last release; an OPEN owner, and a
CLOSING one whose last window it is. -/
theorem witness_FreesReleased : (draining.window 0).life.isRetiring = true ∧ 0 < (draining.window 0).refs ∧
    (∀ w, (draining.window w).life.isRetiring = true → 0 < (draining.window w).refs) ∧
    freedBy draining [0, 0] = [0] ∧ freedBy draining [0] = [] ∧ (draining.window 0).owner? = some 1 ∧
    (draining.client 1).state = .opened ∧ (draining.client 1).held = (draining.ownedBy 1).length ∧
    (({ draining.client 1 with state := .closing } : Client)).held = [(0 : WindowId)].length := by decide
/-- HeadKept, queueLeft: a CLOSING client becomes CLOSED by the releases and leaves the queue; an OPEN one stays. -/
theorem witness_queueLeft :
    let s := (draining.setClient 1 { draining.client 1 with state := .closing }).setHead 1
      { draining.head 1 with commitQueue := [2, 1, 0] }
    queueLeft s (releaseRefs [0, 0] s) 1 = [2, 0] ∧ queueLeft s (releaseRefs [0] s) 1 = [2, 1, 0] := by decide
/-- CursorKept: a place whose segment is PENDING, and one whose segment is PENDING no more. -/
theorem witness_CursorKept : (unissued.head 0).cursor[1] = some ⟨1, 0, 0⟩ ∧ (fetching.head 0).cursor[1] = none ∧
    PendingAt [⟨0, 3, []⟩, ⟨4, 11, [{ filled 0 .p16 none [] with status := .pending }]⟩] 1 0 ∧
    ¬ PendingAt [⟨0, 3, []⟩, ⟨4, 11, [filled 0 .p16 none []]⟩] 1 0 := by
  refine ⟨by decide, by decide, ⟨_, rfl, rfl⟩, ?_⟩
  rintro ⟨l, hl, hp⟩
  cases hl
  exact nomatch hp

/-- CommandsCheckWhoAndWhom: a tenant; head arguments 2; mode 2; a tenant's head not permitted; client arguments 8 and 0. -/
theorem witness_CommandsCheck : Instr.stopHead.commandRow = some ⟨0x22, 1, true, false, false⟩ ∧
    Takes (saying 1 0x22 [0] live) 0x22 1 (said 1 0x22 [0]) ∧ (∀ h : HeadId, (2 : Nat) ≠ h.val) ∧
    Takes (saying 0 0x20 (timingWords 2) live) 0x20 7 (said 0 0x20 (timingWords 2)) ∧
    Takes (saying 0 0x21 [2, 0] live) 0x21 2 (said 0 0x21 [2, 0]) ∧ Takes (saying 0 0x22 [2] live) 0x22 1 (said 0 0x22 [2]) ∧
    Takes (saying 0 0x23 [2] live) 0x23 1 (said 0 0x23 [2]) ∧ 1 < argNat (said 0 0x21 [0, 2]).message.args 1 ∧
    Takes (saying 2 0x23 [0] live) 0x23 1 (said 2 0x23 [0]) ∧ ((saying 2 0x23 [0] live).client 2).heads.has 0 = false ∧
    Takes (saying 0 0x31 [8] live) 0x31 1 (said 0 0x31 [8]) ∧ 7 < argNat (said 0 0x31 [8]).message.args 0 ∧
    argNat (said 0 0x31 [0]).message.args 0 = 0 :=
  ⟨rfl, ⟨by decide, rfl, rfl⟩, by decide, ⟨by decide, rfl, rfl⟩, ⟨by decide, rfl, rfl⟩, ⟨by decide, rfl, rfl⟩, ⟨by decide, rfl, rfl⟩,
    by decide, ⟨by decide, rfl, rfl⟩, by decide, ⟨by decide, rfl, rfl⟩, by decide, by decide⟩

theorem witness_Queries : Takes (saying 1 0x23 [0] live) 0x23 1 (said 1 0x23 [0]) ∧ ((saying 1 0x23 [0] live).client 1).heads.has 0 = true ∧
    (live.head 0).misses ≤ 3 ∧ (live.head 0).line ≤ 4095 ∧ Takes (saying 1 0x34 [1] live) 0x34 1 (said 1 0x34 [1]) ∧
    7 < argNat (said 1 0x34 [8]).message.args 0 ∧ argNat (said 1 0x34 [1]).message.args 0 = (1 : ClientId).val ∧
    (said 1 0x34 [2]).client ≠ 2 ∧ (live.client 1).quota ≤ 48 ∧ (live.client 1).held ≤ 48 ∧
    (∀ a, (live.client 1).aperture = some a → a.base ≤ 1048575 ∧ a.limit ≤ 1048575) :=
  ⟨⟨by decide, rfl, rfl⟩, by decide, by decide, by decide, ⟨by decide, rfl, rfl⟩, by decide, by decide, by decide, by decide, by decide,
    fun a h => by cases h; decide⟩

/-- OpenClientGrantsAndOpens: the three client states; quota 48 and 49; permitted heads 3 and 4; limits at their ends. -/
theorem witness_OpenClient : Takes (saying 0 0x30 [3, packWord [(7, 0, 48), (15, 8, 3)], 0, 1048575] live) 0x30 4
      (said 0 0x30 [3, packWord [(7, 0, 48), (15, 8, 3)], 0, 1048575]) ∧
    (live.client 3).state = .closed ∧ (live.client 1).state = .opened ∧
    ((done .closeClient 0 0x31 [1] (raster .freeRun 3 0 live)).client 1).state = .closing ∧
    argField [3, packWord [(7, 0, 48), (15, 8, 3)]] 1 7 0 = 48 ∧ argField [3, packWord [(7, 0, 48), (15, 8, 3)]] 1 15 8 = 3 ∧
    48 < argField [3, packWord [(7, 0, 49)]] 1 7 0 ∧ 3 < argField [3, packWord [(15, 8, 4)]] 1 15 8 ∧
    argNat [3, 0, 0, 1048575] 3 = 1048575 ∧ 1048575 < argNat [3, 0, 0, 1048576] 3 :=
  ⟨⟨by decide, rfl, rfl⟩, by decide, by decide, by decide, by decide, by decide, by decide, by decide, by decide, by decide⟩

/-- CloseClientDrainsItsWindows: OPEN with a RESERVED and with a LIVE window, on a STOPPED and on a running head. -/
theorem witness_CloseClient : HeldLaw (saying 0 0x31 [1] (raster .freeRun 3 0 live)) ∧ HeldLaw (saying 0 0x31 [1] reserved) ∧
    Takes (saying 0 0x31 [1] (raster .freeRun 3 0 live)) 0x31 1 (said 0 0x31 [1]) := by
  refine ⟨?_, ?_, by decide, rfl, rfl⟩
  · unfold HeldLaw; decide
  · unfold HeldLaw; decide
theorem witness_CloseClient_clauses : (live.client 1).state = .opened ∧ (live.client 2).state = .closed ∧
    (live.window 0).life = .live smallHeld smallImage none ∧ smallHeld.owner = 1 ∧ (live.head smallHeld.head).state = .stopped ∧
    ((raster .freeRun 3 0 live).head smallHeld.head).state ≠ .stopped ∧ (reserved.window 0).life = .reserved smallHeld ∧
    (live.window 1).owner? ≠ some 1 ∧ live.holdsOn 1 1 = false ∧
    ((done .closeClient 0 0x31 [1] live).client 1).state = .closed ∧
    ((done .closeClient 0 0x31 [1] (fetching.setHead 0 { fetching.head 0 with state := .stopped })).client 1).state ≠ .closed := by decide

/-- ApertureAndHeadsAreReplaced: `test_set_aperture` and `test_set_heads` meet each clause. -/
theorem witness_ApertureAndHeads : Takes (saying 0 0x32 [1, 1, 1] live) 0x32 3 (said 0 0x32 [1, 1, 1]) ∧
    Takes (saying 0 0x33 [1, 1] live) 0x33 2 (said 0 0x33 [1, 1]) ∧ (live.client 1).state = .opened ∧
    (live.window 0).life.held? = some smallHeld ∧ smallHeld.owner = 1 ∧ smallImage.geometry = some smallGeometry ∧
    smallImage.source = some smallSource ∧ lastByte smallGeometry smallSource none ≤ 1 * 4096 + 4095 ∧ ¬ 2 * 4096 ≤ smallSource.base :=
  ⟨⟨by decide, rfl, rfl⟩, ⟨by decide, rfl, rfl⟩, by decide, by decide, rfl, rfl, rfl, by decide, by decide⟩

theorem witness_Reclaim : Takes (saying 0 0x40 [] live) 0x40 0 (said 0 0x40 []) ∧
    Takes (saying 1 0x40 [] live) 0x40 0 (said 1 0x40 []) ∧ (said 1 0x40 []).client ≠ 0 :=
  ⟨⟨by decide, rfl, rfl⟩, ⟨by decide, rfl, rfl⟩, by decide⟩

/-- OpenClientGrantsAndOpens, CloseClientDrainsItsWindows, ApertureAndHeadsAreReplaced, with client argument 0. -/
theorem witness_ClientZero : Takes (saying 0 0x30 [0, 0, 0, 0] live) 0x30 4 (said 0 0x30 [0, 0, 0, 0]) ∧
    Takes (saying 0 0x31 [0] live) 0x31 1 (said 0 0x31 [0]) ∧ Takes (saying 0 0x32 [0, 0, 0] live) 0x32 3 (said 0 0x32 [0, 0, 0]) ∧
    Takes (saying 0 0x33 [0, 0] live) 0x33 2 (said 0 0x33 [0, 0]) ∧ argNat (said 0 0x31 [0]).message.args 0 = (0 : ClientId).val :=
  ⟨⟨by decide, rfl, rfl⟩, ⟨by decide, rfl, rfl⟩, ⟨by decide, rfl, rfl⟩, ⟨by decide, rfl, rfl⟩, by decide⟩

/-- NoticeCommandsActOnTheIssuersRecord: kind sets 31, 32, 1,023 and 1,024, of a tenant and of client 0. -/
theorem witness_NoticeCommands : Takes (saying 1 0x50 [] live) 0x50 0 (said 1 0x50 []) ∧
    Takes (saying 1 0x51 [31] live) 0x51 1 (said 1 0x51 [31]) ∧ argNat (said 1 0x51 [31]).message.args 0 < 32 ∧
    32 ≤ argNat (said 1 0x51 [32]).message.args 0 ∧ argNat (said 0 0x51 [1023]).message.args 0 < 1024 ∧
    1024 ≤ argNat (said 0 0x51 [1024]).message.args 0 :=
  ⟨⟨by decide, rfl, rfl⟩, ⟨by decide, rfl, rfl⟩, by decide, by decide, by decide, by decide⟩

/-- PixelPeriodsAndLineStarts: STOPPED; pixel 62 and 63 of 64; the first line start pending; a slot shown. -/
theorem witness_PixelPeriod : (live.head 0).state = .stopped ∧ ((raster .freeRun 3 62 live).head 0).timing = some smallSet ∧
    ((raster .freeRun 3 62 live).head 0).activeStartDue = false ∧ 62 + 1 ≠ smallSet.lineTotal ∧ 63 + 1 = smallSet.lineTotal ∧
    ((raster .freeRun 3 63 live).head 0).activeStartDue = false ∧ ((raster .freeRun 3 62 live).head 0).showing = none ∧
    ((raster .freeRun 6 35 live).head 0).activeHigh = true ∧ ((raster .freeRun 6 36 live).head 0).activeHigh = false ∧
    ({ (raster .freeRun 6 35 live).head 0 with showing := some ⟨1, 31⟩ } : Head).activeHigh = true ∧
    ((raster .freeRun 6 3 live).head 0).activeStartDue = true ∧ ((raster .freeRun 6 4 live).head 0).activeStartDue = false ∧
    ({ (ending .holdover 19 live).head 0 with misses := 2 } : Head).lossDue = true ∧ (live.head 0).lossDue = false := by decide

/-- The line start statements: `LineEnds` at the last pixel of line 3 and of line 19, with a pending wrap, in each
state; the frames that are good and that are not. -/
theorem witness_LineEnds : LineEnds (ending .freeRun 3 live) 0 smallSet ∧ LineEnds (ending .locked 19 live) 0 smallSet ∧
    FrameEnds ((ending .locked 19 live).head 0) smallSet ∧ ¬ FrameEnds ((ending .freeRun 18 live).head 0) smallSet := by
  refine ⟨⟨by decide, by decide, by decide, by decide⟩, ⟨by decide, by decide, by decide, by decide⟩, .inr (by decide), ?_⟩
  unfold FrameEnds; decide
theorem witness_LineStartMovesTheCounters :
    let s := done .startHead 0 0x21 [0, 0] (raster .stopped 0 0 live)
    (s.head 0).timing = some smallSet ∧ (s.head 0).state ≠ .stopped ∧ (s.head 0).startPending = true := by decide

/-- LineStartResolvesTwoAhead: line 5 ends, line 8 is resolved (active); line 16 would not be; line 14 ends, 15 is the
commit line, and client 1 is queued. -/
theorem witness_LineStartResolvesTwoAhead :
    let s := (ending .freeRun 5 live).setHead 0 { (ending .freeRun 5 live).head 0 with
      slots := (Vector.replicate 3 Slot.empty).set 1 (.blank 5) }
    (s.head 0).pendingWrap = false ∧ (s.head 0).lossDue = false ∧ slotOfLine (s.head 0) (s.head 0).line = some 1 ∧
    6 ≠ smallSet.commitLine ∧ smallSet.isActive 8 = true ∧ smallSet.isActive 16 = false ∧ 14 + 1 = smallSet.commitLine ∧
    (s.head 0).timing = some smallSet ∧ (s.head 0).state ≠ .stopped ∧ (s.head 0).startPending = false ∧
    (s.head 0).pixel + 1 = smallSet.lineTotal ∧ (s.head 0).line + 1 ≠ smallSet.frameTotal := by decide
theorem witness_LineStartResolvesTwoAhead_commit :
    let s := (ending .freeRun 14 live).setHead 0 { (ending .freeRun 14 live).head 0 with
      slots := (Vector.replicate 3 Slot.empty).set 1 (.blank 14), commitQueue := [1] }
    LineEnds s 0 smallSet ∧ (s.head 0).pendingWrap = false ∧ (s.head 0).lossDue = false ∧
    slotOfLine (s.head 0) (s.head 0).line = some 1 ∧ smallSet.valid = true ∧ HeldLaw s ∧ QueueLaw s ∧
    smallHeld.owner ∈ (s.head 0).commitQueue ∧ s.holdsOn 1 0 = true := by
  refine ⟨⟨by decide, by decide, by decide, by decide⟩, by decide, by decide, by decide, by decide, ?_, ?_, by decide, by decide⟩
  · unfold HeldLaw; decide
  · unfold QueueLaw; decide
/-- Its FETCHING clause, and the last piece of PieceStaysInItsBlock: the first PENDING segment of a walk. -/
theorem witness_FirstPending : FirstPending [⟨0, 3, []⟩, ⟨4, 11, [{ filled 0 .p16 none [] with status := .pending }]⟩]
    (fun _ _ => True) ⟨1, 0, 0⟩ := by
  refine ⟨rfl, trivial, ⟨_, rfl, rfl⟩, ?_⟩
  rintro i j l - (h | ⟨-, h⟩) hl
  · obtain rfl : i = 0 := Nat.lt_one_iff.mp h
    simp [layerAt] at hl
  · exact absurd h (Nat.not_lt_zero j)

/-- LineStartResolvesTwoAhead: the locking wrap of a SEEKING head from its last line. -/
theorem witness_LineStartResolvesTwoAhead_locking :
    let s := (ending .seeking 19 live).setHead 0 { (ending .seeking 19 live).head 0 with
      slots := (Vector.replicate 3 Slot.empty).set 2 (.blank 19), pendingWrap := true }
    (s.head 0).line + 1 = smallSet.frameTotal ∧ (s.head 0).lossDue = false ∧ (s.head 0).state = .seeking ∧
    slotOfLine (s.head 0) (s.head 0).line = some 2 ∧ (0 + 2) % smallSet.frameTotal = 2 ∧ 0 ≠ smallSet.commitLine ∧
    (s.head 0).pixel + 1 = smallSet.lineTotal ∧ (s.head 0).timing = some smallSet ∧ (s.head 0).startPending = false := by decide

/-- PendingWrapTakesLineZero: SEEKING at line 7 and before the first line start; LOCKED at line 2. -/
theorem witness_PendingWrapTakesLineZero :
    let s := (ending .seeking 7 live).setHead 0 { (ending .seeking 7 live).head 0 with pendingWrap := true }
    let u := (ending .locked 2 live).setHead 0 { (ending .locked 2 live).head 0 with pendingWrap := true }
    s.client 0 = { Client.supervisor with held := (s.client 0).held } ∧ (s.head 0).pendingWrap = true ∧ (s.head 0).state = .seeking ∧
    (u.head 0).state = .locked ∧ (u.head 0).line + 1 ≠ smallSet.frameTotal ∧ (u.head 0).lossDue = false ∧
    (u.head 0).pixel + 1 = smallSet.lineTotal ∧ (u.head 0).timing = some smallSet ∧ (u.head 0).pendingWrap = true ∧
    u.client 0 = { Client.supervisor with held := (u.client 0).held } ∧ (s.head 0).timing = some smallSet ∧
    (s.head 0).pixel + 1 = smallSet.lineTotal ∧ (s.head 0).startPending = false ∧ (u.head 0).startPending = false ∧
    (s.head 0).line + 1 ≠ smallSet.frameTotal ∧ smallSet.valid = true ∧
    ((done .startHead 0 0x21 [0, 1] (raster .stopped 0 0 live)).head 0).startPending = true ∧
    ((done .startHead 0 0x21 [0, 1] (raster .stopped 0 0 live)).head 0).state = .seeking := by decide

/-- FrameEndIsJudged, LossOfLockEmptiesTheHead: a good frame, a first, a second and a third miss. -/
theorem witness_FrameJudgement :
    let s := ending .holdover 19 live
    ((s.head 0).state = .locked ∨ (s.head 0).state = .holdover) ∧ ¬ ((s.head 0).tally = .one ∧ (s.head 0).bandMark = true) ∧
    (s.head 0).misses + 1 ≠ 3 ∧ ({ s.head 0 with misses := 2 } : Head).misses + 1 = 3 ∧
    ({ s.head 0 with tally := .one, bandMark := true } : Head).frameGood = true ∧
    (s.head 0).timing = some smallSet ∧ (s.head 0).startPending = false ∧ (s.head 0).pixel + 1 = smallSet.lineTotal ∧
    (s.head 0).line + 1 = smallSet.frameTotal ∧
    s.client 0 = { Client.supervisor with held := (s.client 0).held } := by decide

theorem witness_LineStartAgesTags :
    let s := (ending .freeRun 3 live).setTag 2 { Tag.reset with state := .stale, age := 3 }
    s.client 0 = { Client.supervisor with held := (s.client 0).held } ∧ (s.head 0).lineStartDue = true ∧ (s.tag 2).head = 0 ∧
    (s.tag 2).state = .stale ∧ (s.tag 2).age = 3 ∧
    (∀ v : TagNo, v < 2 → ¬ ((s.tag v).head = 0 ∧ ((s.tag v).state = .active ∨ (s.tag v).state = .stale) ∧ (s.tag v).age = 3)) := by
  decide

/-- MarkArrivalUpdatesTheFollowRecord: each state; the edges of the band at lines 2, 3, 17, 18 and 19. -/
theorem witness_MarkArrival : live.resetHeld = false ∧ ((raster .freeRun 3 0 live).head 0).state = .freeRun ∧
    ((raster .seeking 3 0 live).head 0).state = .seeking ∧ ((raster .locked 18 0 live).head 0).timing = some smallSet ∧
    16 ≤ smallSet.frameTotal ∧ smallSet.captureBand ≤ 15 ∧ 19 < smallSet.frameTotal ∧ smallSet.inBand 2 = true ∧
    smallSet.inBand 3 = false ∧ smallSet.inBand 17 = false ∧ smallSet.inBand 18 = true ∧ smallSet.inBand 19 = true := by decide

theorem witness_OutputsFollowTheState : ((raster .freeRun 6 4 live).head 0).startPending = false ∧
    ((raster .freeRun 6 4 live).head 0).state ≠ .stopped ∧ ((raster .freeRun 6 4 live).head 0).timing = some smallSet ∧
    ((raster .freeRun 6 4 live).head 0).activeHigh = true ∧ ((raster .freeRun 6 3 live).head 0).activeHigh = false ∧
    (live.head 0).state = .stopped ∧
    ((done .startHead 0 0x21 [0, 0] (raster .stopped 0 0 live)).head 0).startPending = true := by decide

/-- ActiveStartSettlesAndShowsTheSlot: a FETCHING, a COMPLETE and a BLANK slot; SEEKING. -/
theorem witness_ActiveStart :
    let s := raster .freeRun 8 3 fetching
    (s.head 0).activeStartDue = true ∧ (s.head 0).state.displaying = true ∧ slotOfLine (s.head 0) (s.head 0).line = some 1 ∧
    (s.head 0).slots[1].content?.map ActiveLine.phase = some .fetching ∧ ((raster .seeking 8 3 fetching).head 0).activeStartDue = true ∧
    ((raster .seeking 8 3 fetching).head 0).state.displaying = false ∧ (s.client 1).state = .opened := by decide

/-- RequestIssueServesTheArbitersChoice: an offer, a full Tag Table, no request. -/
theorem witness_RequestIssue : (arbitrated unissued).isSome = true ∧ (unissued.tag 0).state = .free ∧ arbitrated live = none ∧
    nextRequest 1 unissued = none ∧ (nextRequest 0 unissued).map Request.line = some 8 ∧
    (∀ t, (({ live with tags := Vector.replicate 16 { Tag.reset with state := .active } } : State).tag t).state ≠ .free) := by decide

/-- Both heads with the same request, not urgent on line 6. -/
def bothHeads : State := unissued.setHead 1 (unissued.head 0)
theorem witness_Arbiter : (nextRequest 0 bothHeads).isSome = true ∧ (nextRequest 1 bothHeads).isSome = true ∧ bothHeads.lastServed = 1 ∧
    (nextRequest 0 bothHeads).map (urgent bothHeads) = some false ∧
    (nextRequest 1 (bothHeads.setHead 1 { bothHeads.head 1 with line := 7 })).map
      (urgent (bothHeads.setHead 1 { bothHeads.head 1 with line := 7 })) = some true := by decide

theorem witness_PieceStaysInItsBlock : (0 : Nat) < 1 ∧ pieceBytes 255 1 0 = 1 ∧ pieceBytes 256 4096 0 = 256 ∧
    ((fetching.head 0).slots[1].content?.bind (fun a => layerAt a.spans 1 0)).map Layer.status = some .pending := by decide

/-- OkResponseFillsTheSegment, ErrorResponseDropsTheSegment. -/
theorem witness_Responses : fetching.resetHeld = false ∧ (fetching.tag 0).state = .active ∧
    ((fetching.head 0).slots[1].content?.bind (fun a => layerAt a.spans 1 0)).map (fun l => (l.status, l.window, l.firstByte)) =
      some (.pending, (fetching.tag 0).window, (fetching.tag 0).address) ∧
    2 ≤ (fetching.window (fetching.tag 0).window).refs ∧ (fetching.window 0).life = .live smallHeld smallImage none := by decide

/-- LateAndStrayResponsesAreDiscarded: a FREE, a STALE and an ABANDONED tag; a window that is RETIRING with 1 and 2
references, and one that is not. -/
theorem witness_LateResponses : live.resetHeld = false ∧ (live.tag 0).state = .free ∧
    ({ fetching.tag 0 with state := .stale } : Tag).state = .stale ∧ (live.window 0).life.isRetiring = false ∧
    ((tenant (.retiring smallHeld smallImage none) 1 State.reset).window 0).life.isRetiring = true ∧
    ((tenant (.retiring smallHeld smallImage none) 1 State.reset).window 0).refs = 1 ∧
    1 < ((tenant (.retiring smallHeld smallImage none) 2 State.reset).window 0).refs := by decide

/-- CoversAreClippedToTheLine. -/
theorem witness_Covers :
    let s := fetching
    (s.head 0).depthList = [0] ∧ (s.window 0).life = .live smallHeld smallImage none ∧ smallGeometry.y ≤ 5 ∧
    5 < smallGeometry.y + smallGeometry.height ∧ smallGeometry.x < 5 ∧ 1 ≤ smallGeometry.width ∧
    (coversOf 5 5 0 s).map (fun c => (c.window, c.lo, c.past)) = [(0, 4, 5)] ∧ (coversOf 6 5 0 s) = [] := by decide

/-- ResolvedSpansTileTheLine, EachColumnShowsItsTopWindows, SegmentsLieInTheSourceExtent: the line of 5.8. -/
theorem witness_Resolution :
    let cs := [band 4 .p32 100 300 800 (some 0), band 7 .p32 300 300 800 none, band 3 .p16 0 800 800 none]
    (∀ c ∈ cs, c.lo < c.past ∧ c.past ≤ 800) ∧ 799 < 800 ∧ (resolveLine 80 800 cs).spans.length < 32 ∧
    (∀ c ∈ [band 3 .p16 0 500 800 none], c.lo = c.geometry.x ∧ c.past ≤ c.geometry.x + c.geometry.width ∧ c.geometry.y ≤ 80 ∧
      80 < c.geometry.y + c.geometry.height ∧ (c.source.scrollX + c.geometry.width) * c.source.format.bytes ≤ c.source.pitch) ∧
    (cs.map Cover.window).Nodup := by decide

theorem witness_Pixels :
    (filled 3 .p16 none [(100, 8), (101, 133)]).byteAt? 100 = some 8 ∧ (filled 3 .p16 none [(100, 8), (101, 133)]).byteAt? 101 = some 133 ∧
    (filled 4 .p32 (some 16711935) [(200, 255), (201, 0), (202, 255)]).byteAt? 202 = some 255 ∧
    (filled 4 .p32 (some 16711935) [(200, 255), (201, 0), (202, 255)]).transparentAt 200 = true := by decide

/-- FirstVisibleLayerMakesThePixel: position 12 of the second of two spans; no slot. -/
theorem witness_FirstVisibleLayer :
    let a : ActiveLine := ⟨.showing, 8, [⟨0, 11, []⟩, ⟨12, 31, [filled 3 .p16 none [(0, 8), (1, 133)]]⟩], 0⟩
    a.spans = [⟨0, 11, []⟩] ++ ⟨12, 31, [filled 3 .p16 none [(0, 8), (1, 133)]]⟩ :: [] ∧ ¬ (0 ≤ 12 ∧ 12 ≤ 11) ∧
    (filled 3 .p16 none [(0, 8), (1, 133)]).transparentAt ((12 - 12) * 2) = false ∧ (live.head 0).showing = none := by decide

/-! The laws of every state are met by `fetching`, which has a LIVE window, a FETCHING slot and an ACTIVE tag. -/

/-- Every window of `fetching` but window 0 is FREE with no references. -/
theorem fetching_windows (w : WindowId) : w = 0 ∨ (fetching.window w).life = .free ∧ (fetching.window w).refs = 0 := by
  revert w; decide

/-- Every slot of `fetching` but slot 1 of head 0 is EMPTY. -/
theorem fetching_slots (h : HeadId) (k : SlotNo) : (h = 0 ∧ k = 1) ∨ (fetching.head h).slots[k] = .empty := by
  revert h k; decide

theorem witness_StepKeepsReferencesCounted : ReferenceLaw fetching := by
  refine ⟨by unfold RefsCounted; decide, by unfold StoppedSlotsEmpty; decide, ?_⟩
  intro w
  rcases fetching_windows w with h | ⟨h, h'⟩
  · subst h; exact trivial
  · rw [h]; exact h'
theorem witness_StepKeepsHeldCounts : HeldLaw fetching := by unfold HeldLaw; decide
theorem witness_StepKeepsCommitQueues :
    QueueLaw (fetching.setHead 0 { fetching.head 0 with commitQueue := [1] }) := by unfold QueueLaw; decide
theorem witness_StepKeepsDepthLists : DepthListLaw fetching := by unfold DepthListLaw; decide
theorem witness_StepKeepsImagesInApertures : ApertureLaw fetching := by
  intro w hd hh
  rcases fetching_windows w with h | ⟨h, -⟩
  · subst h; cases hh; exact ⟨by decide, fun img hi => by cases hi; decide⟩
  · rw [h] at hh; exact nomatch hh
theorem witness_StepKeepsSlots : SlotLaw fetching := by
  intro h
  refine ⟨by revert h; decide, ?_⟩
  intro k a ha
  rcases fetching_slots h k with ⟨rfl, rfl⟩ | e
  · cases ha
    exact ⟨smallSet, rfl, ⟨by decide, by decide, ⟨rfl, by decide, rfl, by decide, rfl, by decide, rfl⟩, by
      intro sp hs
      simp only [List.mem_cons, List.not_mem_nil, or_false] at hs
      rcases hs with rfl | rfl | rfl <;> exact ⟨by decide, trivial⟩, by decide⟩, fun hp => absurd rfl hp⟩
  · rw [e] at ha; exact nomatch ha
theorem witness_StepKeepsTiming : TimingLaw fetching := by
  intro h
  have this : h = 0 ∨ h = 1 := by revert h; decide
  rcases this with rfl | rfl
  · exact ⟨by decide, fun _ => by decide⟩
  · exact rfl
theorem witness_StepKeepsFollowRecords : FollowLaw fetching := by
  intro h
  have this : h = 0 ∨ h = 1 := by revert h; decide
  rcases this with rfl | rfl <;> exact ⟨rfl, rfl, rfl, rfl⟩
theorem witness_StepKeepsChannelsAndSupervisor : ChannelLaw (done .openClient 0 0x30 [3, 0, 0, 0] State.reset) ∧
    SupervisorLaw fetching := by
  constructor
  · unfold ChannelLaw; decide
  · unfold SupervisorLaw; decide
theorem witness_StepKeepsTagsNoticesAndBytes : TagLaw fetching ∧ TenantNoticeLaw fetching ∧ BytesLaw fetching := by
  refine ⟨by unfold TagLaw; decide, by unfold TenantNoticeLaw NoticeRecord.noSupervisorKind; decide, ?_⟩
  intro h k a ha l hl
  rcases fetching_slots h k with ⟨rfl, rfl⟩ | e
  · cases ha
    simp only [walkLayers, List.flatMap_cons, List.flatMap_nil, List.nil_append, List.append_nil, List.mem_singleton] at hl
    subst hl
    decide
  · rw [e] at ha; exact nomatch ha
theorem witness_StepKeepsImageLaw : ImageLaw fetching := by
  intro w hd hh
  rcases fetching_windows w with h | ⟨h, -⟩
  · subst h
    have fine : smallImage.inRange ∧ smallImage.pitchFits := by
      refine ⟨⟨by decide, ?_, ?_, ?_⟩, ?_⟩
      · rintro g ⟨⟩; decide
      · rintro src ⟨⟩; decide
      · rintro r ⟨⟩
      · rintro g src ⟨⟩ ⟨⟩; decide
    cases hh
    exact ⟨fine, fun img hi => by cases hi; exact fine⟩
  · rw [h] at hh; exact nomatch hh
theorem witness_StepKeepsServeLaw : ServeLaw fetching ∧ StoppedSlotsEmpty fetching := by
  refine ⟨⟨?_, ?_, ?_⟩, by unfold StoppedSlotsEmpty; decide⟩
  · intro t ht
    obtain rfl : t = 0 := by revert t; decide
    exact ⟨_, _, _, rfl, by decide, rfl, rfl, by decide, by decide, by decide, by decide, by decide⟩
  · intro h k p hp
    have none' : ∀ (h : HeadId) (k : SlotNo), (fetching.head h).cursor[k] = none := by decide
    rw [none' h k] at hp; exact nomatch hp
  · intro h k a i j sp l ha hs hl hp
    rcases fetching_slots h k with ⟨rfl, rfl⟩ | e
    · cases ha
      match i, hs with
      | 0, hs => cases hs; exact absurd hl (by simp)
      | 1, hs =>
        cases hs
        match j, hl with
        | 0, hl => cases hl; decide
        | j + 1, hl => exact absurd hl (by simp)
      | 2, hs => cases hs; exact absurd hl (by simp)
      | i + 3, hs => exact absurd hs (by simp)
    · rw [e] at ha; exact nomatch ha
/-- A step from each of them answers a next state. -/
theorem witness_StepKeeps_steps : step { fetching with pending := [.responseArrival [] ⟨0, .ok, [1]⟩] } =
    .next (after fetching (exec (.responseArrival [] ⟨0, .ok, [1]⟩) fetching)) := rfl

theorem witness_TenantMessage : (saying 1 0x15 [0] live).nextMessage = some (said 1 0x15 [0]) ∧ (said 1 0x15 [0]).client ≠ 0 ∧
    Instr.hideWindow.commandRow = some ⟨0x15, 1, false, true, true⟩ ∧
    exec .hideWindow (saying 1 0x15 [0] live) = .next (done .hideWindow 1 0x15 [0] live) := ⟨by decide, by decide, rfl, rfl⟩

end Sys2Proof.Tests
end

section
/-! Proofs of the family of the window table (01): the arguments of window commands, the effects of RESERVE and
RETIRE, the words of QUERY_WINDOW, and device reset. -/

namespace Sys2Proof.Machine

/-! ### Numbers that name a record (R174) -/

theorem windowNamed_eq_some {n : Nat} {w : WindowId} : windowNamed n = some w ↔ n = w.val := by
  unfold windowNamed
  split <;> simp [Fin.ext_iff]
  omega

theorem headNamed_eq_some {n : Nat} {h : HeadId} : headNamed n = some h ↔ n = h.val := by
  unfold headNamed
  split <;> simp [Fin.ext_iff]
  omega

/-- R8, R32: an argument picks a head when it names one that the client is permitted. -/
theorem Client.permittedHead_eq_some {k : Client} {n : Nat} {h : HeadId} :
    k.permittedHead n = some h ↔ n = h.val ∧ k.heads.has h = true := by
  unfold Client.permittedHead
  rw [← headNamed_eq_some]
  cases headNamed n with
  | none => simp
  | some g =>
    simp only [Option.ite_none_right_eq_some, Option.some.injEq]
    constructor
    · rintro ⟨hp, rfl⟩; exact ⟨rfl, hp⟩
    · rintro ⟨rfl, hp⟩; exact ⟨hp, rfl⟩

theorem Client.permittedHead_eq_none {k : Client} {n : Nat} (h : ∀ x : HeadId, n = x.val → k.heads.has x = false) :
    k.permittedHead n = none := by
  rw [Option.eq_none_iff_forall_ne_some]
  intro x hx
  obtain ⟨hn, hp⟩ := Client.permittedHead_eq_some.mp hx
  simp [h x hn] at hp

/-! ### The window an argument names (R1, R3, R171) -/

theorem Window.isFree_iff {v : Window} : v.isFree = true ↔ v.life = .free := by
  simp [Window.isFree]

theorem Life.held?_eq_none {l : Life} : l.held? = none ↔ l = .free := by
  cases l <;> simp [Life.held?]

theorem Life.ne_free_of_held? {l : Life} {hd : Held} (h : l.held? = some hd) : l ≠ .free := by
  rintro rfl
  cases h

/-- R171 check 4: an argument picks a window when it names one that is not FREE. -/
theorem State.heldWindow_eq_some {s : State} {n : Nat} {w : WindowId} :
    s.heldWindow n = some w ↔ n = w.val ∧ (s.window w).life ≠ .free := by
  unfold State.heldWindow
  rw [← windowNamed_eq_some]
  cases windowNamed n with
  | none => simp
  | some v =>
    simp only [Window.isFree_iff, Option.ite_none_left_eq_some, Option.some.injEq]
    constructor
    · rintro ⟨hf, rfl⟩; exact ⟨rfl, hf⟩
    · rintro ⟨rfl, hf⟩; exact ⟨hf, rfl⟩

theorem State.heldWindow_eq_none {s : State} {n : Nat} (h : ∀ w : WindowId, n = w.val → (s.window w).life = .free) :
    s.heldWindow n = none := by
  rw [Option.eq_none_iff_forall_ne_some]
  intro w hw
  obtain ⟨hn, hf⟩ := State.heldWindow_eq_some.mp hw
  exact hf (h w hn)

/-- R3: a window that is not FREE is sealed exactly while its owner is on the Commit Queue of its head. -/
theorem State.sealed_iff {s : State} {w : WindowId} {hd : Held} (h : (s.window w).life.held? = some hd) :
    s.sealed w = true ↔ hd.owner ∈ (s.head hd.head).commitQueue := by
  simp [State.sealed, h]

/-- R9: the lowest-numbered FREE window is FREE with none FREE below it. -/
theorem State.lowestFree_eq_some {s : State} {w : WindowId} (hw : (s.window w).life = .free)
    (hlow : ∀ v, v < w → (s.window v).life ≠ .free) : s.lowestFree = some w := by
  unfold State.lowestFree allWindows
  rw [← Fin.find?_eq_find?_finRange, Fin.find?_eq_some_iff]
  refine ⟨Window.isFree_iff.mpr hw, fun v hv => ?_⟩
  rw [← Bool.not_eq_true, Window.isFree_iff]
  exact hlow v hv

theorem State.lowestFree_eq_none {s : State} (h : ∀ w, (s.window w).life ≠ .free) : s.lowestFree = none := by
  simpa [State.lowestFree, Window.isFree_iff] using fun w _ => h w

/-! ### A body and the message it is the body of (R170) -/

/-- R170: a message whose body, from the state with the message consumed, leaves what consuming it leaves of `u`,
with answer `r`. -/
theorem takeMessage_of_body {t : Taken} {body : Body} {r : Reply} {s u : State}
    (h : body t.client t.message.args (consume t s) = (consume t u, r)) :
    takeMessage t body s = answered t r u := by
  unfold takeMessage
  rw [h]
  exact respond_consume t u r

theorem consume_setWindow (t : Taken) (s : State) (w : WindowId) (v : Window) :
    (consume t s).setWindow w v = consume t (s.setWindow w v) := rfl

theorem consume_setClient (t : Taken) (s : State) (c : ClientId) (k : Client) :
    (consume t s).setClient c k = consume t (s.setClient c k) := rfl

theorem consume_restage (t : Taken) (s : State) (w : WindowId) (st : Staged) :
    (consume t s).restage w st = consume t (s.restage w st) := rfl

/-- R25: the window checks of an edit pass for an editable window. -/
theorem onOwnWindow_of_editable {s : State} {t : Taken} {w : WindowId} {hd : Held} (h : Editable s t w hd)
    (edit : WindowId → Held → Body) :
    onOwnWindow edit t.client t.message.args (consume t s) = edit w hd t.client t.message.args (consume t s) := by
  obtain ⟨hn, hown, hq, hlife⟩ := h
  have hheld : (s.window w).life.held? = some hd := by
    rcases hlife with e | ⟨img, fault, e⟩ <;> rw [e] <;> rfl
  have hret : (s.window w).life.isRetiring = false := by
    rcases hlife with e | ⟨img, fault, e⟩ <;> rw [e] <;> rfl
  have hwin : (consume t s).heldWindow (argNat t.message.args 0) = some w :=
    State.heldWindow_eq_some.mpr ⟨hn, Life.ne_free_of_held? hheld⟩
  have hopen : (consume t s).sealed w = false := by
    rw [← Bool.not_eq_true, State.sealed_iff (s := consume t s) hheld, hown]
    exact hq
  simp only [onOwnWindow, hwin, consume_window, hheld, hown, hret, hopen, ne_eq, not_true_eq_false, if_false,
    Bool.false_eq_true]

/-- R25: writing back the staged image of a window that is RESERVED or LIVE. -/
theorem setStaged_eq_restage {s : State} {w : WindowId} {hd : Held} (st : Staged)
    (h : (s.window w).life = .reserved hd ∨ ∃ img fault, (s.window w).life = .live hd img fault) :
    setStaged w st s = s.restage w st := by
  rcases h with e | ⟨img, fault, e⟩ <;> simp only [setStaged, State.restage, e, Life.restage] <;> rfl

/-- A staged image put back as it is. -/
theorem State.restage_self {s : State} {w : WindowId} {hd : Held} (h : (s.window w).life.held? = some hd) :
    s.restage w hd.staged = s := by
  have hlife : (s.window w).life.restage hd.staged = (s.window w).life := by
    cases e : (s.window w).life <;> rw [e] at h <;> cases h <;> rfl
  unfold State.restage
  rw [hlife]
  exact State.setWindow_window_self s w

/-! ### RESERVE -/

theorem exec_reserve {s : State} {t : Taken} (h : Takes s 0x10 1 t) :
    exec .reserve s = .next (takeMessage t bodyReserve s) :=
  congrArg Host.Outcome.next (engineTake_of_takes h bodyReserve)

section
variable {s : State} {c : ClientId} {args : List Word} {h : HeadId}

/-- R8: the first refusal. -/
theorem bodyReserve_notPermitted (hp : (s.client c).permittedHead (argNat args 0) = none) :
    bodyReserve c args s = (s, refusal .notPermitted) := by
  simp only [bodyReserve, hp]

/-- R8: the second refusal. -/
theorem bodyReserve_quota (hp : (s.client c).permittedHead (argNat args 0) = some h)
    (hq : (s.client c).held = (s.client c).quota) : bodyReserve c args s = (s, refusal .quota) := by
  simp only [bodyReserve, hp, hq, if_true]

/-- R8: the third refusal. -/
theorem bodyReserve_noWindow (hp : (s.client c).permittedHead (argNat args 0) = some h)
    (hq : (s.client c).held ≠ (s.client c).quota) (hf : s.lowestFree = none) :
    bodyReserve c args s = (s, refusal .noWindow) := by
  simp only [bodyReserve, hp, hq, if_false, hf]

/-- R9: the effect. -/
theorem bodyReserve_accepted {w : WindowId} (hp : (s.client c).permittedHead (argNat args 0) = some h)
    (hq : (s.client c).held ≠ (s.client c).quota) (hf : s.lowestFree = some w) :
    bodyReserve c args s = (reserveWindow w c h s, accepted [BitVec.ofNat 32 w.val]) := by
  simp only [bodyReserve, hp, hq, if_false, hf]
end

theorem consume_reserveWindow (t : Taken) (s : State) (w : WindowId) (c : ClientId) (h : HeadId) :
    reserveWindow w c h (consume t s) = consume t (reserveWindow w c h s) := rfl

/-- Settles O9: each clause is one branch of the body, at the head and the window that the arguments pick. -/
theorem reserveTakesLowestFreeWindow : Obligations.ReserveTakesLowestFreeWindow := by
  intro s t ht
  rw [exec_reserve ht]
  refine ⟨fun hno => ?_, fun h hn hp => ?_⟩
  · rw [takeMessage_of_body (bodyReserve_notPermitted (Client.permittedHead_eq_none hno))]
  · have hperm : ((consume t s).client t.client).permittedHead (argNat t.message.args 0) = some h :=
      Client.permittedHead_eq_some.mpr ⟨hn, hp⟩
    refine ⟨fun hq => ?_, fun hq hfull => ?_, fun hq w hw hlow => ?_⟩
    · rw [takeMessage_of_body (bodyReserve_quota hperm hq)]
    · rw [takeMessage_of_body (bodyReserve_noWindow hperm hq (State.lowestFree_eq_none hfull))]
    · rw [takeMessage_of_body ((bodyReserve_accepted hperm hq (State.lowestFree_eq_some hw hlow)).trans
        (by rw [consume_reserveWindow]))]
      rfl

/-! ### RETIRE -/

theorem exec_retire {s : State} {t : Taken} (h : Takes s 0x16 1 t) :
    exec .retire s = .next (takeMessage t (onOwnWindow editRetire) s) :=
  congrArg Host.Outcome.next (engineTake_of_takes h _)

/-- R11, R18: the held count of a client that is not CLOSING falls, and that is all. -/
theorem dropHeld_of_not_closing {s : State} {c : ClientId} (h : (s.client c).state ≠ .closing) :
    dropHeld c s = s.setClient c { s.client c with held := (s.client c).held - 1 } := by
  rcases dropHeld_cases s c with ⟨hc, -, -⟩ | ⟨-, e⟩
  · exact absurd hc h
  · exact e

/-- R11: a RESERVED window of a client that is not CLOSING enters FREE with no notice. -/
theorem freeWindow_of_reserved {s : State} {w : WindowId} {hd : Held} (hw : (s.window w).life = .reserved hd)
    (hc : (s.client hd.owner).state ≠ .closing) :
    freeWindow w s = (s.setWindow w { s.window w with life := .free }).setClient hd.owner
      { s.client hd.owner with held := (s.client hd.owner).held - 1 } := by
  simp only [freeWindow, hw]
  exact dropHeld_of_not_closing hc

/-- R10: RETIRE of a RESERVED window. -/
theorem editRetire_reserved {s : State} {w : WindowId} {hd hd' : Held} {c : ClientId} {args : List Word}
    (hw : (s.window w).life = .reserved hd') : editRetire w hd c args s = (freeWindow w s, accepted []) := by
  simp only [editRetire, hw]

/-- R10, R30: RETIRE of a LIVE window. -/
theorem editRetire_live {s : State} {w : WindowId} {hd hd' : Held} {img : Image} {fault : Option Nat} {c : ClientId}
    {args : List Word} (hw : (s.window w).life = .live hd' img fault) :
    editRetire w hd c args s = (s.restage w { hd.staged with retirePending := true }, accepted []) := by
  simp only [editRetire, hw]
  rw [setStaged_eq_restage _ (.inr ⟨img, fault, hw⟩)]

/-- Settles O14: past the window checks of R25, the two branches of the edit. -/
theorem retireFreesOrMarks : Obligations.RetireFreesOrMarks := by
  intro s t w hd ht he
  rw [exec_retire ht]
  have hchecks := onOwnWindow_of_editable he editRetire
  obtain ⟨-, hown, -, -⟩ := he
  refine ⟨fun hw hopen => ?_, fun img fault hw => ?_⟩
  · have hbody := hchecks.trans (editRetire_reserved (s := consume t s) hw)
    rw [freeWindow_of_reserved (s := consume t s) hw (by simp [hown, hopen]), hown, consume_setWindow,
      consume_setClient] at hbody
    rw [takeMessage_of_body hbody]
    rfl
  · have hbody := hchecks.trans (editRetire_live (s := consume t s) hw)
    rw [consume_restage] at hbody
    have hexec := takeMessage_of_body hbody
    refine ⟨by rw [hexec], fun hpend => ?_⟩
    have hsame : ({ hd.staged with retirePending := true } : Staged) = hd.staged := by rw [← hpend]
    rw [hexec, hsame, State.restage_self (by rw [hw]; rfl)]

/-! ### Layouts (10.8): a packed word read at one of its fields -/

/-- The fields of a layout stand in rising order, none over another, in a word of 32 bits. -/
def RisingLayout (fields : List (Nat × Nat × Nat)) : Prop :=
  (∀ f ∈ fields, f.2.1 ≤ f.1 ∧ f.1 < 32) ∧ fields.Pairwise (fun f g => f.1 < g.2.1)

theorem RisingLayout.tail {f : Nat × Nat × Nat} {fs : List (Nat × Nat × Nat)} (h : RisingLayout (f :: fs)) :
    RisingLayout fs :=
  ⟨fun g hg => h.1 g (List.mem_cons_of_mem f hg), (List.pairwise_cons.mp h.2).2⟩

/-- An OR over a list begun with `acc` is `acc` with the OR over the list. -/
theorem foldl_or_init (g : Nat × Nat × Nat → Nat) (fs : List (Nat × Nat × Nat)) (acc : Nat) :
    fs.foldl (fun a f => a ||| g f) acc = acc ||| fs.foldl (fun a f => a ||| g f) 0 := by
  induction fs generalizing acc with
  | nil => exact (Nat.or_zero acc).symm
  | cons f fs ih => rw [List.foldl_cons, ih, List.foldl_cons, ih (0 ||| g f), Nat.zero_or, Nat.or_assoc]

/-- A field of a packed word is what its first part puts there with what the others do. -/
theorem fieldOf_packWord_cons (f : Nat × Nat × Nat) (fs : List (Nat × Nat × Nat)) (hi lo : Nat) :
    fieldOf (packWord (f :: fs)) hi lo
      = fieldOf (fieldWord f.1 f.2.1 f.2.2) hi lo ||| fieldOf (packWord fs) hi lo := by
  rw [fieldOf_packWord, fieldOf_packWord, List.foldl_cons, Nat.zero_or,
    foldl_or_init (fun g => fieldOf (fieldWord g.1 g.2.1 g.2.2) hi lo)]

/-- Bits that lie in none of the fields read 0 (R174). -/
theorem fieldOf_packWord_of_disjoint {fields : List (Nat × Nat × Nat)} {hi lo : Nat} (hle : lo ≤ hi)
    (h : ∀ f ∈ fields, f.2.1 ≤ f.1 ∧ (hi < f.2.1 ∨ f.1 < lo)) : fieldOf (packWord fields) hi lo = 0 := by
  induction fields with
  | nil => exact fieldOf_zero hi lo
  | cons f fs ih =>
    obtain ⟨hf, hfs⟩ := List.forall_mem_cons.mp h
    rw [fieldOf_packWord_cons, ih hfs, fieldOf_fieldWord_disjoint hi lo _ _ _ hle hf.1 hf.2, Nat.or_self]

/-- A field of a layout reads the value put in it, if the value fits. -/
theorem fieldOf_packWord_of_mem {fields : List (Nat × Nat × Nat)} (hl : RisingLayout fields) {hi lo v : Nat}
    (hm : (hi, lo, v) ∈ fields) (hv : v < 2 ^ (hi - lo + 1)) : fieldOf (packWord fields) hi lo = v := by
  induction fields with
  | nil => cases hm
  | cons f fs ih =>
    have hbelow : ∀ g ∈ fs, f.1 < g.2.1 := (List.pairwise_cons.mp hl.2).1
    rw [fieldOf_packWord_cons]
    rcases List.mem_cons.mp hm with rfl | hm
    · obtain ⟨hle, hlt⟩ := hl.1 _ (List.mem_cons_self ..)
      rw [fieldOf_fieldWord hi lo v hlt hle, Nat.mod_eq_of_lt hv, fieldOf_packWord_of_disjoint hle
        fun g hg => ⟨(hl.tail.1 g hg).1, .inl (hbelow g hg)⟩, Nat.or_zero]
    · rw [ih hl.tail hm, fieldOf_fieldWord_disjoint hi lo _ _ _ (hl.tail.1 _ hm).1 (hl.1 f (List.mem_cons_self ..)).1
        (.inr (hbelow _ hm)), Nat.zero_or]

theorem markBit_lt (b : Bool) : markBit b < 2 := by cases b <;> decide

theorem markBit_eq_one {b : Bool} : markBit b = 1 ↔ b = true := by cases b <;> decide

/-! ### QUERY_WINDOW: its refusals and its answer (R19) -/

theorem exec_queryWindow {s : State} {t : Taken} (h : Takes s 0x18 2 t) :
    exec .queryWindow s = .next (takeMessage t bodyQueryWindow s) :=
  congrArg Host.Outcome.next (engineTake_of_takes h bodyQueryWindow)

/-- The number of a view in the view argument (10.8). -/
def View.number : View → Nat
  | .staged => 0
  | .live => 1
  | .record => 2

@[simp] theorem viewNamed_number (view : View) : viewNamed view.number = some view := by
  cases view <;> rfl

theorem exists_view_number {n : Nat} (h : n ≤ 2) : ∃ view : View, n = view.number := by
  match n, h with
  | 0, _ => exact ⟨.staged, rfl⟩
  | 1, _ => exact ⟨.live, rfl⟩
  | 2, _ => exact ⟨.record, rfl⟩

theorem viewNamed_eq_none {n : Nat} (h : 2 < n) : viewNamed n = none := by
  match n, h with
  | _ + 3, _ => rfl

section
variable {s : State} {c : ClientId} {args : List Word} {w : WindowId} {hd : Held}

/-- R19: no window that is not FREE is named. -/
theorem bodyQueryWindow_badWindow (hw : s.heldWindow (argNat args 0) = none) :
    bodyQueryWindow c args s = (s, refusal .badWindow) := by
  simp only [bodyQueryWindow, hw]

/-- R19: the issuer is neither the owner nor client 0. -/
theorem bodyQueryWindow_notPermitted (hw : s.heldWindow (argNat args 0) = some w)
    (hh : (s.window w).life.held? = some hd) (hown : hd.owner ≠ c) (hsup : c ≠ 0) :
    bodyQueryWindow c args s = (s, refusal .notPermitted) := by
  simp only [bodyQueryWindow, hw, hh, hown, hsup, ne_eq, not_false_eq_true, and_self, if_true]

/-- R19: no view is named. -/
theorem bodyQueryWindow_badCommand (hw : s.heldWindow (argNat args 0) = some w)
    (hh : (s.window w).life.held? = some hd) (hown : hd.owner = c ∨ c = 0) (hv : viewNamed (argNat args 1) = none) :
    bodyQueryWindow c args s = (s, refusal .badCommand) := by
  have hperm : ¬ (hd.owner ≠ c ∧ c ≠ 0) := by tauto
  simp only [bodyQueryWindow, hw, hh, if_neg hperm, hv]

/-- R19 to R21: the answer. -/
theorem bodyQueryWindow_accepted {view : View} (hw : s.heldWindow (argNat args 0) = some w)
    (hh : (s.window w).life.held? = some hd) (hown : hd.owner = c ∨ c = 0)
    (hv : viewNamed (argNat args 1) = some view) :
    bodyQueryWindow c args s = (s, accepted (summaryWord s w hd view :: viewWords (s.window w) hd view)) := by
  have hperm : ¬ (hd.owner ≠ c ∧ c ≠ 0) := by tauto
  simp only [bodyQueryWindow, hw, hh, if_neg hperm, hv]
end

/-! ### The summary word (R20) -/

/-- The fields every summary has (10.8). -/
def summaryRecordFields (s : State) (w : WindowId) (hd : Held) (view : View) : List (Nat × Nat × Nat) :=
  [(1, 0, (s.window w).life.code), (4, 2, hd.owner.val), (5, 5, hd.head.val), (6, 6, markBit (s.sealed w)),
    (8, 7, viewCode view (selectedImage (s.window w) hd view)), (9, 9, markBit (s.window w).life.fault?.isSome),
    (19, 10, (s.window w).refs)]

/-- The fields a summary has of the image it selects (10.8). -/
def summaryImageFields (hd : Held) (view : View) (i : Image) : List (Nat × Nat × Nat) :=
  [(20, 20, markBit i.visible), (21, 21, markBit (hd.staged.retirePending && view != .live)), (26, 22, i.depth),
    (27, 27, formatMark i), (28, 28, markBit i.geometry.isSome), (29, 29, markBit i.source.isSome),
    (30, 30, markBit i.ringRows.isSome), (31, 31, markBit i.key.isSome)]

section
variable {s : State} {w : WindowId} {hd : Held} {view : View}

theorem summaryWord_of_none (h : selectedImage (s.window w) hd view = none) :
    summaryWord s w hd view = packWord (summaryRecordFields s w hd view) := by
  simp only [summaryWord, summaryRecordFields, h, List.append_nil]

theorem summaryWord_of_some {i : Image} (h : selectedImage (s.window w) hd view = some i) :
    summaryWord s w hd view = packWord (summaryRecordFields s w hd view ++ summaryImageFields hd view i) := by
  simp only [summaryWord, summaryRecordFields, summaryImageFields, h]

theorem summaryFields_rising (i : Image) :
    RisingLayout (summaryRecordFields s w hd view ++ summaryImageFields hd view i) := by
  simp [RisingLayout, summaryRecordFields, summaryImageFields]

theorem summaryRecordFields_rising : RisingLayout (summaryRecordFields s w hd view) := by
  simp [RisingLayout, summaryRecordFields]

/-- A field that every summary has reads the value put in it, if the value fits. -/
theorem fieldOf_summaryWord_record {hi lo v : Nat} (hm : (hi, lo, v) ∈ summaryRecordFields s w hd view)
    (hv : v < 2 ^ (hi - lo + 1)) : fieldOf (summaryWord s w hd view) hi lo = v := by
  cases h : selectedImage (s.window w) hd view with
  | none => rw [summaryWord_of_none h, fieldOf_packWord_of_mem summaryRecordFields_rising hm hv]
  | some i =>
    rw [summaryWord_of_some h, fieldOf_packWord_of_mem (summaryFields_rising i) (List.mem_append_left _ hm) hv]

/-- So does a field of the image selected. -/
theorem fieldOf_summaryWord_image {i : Image} (h : selectedImage (s.window w) hd view = some i) {hi lo v : Nat}
    (hm : (hi, lo, v) ∈ summaryImageFields hd view i) (hv : v < 2 ^ (hi - lo + 1)) :
    fieldOf (summaryWord s w hd view) hi lo = v := by
  rw [summaryWord_of_some h, fieldOf_packWord_of_mem (summaryFields_rising i) (List.mem_append_right _ hm) hv]

/-- R21: a summary that selects no image has 0 in every image field. -/
theorem fieldOf_summaryWord_no_image (h : selectedImage (s.window w) hd view = none) :
    fieldOf (summaryWord s w hd view) 31 20 = 0 := by
  rw [summaryWord_of_none h]
  exact fieldOf_packWord_of_disjoint (by decide) (by simp [summaryRecordFields])
end

theorem Life.code_lt (l : Life) : l.code < 4 := by cases l <;> simp [Life.code]

theorem viewCode_lt (view : View) (img : Option Image) : viewCode view img < 4 := by
  cases view <;> cases img <;> simp [viewCode]

theorem formatMark_lt (i : Image) : formatMark i < 2 := by
  unfold formatMark
  split
  · split <;> decide
  · decide

theorem formatMark_eq_one {i : Image} : formatMark i = 1 ↔ i.source.map Source.format = some .p32 := by
  unfold formatMark
  cases i.source <;> simp

/-- The view and presence field, by the number of the view (10.8). -/
theorem viewCode_eq (view : View) (img : Option Image) :
    viewCode view img = if view.number = 0 then 0 else if view.number = 2 then 3 else if img = none then 2 else 1 := by
  cases view <;> cases img <;> rfl

/-- R20: the image a view selects, by the number of the view. -/
theorem selectedImage_eq (v : Window) (hd : Held) (view : View) :
    selectedImage v hd view = if view.number = 1 then v.life.liveImage? else some hd.staged.image := by
  cases view <;> rfl

/-- The retire pending mark is reported in every view but LIVE. -/
theorem retireMark_eq_one {hd : Held} {view : View} :
    markBit (hd.staged.retirePending && view != .live) = 1 ↔ view.number ≠ 1 ∧ hd.staged.retirePending = true := by
  cases view <;> simp [markBit_eq_one, View.number]

/-- R20, 10.8: the summary word, field by field. -/
theorem reportsSummary_summaryWord {s : State} {w : WindowId} {hd : Held} {view : View}
    (hh : (s.window w).life.held? = some hd) (hrefs : (s.window w).refs ≤ 784)
    (hdepth : ∀ i, selectedImage (s.window w) hd view = some i → i.depth ≤ 31) :
    ReportsSummary s w hd view.number (selectedImage (s.window w) hd view) (summaryWord s w hd view) := by
  refine ⟨?life, ?owner, ?head, ?onQueue, ?view, ?fault, ?refs, ?image⟩
  case life =>
    rw [fieldOf_summaryWord_record (v := (s.window w).life.code) (by simp [summaryRecordFields]) (Life.code_lt _)]
    cases (s.window w).life <;> rfl
  case owner => exact fieldOf_summaryWord_record (by simp [summaryRecordFields]) hd.owner.isLt
  case head => exact fieldOf_summaryWord_record (by simp [summaryRecordFields]) hd.head.isLt
  case onQueue =>
    rw [fieldOf_summaryWord_record (v := markBit (s.sealed w)) (by simp [summaryRecordFields]) (markBit_lt _),
      markBit_eq_one, State.sealed_iff hh]
  case view =>
    rw [← viewCode_eq]
    exact fieldOf_summaryWord_record (by simp [summaryRecordFields]) (viewCode_lt _ _)
  case fault =>
    rw [fieldOf_summaryWord_record (v := markBit (s.window w).life.fault?.isSome) (by simp [summaryRecordFields])
      (markBit_lt _), markBit_eq_one, Option.isSome_iff_ne_none]
  case refs => exact fieldOf_summaryWord_record (by simp [summaryRecordFields]) (by omega)
  case image =>
    cases h : selectedImage (s.window w) hd view with
    | none => exact fieldOf_summaryWord_no_image h
    | some i =>
      have reads {n v : Nat} (hm : (n, n, v) ∈ summaryImageFields hd view i) (hv : v < 2) :
          fieldOf (summaryWord s w hd view) n n = v :=
        fieldOf_summaryWord_image h hm (by simpa using hv)
      have marks {n : Nat} {b : Bool} (hm : (n, n, markBit b) ∈ summaryImageFields hd view i) :
          fieldOf (summaryWord s w hd view) n n = 1 ↔ b = true := by
        rw [reads hm (markBit_lt b), markBit_eq_one]
      simp only [ne_eq, ← Option.isSome_iff_ne_none]
      refine ⟨marks (by simp [summaryImageFields]), ?_, ?_, ?_, marks (by simp [summaryImageFields]),
        marks (by simp [summaryImageFields]), marks (by simp [summaryImageFields]), marks (by simp [summaryImageFields])⟩
      · rw [reads (v := markBit (hd.staged.retirePending && view != .live)) (by simp [summaryImageFields]) (markBit_lt _),
          retireMark_eq_one]
      · have := hdepth i h
        exact fieldOf_summaryWord_image h (by simp [summaryImageFields]) (by omega)
      · rw [reads (v := formatMark i) (by simp [summaryImageFields]) (formatMark_lt i), formatMark_eq_one]

/-! ### The words of an image (R21) -/

/-- Two fields packed in one word read back, the lower and the upper, if they fit. -/
theorem fieldOf_packWord_pair {h l h' l' a b : Nat} (hr : l ≤ h ∧ h < l' ∧ l' ≤ h' ∧ h' < 32)
    (ha : a < 2 ^ (h - l + 1)) (hb : b < 2 ^ (h' - l' + 1)) :
    fieldOf (packWord [(h, l, a), (h', l', b)]) h l = a ∧ fieldOf (packWord [(h, l, a), (h', l', b)]) h' l' = b := by
  have hl : RisingLayout [(h, l, a), (h', l', b)] := by
    simp only [RisingLayout, List.forall_mem_cons, List.pairwise_cons, List.not_mem_nil, false_imp_iff, implies_true,
      List.Pairwise.nil, and_true]
    omega
  exact ⟨fieldOf_packWord_of_mem hl (by simp) ha, fieldOf_packWord_of_mem hl (by simp) hb⟩

theorem Geometry.bounds_of_inRange {g : Geometry} (h : g.inRange = true) :
    g.x ≤ 4095 ∧ g.y ≤ 4095 ∧ g.width ≤ 2048 ∧ g.height ≤ 2048 := by
  simp only [Geometry.inRange, Bool.and_eq_true, decide_eq_true_eq] at h
  omega

theorem Source.bounds_of_inRange {src : Source} {ring : Option Nat} (h : src.inRange ring = true) :
    src.pitch ≤ 65536 ∧ src.scrollX ≤ 4095 ∧ src.scrollY ≤ 4095 := by
  simp only [Source.inRange, Bool.and_eq_true, decide_eq_true_eq] at h
  omega

/-- R27: the scroll y reported is that of a source in range, or 0. -/
theorem scrollY_le_of_inRange {img : Option Image} (h : ∀ i, img = some i → i.inRange) :
    ((img.bind Image.source).getD ⟨.p16, 0, 0, 0, 0⟩).scrollY ≤ 4095 := by
  cases hs : img.bind Image.source with
  | none => exact Nat.zero_le _
  | some src =>
    obtain ⟨i, hi, his⟩ := Option.bind_eq_some_iff.mp hs
    obtain ⟨-, -, hsrc, -⟩ := h i hi
    exact (Source.bounds_of_inRange (hsrc src his).1).2.2

/-- R27: the ring rows reported are those of an image in range, or 0. -/
theorem ringRows_le_of_inRange {img : Option Image} (h : ∀ i, img = some i → i.inRange) :
    (img.bind Image.ringRows).getD 0 ≤ 4096 := by
  cases hr : img.bind Image.ringRows with
  | none => exact Nat.zero_le _
  | some r =>
    obtain ⟨i, hi, hir⟩ := Option.bind_eq_some_iff.mp hr
    obtain ⟨-, -, -, hring⟩ := h i hi
    exact (hring r hir).2

/-- R21, 10.8: the six words of an image whose fields are in their ranges, field by field. -/
theorem reportsImage_imageWords {img : Option Image} (h : ∀ i, img = some i → i.inRange) :
    ReportsImage img (imageWords img) := by
  have hscroll := scrollY_le_of_inRange h
  have hring := ringRows_le_of_inRange h
  obtain ⟨h6, h6'⟩ := fieldOf_packWord_pair (h := 11) (l := 0) (h' := 28) (l' := 16)
    (a := ((img.bind Image.source).getD ⟨.p16, 0, 0, 0, 0⟩).scrollY) (b := (img.bind Image.ringRows).getD 0)
    (by decide) (by omega) (by omega)
  refine ⟨_, _, _, _, _, _, rfl, ?geometry, ?source, h6', rfl⟩
  case geometry =>
    cases hg : img.bind Image.geometry with
    | none => exact ⟨by decide, by decide⟩
    | some g =>
      obtain ⟨i, hi, hig⟩ := Option.bind_eq_some_iff.mp hg
      obtain ⟨-, hgeo, -, -⟩ := h i hi
      obtain ⟨hx, hy, hwidth, hheight⟩ := Geometry.bounds_of_inRange (hgeo g hig)
      obtain ⟨h2, h2'⟩ := fieldOf_packWord_pair (h := 15) (l := 0) (h' := 31) (l' := 16) (a := g.x) (b := g.y)
        (by decide) (by omega) (by omega)
      obtain ⟨h3, h3'⟩ := fieldOf_packWord_pair (h := 15) (l := 0) (h' := 31) (l' := 16) (a := g.width) (b := g.height)
        (by decide) (by omega) (by omega)
      exact ⟨h2, h2', h3, h3'⟩
  case source =>
    cases hs : img.bind Image.source with
    | none =>
      rw [hs] at h6
      exact ⟨rfl, by decide, h6⟩
    | some src =>
      rw [hs] at h6
      obtain ⟨i, hi, his⟩ := Option.bind_eq_some_iff.mp hs
      obtain ⟨-, -, hsrc, -⟩ := h i hi
      obtain ⟨hrange, hbase⟩ := hsrc src his
      obtain ⟨hpitch, hscrollX, -⟩ := Source.bounds_of_inRange hrange
      obtain ⟨h5, h5'⟩ := fieldOf_packWord_pair (h := 16) (l := 0) (h' := 31) (l' := 20) (a := src.pitch)
        (b := src.scrollX) (by decide) (by omega) (by omega)
      exact ⟨Nat.mod_eq_of_lt hbase, h5, h5', h6⟩

/-- Settles O18: each clause is one branch of the body; of the answer, the summary and the image words read back. -/
theorem queryWindowReportsTheRecord : Obligations.QueryWindowReportsTheRecord := by
  intro s t ht
  rw [exec_queryWindow ht]
  refine ⟨fun hfree => ?_, fun w hd hn hh => ?_⟩
  · rw [takeMessage_of_body (bodyQueryWindow_badWindow (State.heldWindow_eq_none hfree))]
  · have hw : (consume t s).heldWindow (argNat t.message.args 0) = some w :=
      State.heldWindow_eq_some.mpr ⟨hn, Life.ne_free_of_held? hh⟩
    refine ⟨fun hown hsup => ?_, fun hown => ⟨fun hv => ?_, fun hv hrefs hrange => ?_⟩⟩
    · rw [takeMessage_of_body (bodyQueryWindow_notPermitted hw hh hown hsup)]
    · rw [takeMessage_of_body (bodyQueryWindow_badCommand hw hh hown (viewNamed_eq_none hv))]
    · obtain ⟨view, hview⟩ := exists_view_number hv
      have hsel : ∀ i, selectedImage (s.window w) hd view = some i → i.inRange := by
        intro i hi
        cases view with
        | live => exact hrange i (.inr hi)
        | staged => exact hrange i (.inl (Option.some.inj hi))
        | record => exact hrange i (.inl (Option.some.inj hi))
      have hnamed : viewNamed (argNat t.message.args 1) = some view := by rw [hview, viewNamed_number]
      refine ⟨summaryWord s w hd view, viewWords (s.window w) hd view,
        congrArg _ (takeMessage_of_body (bodyQueryWindow_accepted hw hh hown hnamed)), ?_⟩
      rw [hview, ← selectedImage_eq]
      refine ⟨reportsSummary_summaryWord hh hrefs fun i hi => (hsel i hi).1, fun hne => ?_, fun heq => ?_⟩
      · cases view with
        | record => exact absurd rfl hne
        | staged => exact reportsImage_imageWords hsel
        | live => exact reportsImage_imageWords hsel
      · cases view with
        | record => rfl
        | staged => cases heq
        | live => cases heq

/-! ### Device reset -/

@[simp] theorem State.reset_window (w : WindowId) : State.reset.window w = { life := .free, refs := 0 } := by
  simp [State.window, State.reset]

@[simp] theorem State.reset_head (h : HeadId) : State.reset.head h = Head.reset := by
  simp [State.head, State.reset]

@[simp] theorem State.reset_tag (t : TagNo) : State.reset.tag t = Tag.reset := by
  simp [State.tag, State.reset]

@[simp] theorem State.reset_notice (c : ClientId) : State.reset.notice c = NoticeRecord.cleared := by
  simp [State.notice, State.reset]

theorem State.reset_client (c : ClientId) :
    State.reset.client c = if c = 0 then Client.supervisor else Client.closedRecord := by
  revert c; decide

theorem State.reset_channel (c : ClientId) :
    State.reset.channel c = if c = 0 then Channel.reset .opened else Channel.reset .closed := by
  revert c; decide

/-- R158: a record with no kind pending has no indication. -/
theorem NoticeRecord.cleared_unmasked : NoticeRecord.cleared.unmasked = false := by decide

theorem State.reset_noticeLine : State.reset.noticeLine = false := by
  simp [State.noticeLine, State.indication, NoticeRecord.cleared_unmasked]

theorem Head.reset_outputs : Head.reset.lsyncHigh = true ∧ Head.reset.fsyncHigh = true ∧
    Head.reset.activeHigh = false ∧ Head.reset.pix = 0 := by decide

theorem atReset_reset : AtReset State.reset where
  windows w := by simp
  lists h := by simp [Head.reset]
  timers h := by simp [Head.reset]
  follow h := by simp [Head.reset]
  outputs h := by rw [State.reset_head]; exact Head.reset_outputs
  slots h k := by simp [Head.reset]
  showing h := by simp [Head.reset]
  tags t := by simp [Tag.reset]
  served := rfl
  client0 := rfl
  tenants c hc := by rw [State.reset_client, if_neg hc]; rfl
  channel0 := rfl
  channels c hc := by rw [State.reset_channel, if_neg hc]; rfl
  pointer := rfl
  notices c := State.reset_notice c
  line := State.reset_noticeLine

/-- The pin, the counter of races and the queue are in no block. -/
theorem AtReset.with_outside {s : State} (h : AtReset s) (held : Bool) (draws : Nat) (queue : List Instr) :
    AtReset { s with resetHeld := held, raceDraws := draws, pending := queue } where
  windows := h.windows
  lists := h.lists
  timers := h.timers
  follow := h.follow
  outputs := h.outputs
  slots := h.slots
  showing := h.showing
  tags := h.tags
  served := h.served
  client0 := h.client0
  tenants := h.tenants
  channel0 := h.channel0
  channels := h.channels
  pointer := h.pointer
  notices := h.notices
  line := h.line

theorem actionOf_eq (w : Word) : actionOf w = w.toNat % 256 := by
  simp [actionOf, fieldOf]

theorem exec_resetN (s : State) : exec .resetN s = .next { deviceReset s with resetHeld := true } := rfl

/-- R166: what a write to word 0 of the device control page does while RESET_N is high. -/
theorem exec_reset {s : State} (lanes : Lanes) (data : Word) (h : s.resetHeld = false) :
    exec (.reset lanes data) s = .next (writeDevice (maskLanes lanes data) s) := by
  show execReset lanes data s = _
  simp only [execReset, hostWrite, h, Bool.false_eq_true, if_false]
  rfl

theorem writeDevice_reset {s : State} {w : Word} (h : w.toNat % 256 = 1) : writeDevice w s = deviceReset s := by
  have ha : actionOf w = actionReset := (actionOf_eq w).trans h
  rw [writeDevice, if_pos ha]

/-- Settles O3: both resets put the state after reset there, but for what is in no block. -/
theorem resetReachesResetState : Obligations.ResetReachesResetState := by
  refine ⟨fun s => ⟨_, exec_resetN s, atReset_reset.with_outside true s.raceDraws s.pending⟩,
    fun s lanes data hh ha => ?_, atReset_reset⟩
  refine ⟨deviceReset s, ?_, atReset_reset.with_outside false s.raceDraws s.pending⟩
  rw [exec_reset lanes data hh, writeDevice_reset ha]

end Sys2Proof.Machine
end

section
/-! Proofs of the family of staging, sealing and commit (02): the window checks of an edit, the ranges and extents
that PLACE and SOURCE judge, and the refusals and effects of the edits and of COMMIT. -/

namespace Sys2Proof.Machine

/-! ### The window checks of an edit (R25) -/

section
variable {s : State} {c : ClientId} {args : List Word} {w : WindowId} {hd : Held} (edit : WindowId → Held → Body)

/-- R25: the first check, no window that is not FREE is named. -/
theorem onOwnWindow_badWindow (hw : s.heldWindow (argNat args 0) = none) :
    onOwnWindow edit c args s = (s, refusal .badWindow) := by
  simp only [onOwnWindow, hw]

/-- R25: the second check, another client owns the window. -/
theorem onOwnWindow_notPermitted (hw : s.heldWindow (argNat args 0) = some w)
    (hh : (s.window w).life.held? = some hd) (hown : hd.owner ≠ c) :
    onOwnWindow edit c args s = (s, refusal .notPermitted) := by
  simp only [onOwnWindow, hw, hh, if_pos hown]

/-- R25: the third check, the window is RETIRING. -/
theorem onOwnWindow_retiring (hw : s.heldWindow (argNat args 0) = some w)
    (hh : (s.window w).life.held? = some hd) (hown : hd.owner = c) (hr : (s.window w).life.isRetiring = true) :
    onOwnWindow edit c args s = (s, refusal .badWindow) := by
  simp only [onOwnWindow, hw, hh, if_neg (not_not.mpr hown), hr, if_true]

/-- R25: the fourth check, the window is sealed. -/
theorem onOwnWindow_sealed (hw : s.heldWindow (argNat args 0) = some w) (hh : (s.window w).life.held? = some hd)
    (hown : hd.owner = c) (hr : (s.window w).life.isRetiring = false) (hq : s.sealed w = true) :
    onOwnWindow edit c args s = (s, refusal .sealedPending) := by
  simp only [onOwnWindow, hw, hh, if_neg (not_not.mpr hown), hr, Bool.false_eq_true, if_false, hq, if_true]
end

section
variable {s : State} {t : Taken} {w : WindowId} {hd : Held}

/-- R25: a message with an edit of an editable window does what the edit itself does. -/
theorem takeMessage_of_edit {edit : WindowId → Held → Body} {r : Reply} {u : State} (he : Editable s t w hd)
    (h : edit w hd t.client t.message.args (consume t s) = (consume t u, r)) :
    takeMessage t (onOwnWindow edit) s = answered t r u :=
  takeMessage_of_body ((onOwnWindow_of_editable he edit).trans h)

/-- R25: an edit of an editable window that writes the staged image `st`. -/
theorem takeMessage_of_restaging {edit : WindowId → Held → Body} {r : Reply} {st : Staged} (he : Editable s t w hd)
    (h : edit w hd t.client t.message.args (consume t s) = (setStaged w st (consume t s), r)) :
    takeMessage t (onOwnWindow edit) s = answered t r (s.restage w st) := by
  obtain ⟨-, -, -, hlife⟩ := id he
  rw [setStaged_eq_restage (s := consume t s) st hlife, consume_restage] at h
  exact takeMessage_of_edit he h
end

/-! ### The commands of the family as their bodies -/

section
variable {s : State} {t : Taken}

theorem exec_place (h : Takes s 0x11 4 t) : exec .place s = .next (takeMessage t (onOwnWindow editPlace) s) :=
  congrArg Host.Outcome.next (engineTake_of_takes h _)

theorem exec_source (h : Takes s 0x12 6 t) : exec .source s = .next (takeMessage t (onOwnWindow editSource) s) :=
  congrArg Host.Outcome.next (engineTake_of_takes h _)

theorem exec_key (h : Takes s 0x13 3 t) : exec .key s = .next (takeMessage t (onOwnWindow editKey) s) :=
  congrArg Host.Outcome.next (engineTake_of_takes h _)

theorem exec_showWindow (h : Takes s 0x14 1 t) :
    exec .showWindow s = .next (takeMessage t (onOwnWindow editShow) s) :=
  congrArg Host.Outcome.next (engineTake_of_takes h _)

theorem exec_hideWindow (h : Takes s 0x15 1 t) :
    exec .hideWindow s = .next (takeMessage t (onOwnWindow editHide) s) :=
  congrArg Host.Outcome.next (engineTake_of_takes h _)

theorem exec_commit (h : Takes s 0x17 1 t) : exec .commit s = .next (takeMessage t bodyCommit s) :=
  congrArg Host.Outcome.next (engineTake_of_takes h bodyCommit)
end

/-- 10.8: each command of the table that is an edit or RETIRE makes the window checks of R25 before its own. -/
theorem exec_of_edits {i : Instr} {row : CommandRow} (hi : i.commandRow = some row) (he : row.edits = true) :
    ∃ edit, ∀ {s : State} {t : Taken}, Takes s row.code row.argc t →
      exec i s = .next (takeMessage t (onOwnWindow edit) s) := by
  cases i with
  | place => cases hi; exact ⟨_, exec_place⟩
  | source => cases hi; exact ⟨_, exec_source⟩
  | key => cases hi; exact ⟨_, exec_key⟩
  | showWindow => cases hi; exact ⟨_, exec_showWindow⟩
  | hideWindow => cases hi; exact ⟨_, exec_hideWindow⟩
  | retire => cases hi; exact ⟨_, exec_retire⟩
  | _ => cases hi <;> cases he

/-- Settles O10: whichever edit it is, each clause is one branch of the window checks. -/
theorem editChecksItsWindow : Obligations.EditChecksItsWindow := by
  intro s t i row hi hedits ht
  obtain ⟨edit, hexec⟩ := exec_of_edits hi hedits
  rw [hexec ht]
  refine ⟨fun hno => ?_, fun w hn => ⟨fun hfree => ?_, fun hd hh => ?_⟩⟩
  · rw [takeMessage_of_body (onOwnWindow_badWindow edit (State.heldWindow_eq_none fun w hn => absurd hn (hno w)))]
  · have hnone : (consume t s).heldWindow (argNat t.message.args 0) = none :=
      State.heldWindow_eq_none fun v hv => by rwa [← Fin.ext (hn.symm.trans hv)]
    rw [takeMessage_of_body (onOwnWindow_badWindow edit hnone)]
  · have hw : (consume t s).heldWindow (argNat t.message.args 0) = some w :=
      State.heldWindow_eq_some.mpr ⟨hn, Life.ne_free_of_held? hh⟩
    refine ⟨fun hown => ?_, fun hown => ⟨fun hr => ?_, fun hr hq => ?_⟩⟩
    · rw [takeMessage_of_body (onOwnWindow_notPermitted edit hw hh hown)]
    · rw [takeMessage_of_body (onOwnWindow_retiring edit hw hh hown hr)]
    · have hsealed : (consume t s).sealed w = true := (State.sealed_iff (s := consume t s) hh).mpr (hown ▸ hq)
      rw [takeMessage_of_body (onOwnWindow_sealed edit hw hh hown hr hsealed)]

/-! ### KEY, SHOW and HIDE (R28, R29) -/

theorem argWord_of_getElem? {args : List Word} {i : Nat} {k : Word} (h : args[i]? = some k) : argWord args i = k := by
  rw [argWord, List.getD_eq_getElem?_getD, h, Option.getD_some]

section
variable {s : State} {c : ClientId} {args : List Word} {w : WindowId} {hd : Held}

/-- R28: key presence 0. -/
theorem editKey_absent (h : argNat args 1 = 0) :
    editKey w hd c args s =
      (setStaged w { hd.staged with image := { hd.staged.image with key := none } } s, accepted []) := by
  rw [editKey, if_pos h]

/-- R28: key presence 1. -/
theorem editKey_present (h : argNat args 1 = 1) :
    editKey w hd c args s =
      (setStaged w { hd.staged with image := { hd.staged.image with key := some (argWord args 2) } } s,
        accepted []) := by
  rw [editKey, if_neg (by omega), if_pos h]

/-- R28: any other key presence. -/
theorem editKey_badCommand (h : 1 < argNat args 1) : editKey w hd c args s = (s, refusal .badCommand) := by
  rw [editKey, if_neg (by omega), if_neg (by omega)]

/-- R29: SHOW without a staged geometry or source. -/
theorem editShow_incomplete (h : hd.staged.image.geometry = none ∨ hd.staged.image.source = none) :
    editShow w hd c args s = (s, refusal .incomplete) := by
  rw [editShow, if_neg]
  simp only [Option.isSome_iff_ne_none]
  tauto

/-- R29: SHOW with both. -/
theorem editShow_accepted (hg : hd.staged.image.geometry ≠ none) (hs : hd.staged.image.source ≠ none) :
    editShow w hd c args s =
      (setStaged w { hd.staged with image := { hd.staged.image with visible := true } } s, accepted []) := by
  rw [editShow, if_pos ⟨Option.isSome_iff_ne_none.mpr hg, Option.isSome_iff_ne_none.mpr hs⟩]
end

/-- Settles O13: past the window checks of R25, each clause is one branch of its edit. -/
theorem keyShowHideEditTheStagedImage : Obligations.KeyShowHideEditTheStagedImage := by
  intro s t w hd he
  refine ⟨fun hkey => ?_, fun hshow => ?_, fun hhide => ?_⟩
  · rw [exec_key hkey]
    refine ⟨fun h0 => ?_, fun h1 k hk => ?_, fun h2 => ?_⟩
    · rw [takeMessage_of_restaging he (editKey_absent h0)]
    · rw [takeMessage_of_restaging he (editKey_present h1), argWord_of_getElem? hk]
    · rw [takeMessage_of_edit he (editKey_badCommand h2)]
  · rw [exec_showWindow hshow]
    refine ⟨fun hnone => ?_, fun hg hs => ?_⟩
    · rw [takeMessage_of_edit he (editShow_incomplete hnone)]
    · rw [takeMessage_of_restaging he (editShow_accepted hg hs)]
  · rw [exec_hideWindow hhide, takeMessage_of_restaging he rfl]

/-! ### Ranges, pitch and extent (R7, R26, R27) -/

/-- R26: the ranges of a geometry, as what breaks them. -/
theorem Geometry.inRange_eq_false {g : Geometry} : g.inRange = false ↔
    4095 < g.x ∨ 4095 < g.y ∨ g.width < 1 ∨ 2048 < g.width ∨ g.height < 1 ∨ 2048 < g.height ∨
      4096 < g.x + g.width ∨ 4096 < g.y + g.height := by
  rw [← Bool.not_eq_true]
  simp only [Geometry.inRange, Bool.and_eq_true, decide_eq_true_eq]
  omega

/-- R27: the ranges of a source and its ring rows, as what breaks them. -/
theorem Source.inRange_eq_false {src : Source} {ring : Option Nat} : src.inRange ring = false ↔
    src.base % src.format.bytes ≠ 0 ∨ src.pitch < 16 ∨ 65536 < src.pitch ∨ src.pitch % 4 ≠ 0 ∨
      4095 < src.scrollX ∨ 4095 < src.scrollY ∨ ∃ r, ring = some r ∧ (r < 1 ∨ 4096 < r) := by
  rw [← Bool.not_eq_true]
  cases ring with
  | none =>
    simp only [Source.inRange, Bool.and_eq_true, decide_eq_true_eq, beq_iff_eq, reduceCtorEq, false_and, exists_false,
      and_true, or_false]
    omega
  | some r =>
    simp only [Source.inRange, Bool.and_eq_true, decide_eq_true_eq, beq_iff_eq, Option.some.injEq,
      exists_eq_left']
    omega

/-- 1.1.1: the pitch of an image with geometry and source. -/
theorem Image.pitchFits_iff {img : Image} : img.pitchFits ↔
    ∀ g src, img.geometry = some g → img.source = some src → pitchHolds g src = true := by
  simp only [Image.pitchFits, pitchHolds, decide_eq_true_eq]

theorem Image.not_pitchFits_iff {img : Image} : ¬ img.pitchFits ↔ ∃ g src, img.geometry = some g ∧
    img.source = some src ∧ src.pitch < (src.scrollX + g.width) * src.format.bytes := by
  simp only [Image.pitchFits, not_forall, not_le, exists_prop]

/-- R7: the last byte of an extent comes just before its end. -/
theorem lastByte_eq (g : Geometry) (src : Source) (ring : Option Nat) :
    lastByte g src ring = extentEnd g src ring - 1 := by
  cases ring <;> cases src with | mk f _ _ _ _ => cases f <;> rfl

/-- R7: the model's test of an extent, by its first and last byte. -/
theorem withinAperture_iff {g : Geometry} {src : Source} {ring : Option Nat} {ap : Option Aperture} :
    withinAperture ap src.base (extentEnd g src ring) = true ↔ ExtentWithin g src ring ap := by
  simp only [ExtentWithin, lastByte_eq]
  cases ap with
  | none => simp [withinAperture]
  | some a =>
    simp only [withinAperture, Bool.and_eq_true, decide_eq_true_eq, Option.some.injEq, exists_eq_left']
    simp only [granuleBytes, addressSpace]
    omega

/-- R7: an image does not fit an aperture when it has an extent, which leaves it. -/
theorem Image.fits_eq_false {img : Image} {ap : Option Aperture} : img.fits ap = false ↔
    ∃ g src, img.geometry = some g ∧ img.source = some src ∧ ¬ ExtentWithin g src img.ringRows ap := by
  simp only [← withinAperture_iff, Bool.not_eq_true]
  unfold Image.fits
  cases img.geometry <;> cases img.source <;> simp

/-! ### PLACE (R26) -/

/-- R26: the staged image after PLACE. -/
def placedImage (hd : Held) (args : List Word) : Image :=
  { hd.staged.image with geometry := some (placeGeometry args), depth := argNat args 3 }

section
variable {s : State} {c : ClientId} {args : List Word} {w : WindowId} {hd : Held}

open Classical in
/-- R26: PLACE judges the ranges, then the pitch and the extent of the image it would stage. -/
theorem editPlace_eq : editPlace w hd c args s =
    if ((placeGeometry args).inRange = false ∨ 31 < argNat args 3) ∨ ¬ (placedImage hd args).pitchFits then
      (s, refusal .badGeometry)
    else if (placedImage hd args).fits (s.client hd.owner).aperture = false then (s, refusal .aperture)
    else (setStaged w { hd.staged with image := placedImage hd args } s, accepted []) := by
  rw [ite_or, editPlace]
  cases hs : hd.staged.image.source with
  | none => simp [Image.pitchFits_iff, placedImage, hs]
  | some src => simp [Image.pitchFits_iff, placedImage, hs]
end

/-- Settles O11: the clauses are the branches of the edit, with its ranges, pitch and extent read word for word. -/
theorem placeSetsGeometryAndDepth : Obligations.PlaceSetsGeometryAndDepth := by
  intro s t w hd g depth ht he hg hdepth bad short outside
  obtain rfl : g = placeGeometry t.message.args := hg
  obtain ⟨-, hown, -, -⟩ := id he
  have hbad : bad ↔ (placeGeometry t.message.args).inRange = false ∨ 31 < argNat t.message.args 3 := by
    simp only [bad, hdepth, Geometry.inRange_eq_false, or_assoc]
  have hshort : short ↔ ¬ (placedImage hd t.message.args).pitchFits := by
    simp [short, Image.not_pitchFits_iff, placedImage]
  have houtside : outside ↔
      (placedImage hd t.message.args).fits ((consume t s).client hd.owner).aperture = false := by
    simp [outside, Image.fits_eq_false, placedImage, hown]
  rw [exec_place ht, hbad, hshort, houtside]
  refine ⟨fun hrefused => ?_, fun hr hp hf => ?_, fun hr hp hf => ?_⟩
  · rw [takeMessage_of_edit he (by rw [editPlace_eq, if_pos hrefused])]
  · rw [takeMessage_of_edit he (by rw [editPlace_eq, if_neg (not_or.mpr ⟨hr, hp⟩), if_pos hf])]
  · rw [takeMessage_of_restaging he (by rw [editPlace_eq, if_neg (not_or.mpr ⟨hr, hp⟩), if_neg hf]), hdepth]
    rfl

/-! ### SOURCE (R27) -/

/-- R27: the source SOURCE carries, in the format its argument names. -/
def sourceOf (f : PixelFormat) (args : List Word) : Source :=
  { format := f, base := argNat args 2, pitch := argNat args 3
    scrollX := argField args 4 15 0, scrollY := argField args 4 31 16 }

/-- R27: the staged image after SOURCE. -/
def sourcedImage (f : PixelFormat) (hd : Held) (args : List Word) : Image :=
  { hd.staged.image with source := some (sourceOf f args), ringRows := sourceRing args }

/-- 10.8: the number of a format in the format argument. -/
theorem formatNamed_eq_some {n : Nat} {f : PixelFormat} (h : n = match f with | .p16 => 1 | .p32 => 2) :
    formatNamed n = some f := by
  cases f <;> subst h <;> rfl

theorem formatNamed_eq_none {n : Nat} (h1 : n ≠ 1) (h2 : n ≠ 2) : formatNamed n = none := by
  unfold formatNamed
  split
  · exact absurd rfl h1
  · exact absurd rfl h2
  · rfl

section
variable {s : State} {c : ClientId} {args : List Word} {w : WindowId} {hd : Held} {f : PixelFormat}

/-- R27: the argument names no format. -/
theorem editSource_no_format (h : formatNamed (argNat args 1) = none) :
    editSource w hd c args s = (s, refusal .badSource) := by
  simp only [editSource, h]

open Classical in
/-- R27: SOURCE judges the ranges, then the pitch and the extent of the image it would stage. -/
theorem editSource_eq (h : formatNamed (argNat args 1) = some f) : editSource w hd c args s =
    if (sourceOf f args).inRange (sourceRing args) = false ∨ ¬ (sourcedImage f hd args).pitchFits then
      (s, refusal .badSource)
    else if (sourcedImage f hd args).fits (s.client hd.owner).aperture = false then (s, refusal .aperture)
    else (setStaged w { hd.staged with image := sourcedImage f hd args } s, accepted []) := by
  rw [ite_or, editSource]
  cases hg : hd.staged.image.geometry with
  | none => simp [Image.pitchFits_iff, sourcedImage, sourceOf, h, hg]
  | some g => simp [Image.pitchFits_iff, sourcedImage, sourceOf, h, hg]
end

/-- Settles O12: the clauses are the branches of the edit, with its ranges, pitch and extent read word for word. -/
theorem sourceSetsSourceAndRing : Obligations.SourceSetsSourceAndRing := by
  intro s t w hd ht he
  rw [exec_source ht]
  refine ⟨fun h1 h2 => ?_, fun f src ring hf hsrc hring => ?_⟩
  · rw [takeMessage_of_edit he (editSource_no_format (formatNamed_eq_none h1 h2))]
  · intro bad short outside
    obtain rfl : src = sourceOf f t.message.args := hsrc
    obtain rfl : ring = sourceRing t.message.args := hring
    obtain ⟨-, hown, -, -⟩ := id he
    have hbad : bad ↔ (sourceOf f t.message.args).inRange (sourceRing t.message.args) = false :=
      Source.inRange_eq_false.symm
    have hshort : short ↔ ¬ (sourcedImage f hd t.message.args).pitchFits := by
      simp [short, Image.not_pitchFits_iff, sourcedImage, sourceOf]
    have houtside : outside ↔
        (sourcedImage f hd t.message.args).fits ((consume t s).client hd.owner).aperture = false := by
      simp [outside, Image.fits_eq_false, sourcedImage, hown]
    have hbody := editSource_eq (s := consume t s) (c := t.client) (w := w) (hd := hd) (formatNamed_eq_some hf)
    rw [hbad, hshort, houtside]
    refine ⟨fun hrefused => ?_, fun hr hp hf => ?_, fun hr hp hf => ?_⟩
    · rw [takeMessage_of_edit he (by rw [hbody, if_pos hrefused])]
    · rw [takeMessage_of_edit he (by rw [hbody, if_neg (not_or.mpr ⟨hr, hp⟩), if_pos hf])]
    · rw [takeMessage_of_restaging he (by rw [hbody, if_neg (not_or.mpr ⟨hr, hp⟩), if_neg hf])]
      rfl

/-! ### COMMIT (R32, R33) -/

/-- R32, R35: the windows an apply of a client on a head processes are its RESERVED and LIVE ones there. -/
theorem Life.appliedFor_iff {l : Life} {c : ClientId} {h : HeadId} : l.appliedFor c h = true ↔
    ∃ hd : Held, hd.owner = c ∧ hd.head = h ∧ (l = .reserved hd ∨ ∃ img fault, l = .live hd img fault) := by
  cases l <;> simp [Life.appliedFor]

/-- R32: what it is for a client to hold a window on a head. -/
theorem State.holdsOn_iff {s : State} {c : ClientId} {h : HeadId} : s.holdsOn c h = true ↔
    ∃ (w : WindowId) (hd : Held), hd.owner = c ∧ hd.head = h ∧
      ((s.window w).life = .reserved hd ∨ ∃ img fault, (s.window w).life = .live hd img fault) := by
  simp only [State.holdsOn, allWindows, List.any_eq_true, List.mem_finRange, true_and, Life.appliedFor_iff]

/-- R49: a head runs unless it is STOPPED. -/
theorem HeadState.running_iff {st : HeadState} : st.running = true ↔ st ≠ .stopped := by
  cases st <;> simp [HeadState.running]

section
variable {s : State} {c : ClientId} {args : List Word} {h : HeadId}

/-- R32: the first refusal. -/
theorem bodyCommit_notPermitted (hp : (s.client c).permittedHead (argNat args 0) = none) :
    bodyCommit c args s = (s, refusal .notPermitted) := by
  simp only [bodyCommit, hp]

/-- R32: the second refusal. -/
theorem bodyCommit_pending (hp : (s.client c).permittedHead (argNat args 0) = some h)
    (hq : c ∈ (s.head h).commitQueue) : bodyCommit c args s = (s, refusal .sealedPending) := by
  simp only [bodyCommit, hp, if_pos (List.contains_iff_mem.mpr hq)]

/-- R32: the client joins the queue of a running head on which it holds a window. -/
theorem bodyCommit_queued (hp : (s.client c).permittedHead (argNat args 0) = some h)
    (hq : c ∉ (s.head h).commitQueue) (hrun : (s.head h).state ≠ .stopped) (hw : s.holdsOn c h = true) :
    bodyCommit c args s = (enqueue c h s, accepted [resultQueued]) := by
  simp only [bodyCommit, hp, List.contains_iff_mem, if_neg hq, HeadState.running_iff.mpr hrun, hw, Bool.and_self,
    if_true]

/-- R33: on a STOPPED head, or without a window there, the client is applied at once. -/
theorem bodyCommit_applied (hp : (s.client c).permittedHead (argNat args 0) = some h)
    (hq : c ∉ (s.head h).commitQueue) (hnot : (s.head h).state = .stopped ∨ ¬ s.holdsOn c h = true) :
    bodyCommit c args s = (applyClients h [c] s, accepted [resultApplied]) := by
  have hcond : ¬ ((s.head h).state.running && s.holdsOn c h) = true := by
    rw [Bool.and_eq_true, HeadState.running_iff]
    tauto
  simp only [bodyCommit, hp, List.contains_iff_mem, if_neg hq, if_neg hcond]
end

theorem consume_enqueue (t : Taken) (s : State) (c : ClientId) (h : HeadId) :
    enqueue c h (consume t s) = consume t (enqueue c h s) := rfl

/-- Settles O15: each clause is one branch of the body, at the head that the argument picks. -/
theorem commitQueuesOrApplies : Obligations.CommitQueuesOrApplies := by
  intro s t ht
  rw [exec_commit ht]
  refine ⟨fun hno => ?_, fun h hn hp => ?_⟩
  · rw [takeMessage_of_body (bodyCommit_notPermitted (Client.permittedHead_eq_none hno))]
  · intro holds
    have hperm : ((consume t s).client t.client).permittedHead (argNat t.message.args 0) = some h :=
      Client.permittedHead_eq_some.mpr ⟨hn, hp⟩
    have hholds : (consume t s).holdsOn t.client h = true ↔ holds := State.holdsOn_iff
    refine ⟨fun hq => ?_, fun hq hrun hw => ?_, fun hq hnot => ?_⟩
    · rw [takeMessage_of_body (bodyCommit_pending hperm hq)]
    · rw [takeMessage_of_body ((bodyCommit_queued hperm hq hrun (hholds.mpr hw)).trans (by rw [consume_enqueue]))]
      rfl
    · rw [← hholds] at hnot
      rw [takeMessage, bodyCommit_applied hperm hq hnot]
      rfl

end Sys2Proof.Machine
end

section
/-! Proofs of the family of raster timing (03): when a timing set is valid, the outputs of a head and NOTICE, whom the
commands of the supervisor name, and what the head commands and the queries do and answer. -/

namespace Sys2Proof.Machine

/-! ### Timing sets (R47) -/

theorem TimingSet.isActive_iff {t : TimingSet} {n : Nat} :
    t.isActive n = true ↔ t.activeFirstLine ≤ n ∧ n < t.activeFirstLine + t.activeHeight := by
  simp [TimingSet.isActive]

/-- 3.1: the accepted ranges. -/
theorem TimingSet.inRange_iff {t : TimingSet} : t.inRange = true ↔
    64 ≤ t.lineTotal ∧ t.lineTotal ≤ 4096 ∧ t.lineSyncEnd ≤ 4095 ∧ 1 ≤ t.activeStartPixel ∧
      t.activeStartPixel ≤ 4095 ∧ 16 ≤ t.activeWidth ∧ t.activeWidth ≤ 2048 ∧ 16 ≤ t.frameTotal ∧
      t.frameTotal ≤ 4096 ∧ t.frameSyncEnd ≤ 4095 ∧ t.activeFirstLine ≤ 4095 ∧ 1 ≤ t.activeHeight ∧
      t.activeHeight ≤ 2048 ∧ t.commitLine ≤ 4095 ∧ t.captureBand ≤ 15 := by
  simp only [TimingSet.inRange, Bool.and_eq_true, decide_eq_true_eq, and_assoc]

/-- R47: where at least one line is active, the model's test is whether the line is one of them. -/
theorem activeLineOf_iff {t : TimingSet} (hh : 1 ≤ t.activeHeight) {n : Nat} :
    ActiveLineOf t n ↔ t.isActive n = true := by
  rw [TimingSet.isActive_iff, ActiveLineOf]
  omega

/-- R47: the band's last lines are subtracted from the frame total, which is larger than they are many. -/
theorem inQuietBand_iff {t : TimingSet} (hf : 16 ≤ t.frameTotal) (hb : t.captureBand ≤ 15) {n : Nat} :
    InQuietBand t n ↔ t.isQuiet n = true := by
  simp only [InQuietBand, TimingSet.isQuiet, Bool.or_eq_true, Bool.and_eq_true, decide_eq_true_eq]
  omega

/-- R47: the active lines are one run, so the quiet band holds none when the run lies between its two parts. -/
theorem active_not_quiet_iff {t : TimingSet} (hr : t.inRange = true)
    (hin : t.activeFirstLine + t.activeHeight ≤ t.frameTotal) :
    (∀ n, ActiveLineOf t n → ¬ InQuietBand t n) ↔
      t.captureBand + 2 < t.activeFirstLine ∧
        t.activeFirstLine + t.activeHeight + t.captureBand + 1 ≤ t.frameTotal := by
  rw [TimingSet.inRange_iff] at hr
  simp only [ActiveLineOf, InQuietBand]
  constructor
  · intro h
    have hfirst := h t.activeFirstLine
    have hlast := h (t.activeFirstLine + t.activeHeight - 1)
    omega
  · intro h n
    omega

/-- R47: lines counted upward from `a` to `b` around a frame of `n` lines. -/
theorem linesAround_eq {a b n : Nat} (h : a < n) : ((b : Int) - a) % n = ((b + n - a) % n : Nat) := by
  have hsum : ((b + n - a : Nat) : Int) = (b : Int) - a + n := by omega
  rw [Int.natCast_mod, hsum, Int.add_emod_right]

/-- Settles O19: with the ranges in force, each relation of the model's check is that of the rule. -/
theorem timingSetValidity : Obligations.TimingSetValidity := by
  intro ts
  rw [← TimingSet.inRange_iff]
  simp only [TimingSet.valid, Bool.and_eq_true, decide_eq_true_eq, Bool.not_eq_true', and_assoc]
  refine and_congr_right fun hr => and_congr_right fun _ => and_congr_right fun _ => and_congr_right fun _ =>
    and_congr_right fun hin => and_congr_right fun hc => ?_
  rw [active_not_quiet_iff hr hin, linesAround_eq hc]
  rw [TimingSet.inRange_iff] at hr
  rw [activeLineOf_iff (by omega), inQuietBand_iff (by omega) (by omega), Bool.not_eq_true, Bool.not_eq_true]
  norm_cast
  tauto

/-! ### Outputs (R53 to R57) and NOTICE (R158) -/

theorem HeadState.displaying_iff {st : HeadState} :
    st.displaying = true ↔ st = .freeRun ∨ st = .locked ∨ st = .holdover := by
  cases st <;> simp [HeadState.displaying]

/-- R57, R59: a head drives no raster while it is STOPPED and until its first line start. -/
theorem Head.raster_eq_none {hd : Head} (h : hd.state = .stopped ∨ hd.startPending = true) : hd.raster = none := by
  rcases h with h | h <;> simp [Head.raster, h, HeadState.running]

theorem Head.raster_eq_some {hd : Head} {ts : TimingSet} (hs : hd.state ≠ .stopped) (hp : hd.startPending = false)
    (ht : hd.timing = some ts) : hd.raster = some ts := by
  simp [Head.raster, HeadState.running_iff.mpr hs, hp, ht]

theorem Head.backgroundColour_eq (hd : Head) : hd.backgroundColour = (hd.timing.map TimingSet.background).getD 0 := by
  unfold Head.backgroundColour
  cases hd.timing <;> rfl

/-- R53 to R57: the outputs of a head that drives no raster. -/
theorem Head.outputs_of_no_raster {hd : Head} (h : hd.raster = none) :
    hd.lsyncHigh = true ∧ hd.fsyncHigh = true ∧ hd.activeHigh = false ∧
      hd.pix = (hd.timing.map TimingSet.background).getD 0 := by
  have hactive : hd.activeHigh = false := by simp only [Head.activeHigh, h]
  refine ⟨by simp only [Head.lsyncHigh, h], by simp only [Head.fsyncHigh, h], hactive, ?_⟩
  rw [Head.pix, hactive, ← Head.backgroundColour_eq]
  rfl

section
variable {hd : Head} {ts : TimingSet}

/-- R53. -/
theorem Head.lsyncHigh_eq_false (h : hd.raster = some ts) : hd.lsyncHigh = false ↔ hd.pixel ≤ ts.lineSyncEnd := by
  simp only [Head.lsyncHigh, h, decide_eq_false_iff_not, not_lt]

/-- R54. -/
theorem Head.fsyncHigh_eq_false (h : hd.raster = some ts) : hd.fsyncHigh = false ↔ hd.line ≤ ts.frameSyncEnd := by
  simp only [Head.fsyncHigh, h, decide_eq_false_iff_not, not_lt]

/-- R55. -/
theorem Head.activeHigh_eq_true (h : hd.raster = some ts) : hd.activeHigh = true ↔
    (hd.state = .freeRun ∨ hd.state = .locked ∨ hd.state = .holdover) ∧
      ts.activeFirstLine ≤ hd.line ∧ hd.line < ts.activeFirstLine + ts.activeHeight ∧
      ts.activeStartPixel ≤ hd.pixel ∧ hd.pixel < ts.activeStartPixel + ts.activeWidth := by
  simp only [Head.activeHigh, h, Head.inActivePeriod, Bool.and_eq_true, HeadState.displaying_iff,
    TimingSet.isActive_iff, decide_eq_true_eq, and_assoc]
end

/-- R56. -/
theorem Head.pix_of_active {hd : Head} {ts : TimingSet} (ht : hd.timing = some ts) (ha : hd.activeHigh = true) :
    hd.pix = hd.assembledPixel ts.background := by
  simp only [Head.pix, ha, if_true, Head.backgroundColour, ht]

/-- R56. -/
theorem Head.pix_of_not_active {hd : Head} {ts : TimingSet} (ht : hd.timing = some ts) (ha : hd.activeHigh = false) :
    hd.pix = ts.background := by
  simp only [Head.pix, ha, Bool.false_eq_true, if_false, Head.backgroundColour, ht]

/-- R158: some bit is set in a set of kinds and not in the mask. -/
theorem and_not_ne_zero_iff {n : Nat} (a b : BitVec n) :
    (a &&& ~~~b != 0) = true ↔ ∃ i, i < n ∧ a.getLsbD i = true ∧ b.getLsbD i = false := by
  rw [bne_iff_ne, ne_eq, ← not_iff_not, not_not]
  constructor
  · rintro h ⟨i, hi, ha, hb⟩
    have hbit : (a &&& ~~~b).getLsbD i = true := by
      rw [BitVec.getLsbD_and, BitVec.getLsbD_not, ha, hb, decide_eq_true hi]
      rfl
    rw [h] at hbit
    simp at hbit
  · intro h
    apply BitVec.eq_of_getLsbD_eq
    intro i hi
    rw [BitVec.getLsbD_and, BitVec.getLsbD_not, decide_eq_true hi]
    by_contra hbit
    exact h ⟨i, hi, by simpa using hbit⟩

/-- R158, 10.8: the kinds pending and not masked, position by position. -/
theorem NoticeRecord.unmasked_iff {r : NoticeRecord} : r.unmasked = true ↔ r.someUnmasked := by
  have hbit : ∀ i, r.pendingBits.getLsbD i = r.pendingKinds.getD i false := fun i => BitVec.getLsbD_ofBoolListLE
  rw [NoticeRecord.unmasked, and_not_ne_zero_iff]
  simp only [hbit, Nat.exists_lt_succ_right, Nat.not_lt_zero, false_and, exists_false, false_or,
    NoticeRecord.someUnmasked, or_assoc, ← Option.isSome_iff_ne_none, NoticeRecord.pendingKinds]
  rfl

/-- Settles O37: by whether the head drives a raster; NOTICE is the indications over all clients. -/
theorem outputsFollowTheState : Obligations.OutputsFollowTheState := by
  refine ⟨fun hd => ⟨fun h => Head.outputs_of_no_raster (Head.raster_eq_none h), fun ts hs hp ht => ?_⟩,
    fun s => ⟨fun c => ?_, ?_⟩⟩
  · have hr := Head.raster_eq_some hs hp ht
    exact ⟨Head.lsyncHigh_eq_false hr, Head.fsyncHigh_eq_false hr, Head.activeHigh_eq_true hr,
      Head.pix_of_active ht, Head.pix_of_not_active ht⟩
  · rw [State.indication, Bool.and_eq_true, beq_iff_eq, NoticeRecord.unmasked_iff]
  · simp [State.noticeLine, allClients]

/-! ### The head and client commands as their bodies -/

section
variable {s : State} {t : Taken}

theorem exec_setTiming (h : Takes s 0x20 7 t) :
    exec .setTiming s = .next (takeMessage t (supervisorOnly bodySetTiming) s) :=
  congrArg Host.Outcome.next (engineTake_of_takes h _)

theorem exec_startHead (h : Takes s 0x21 2 t) :
    exec .startHead s = .next (takeMessage t (supervisorOnly bodyStartHead) s) :=
  congrArg Host.Outcome.next (engineTake_of_takes h _)

theorem exec_stopHead (h : Takes s 0x22 1 t) :
    exec .stopHead s = .next (takeMessage t (supervisorOnly bodyStopHead) s) :=
  congrArg Host.Outcome.next (engineTake_of_takes h _)

theorem exec_queryHead (h : Takes s 0x23 1 t) : exec .queryHead s = .next (takeMessage t bodyQueryHead s) :=
  congrArg Host.Outcome.next (engineTake_of_takes h _)

theorem exec_openClient (h : Takes s 0x30 4 t) :
    exec .openClient s = .next (takeMessage t (supervisorOnly (onTenant bodyOpenClient)) s) :=
  congrArg Host.Outcome.next (engineTake_of_takes h _)

theorem exec_closeClient (h : Takes s 0x31 1 t) :
    exec .closeClient s = .next (takeMessage t (supervisorOnly (onTenant bodyCloseClient)) s) :=
  congrArg Host.Outcome.next (engineTake_of_takes h _)

theorem exec_setAperture (h : Takes s 0x32 3 t) :
    exec .setAperture s = .next (takeMessage t (supervisorOnly (onTenant bodySetAperture)) s) :=
  congrArg Host.Outcome.next (engineTake_of_takes h _)

theorem exec_setHeads (h : Takes s 0x33 2 t) :
    exec .setHeads s = .next (takeMessage t (supervisorOnly (onTenant bodySetHeads)) s) :=
  congrArg Host.Outcome.next (engineTake_of_takes h _)

theorem exec_queryClient (h : Takes s 0x34 1 t) : exec .queryClient s = .next (takeMessage t bodyQueryClient s) :=
  congrArg Host.Outcome.next (engineTake_of_takes h _)

theorem exec_reclaimTags (h : Takes s 0x40 0 t) :
    exec .reclaimTags s = .next (takeMessage t (supervisorOnly bodyReclaimTags) s) :=
  congrArg Host.Outcome.next (engineTake_of_takes h _)

/-- R171 check 3: a supervisor command from channel 0 does what its body does. -/
theorem takeMessage_supervisorOnly (hc : t.client = 0) (body : Body) :
    takeMessage t (supervisorOnly body) s = takeMessage t body s := by
  simp only [takeMessage, supervisorOnly, hc, if_true]

/-- R171 check 3: from another channel it is refused. -/
theorem takeMessage_not_supervisor (hc : t.client ≠ 0) (body : Body) :
    takeMessage t (supervisorOnly body) s = answered t (refusal .notPermitted) s :=
  takeMessage_of_body (by rw [supervisorOnly, if_neg hc])
end

/-- 10.8: each supervisor command of the table makes that check before its own. -/
theorem exec_of_supervisor {i : Instr} {row : CommandRow} (hi : i.commandRow = some row) (hs : row.supervisor = true) :
    ∃ body, ∀ {s : State} {t : Taken}, Takes s row.code row.argc t →
      exec i s = .next (takeMessage t (supervisorOnly body) s) := by
  cases i with
  | setTiming => cases hi; exact ⟨_, exec_setTiming⟩
  | startHead => cases hi; exact ⟨_, exec_startHead⟩
  | stopHead => cases hi; exact ⟨_, exec_stopHead⟩
  | openClient => cases hi; exact ⟨_, exec_openClient⟩
  | closeClient => cases hi; exact ⟨_, exec_closeClient⟩
  | setAperture => cases hi; exact ⟨_, exec_setAperture⟩
  | setHeads => cases hi; exact ⟨_, exec_setHeads⟩
  | reclaimTags => cases hi; exact ⟨_, exec_reclaimTags⟩
  | _ => cases hi <;> cases hs

/-- R138: each of the four client commands judges its client argument before anything of its own. -/
theorem exec_of_tenant_command {i : Instr} {row : CommandRow}
    (h : i = .openClient ∨ i = .closeClient ∨ i = .setAperture ∨ i = .setHeads) (hi : i.commandRow = some row) :
    ∃ cmd, ∀ {s : State} {t : Taken}, Takes s row.code row.argc t →
      exec i s = .next (takeMessage t (supervisorOnly (onTenant cmd)) s) := by
  rcases h with rfl | rfl | rfl | rfl <;> cases hi
  · exact ⟨_, exec_openClient⟩
  · exact ⟨_, exec_closeClient⟩
  · exact ⟨_, exec_setAperture⟩
  · exact ⟨_, exec_setHeads⟩

/-! ### Head, mode and client arguments (R66, R138, R174) -/

theorem headNamed_eq_none {n : Nat} (h : ∀ x : HeadId, n ≠ x.val) : headNamed n = none := by
  rw [Option.eq_none_iff_forall_ne_some]
  exact fun x hx => h x (headNamed_eq_some.mp hx)

theorem clientNamed_eq_some {n : Nat} {c : ClientId} : clientNamed n = some c ↔ n = c.val := by
  unfold clientNamed
  split <;> simp [Fin.ext_iff]
  omega

theorem clientNamed_eq_none {n : Nat} (h : 7 < n) : clientNamed n = none := by
  rw [clientNamed, dif_neg (by omega)]

theorem modeNamed_eq_some {n : Nat} (h : n ≤ 1) : modeNamed n = some (if n = 0 then .freeRun else .seeking) := by
  match n, h with
  | 0, _ => rfl
  | 1, _ => rfl

theorem modeNamed_eq_none {n : Nat} (h : 1 < n) : modeNamed n = none := by
  match n, h with
  | _ + 2, _ => rfl

section
variable {s : State} {c : ClientId} {args : List Word} (cmd : ClientId → Body)

/-- R138: the argument names no client. -/
theorem onTenant_badCommand (h : clientNamed (argNat args 0) = none) :
    onTenant cmd c args s = (s, refusal .badCommand) := by
  simp only [onTenant, h]

/-- R137: the argument names client 0. -/
theorem onTenant_notPermitted (h : clientNamed (argNat args 0) = some 0) :
    onTenant cmd c args s = (s, refusal .notPermitted) := by
  simp only [onTenant, h, if_true]
end

/-! ### SET_TIMING (R48) -/

theorem consume_setHead (t : Taken) (s : State) (h : HeadId) (v : Head) :
    (consume t s).setHead h v = consume t (s.setHead h v) := rfl

section
variable {s : State} {c : ClientId} {args : List Word} {h : HeadId}

theorem bodySetTiming_badCommand (hh : headNamed (argField args 5 15 0) = none) :
    bodySetTiming c args s = (s, refusal .badCommand) := by
  simp only [bodySetTiming, hh]

theorem bodySetTiming_headState (hh : headNamed (argField args 5 15 0) = some h) (hs : (s.head h).state ≠ .stopped) :
    bodySetTiming c args s = (s, refusal .headState) := by
  simp only [bodySetTiming, hh, if_pos hs]

theorem bodySetTiming_badTiming (hh : headNamed (argField args 5 15 0) = some h) (hs : (s.head h).state = .stopped)
    (hv : (timingOf args).valid = false) : bodySetTiming c args s = (s, refusal .badTiming) := by
  simp only [bodySetTiming, hh, if_neg (not_not.mpr hs), if_pos hv]

theorem bodySetTiming_accepted (hh : headNamed (argField args 5 15 0) = some h) (hs : (s.head h).state = .stopped)
    (hv : (timingOf args).valid = true) :
    bodySetTiming c args s = (s.setHead h { s.head h with timing := some (timingOf args) }, accepted []) := by
  simp only [bodySetTiming, hh, if_neg (not_not.mpr hs), hv, Bool.true_eq_false, if_false]
end

/-- 10.8: the background colour is bits 23:0 of word 7. -/
theorem backgroundArg_eq (args : List Word) : (argWord args 6).extractLsb 23 0 = BitVec.ofNat 24 (argNat args 6) := by
  apply BitVec.eq_of_toNat_eq
  simp [argNat]

/-! ### START_HEAD (R58) -/

section
variable {s : State} {c : ClientId} {args : List Word} {h : HeadId} {st : HeadState}

theorem bodyStartHead_badCommand (hn : headNamed (argNat args 0) = none ∨ modeNamed (argNat args 1) = none) :
    bodyStartHead c args s = (s, refusal .badCommand) := by
  rcases hn with hn | hn
  · simp only [bodyStartHead, hn]
  · cases hh : headNamed (argNat args 0) <;> simp only [bodyStartHead, hh, hn]

theorem bodyStartHead_headState (hh : headNamed (argNat args 0) = some h) (hm : modeNamed (argNat args 1) = some st)
    (hs : (s.head h).state ≠ .stopped) : bodyStartHead c args s = (s, refusal .headState) := by
  simp only [bodyStartHead, hh, hm, if_pos hs]

theorem bodyStartHead_badTiming (hh : headNamed (argNat args 0) = some h) (hm : modeNamed (argNat args 1) = some st)
    (hs : (s.head h).state = .stopped) (ht : (s.head h).timing = none) :
    bodyStartHead c args s = (s, refusal .badTiming) := by
  simp only [bodyStartHead, hh, hm, if_neg (not_not.mpr hs), ht, Option.isNone_none, if_true]

theorem bodyStartHead_accepted (hh : headNamed (argNat args 0) = some h) (hm : modeNamed (argNat args 1) = some st)
    (hs : (s.head h).state = .stopped) (ht : (s.head h).timing ≠ none) :
    bodyStartHead c args s = (s.setHead h ((s.head h).started st), accepted []) := by
  simp only [bodyStartHead, hh, hm, if_neg (not_not.mpr hs), Option.isNone_iff_eq_none, if_neg ht]
end

/-- Settles O20: each clause is one branch of its body, at the head that the argument picks. -/
theorem setTimingAndStartHead : Obligations.SetTimingAndStartHead := by
  refine ⟨fun s t h ts ht hc hn hts => ?_, fun s t h ht hc hn hmode => ?_⟩
  · obtain rfl : ts = timingOf t.message.args := by rw [hts, timingOf, backgroundArg_eq]
    have hh := headNamed_eq_some.mpr hn
    rw [exec_setTiming ht, takeMessage_supervisorOnly hc]
    refine ⟨fun hs => ?_, fun hs hv => ?_, fun hs hv => ?_⟩
    · rw [takeMessage_of_body (bodySetTiming_headState hh hs)]
    · rw [takeMessage_of_body (bodySetTiming_badTiming hh hs hv)]
    · rw [takeMessage_of_body ((bodySetTiming_accepted (s := consume t s) hh hs hv).trans (by rw [consume_setHead]))]
      rfl
  · have hh := headNamed_eq_some.mpr hn
    have hm := modeNamed_eq_some hmode
    rw [exec_startHead ht, takeMessage_supervisorOnly hc]
    refine ⟨fun hs => ?_, fun hs htiming => ?_, fun hs htiming => ?_⟩
    · rw [takeMessage_of_body (bodyStartHead_headState hh hm hs)]
    · rw [takeMessage_of_body (bodyStartHead_badTiming hh hm hs htiming)]
    · rw [takeMessage_of_body ((bodyStartHead_accepted (s := consume t s) hh hm hs htiming).trans
        (by rw [consume_setHead]))]
      rfl

/-! ### STOP_HEAD and QUERY_HEAD: their refusals and answers (R60, R63, R64) -/

section
variable {s : State} {c : ClientId} {args : List Word} {h : HeadId}

theorem bodyStopHead_badCommand (hh : headNamed (argNat args 0) = none) :
    bodyStopHead c args s = (s, refusal .badCommand) := by
  simp only [bodyStopHead, hh]

theorem bodyStopHead_stopped (hh : headNamed (argNat args 0) = some h) (hs : (s.head h).state = .stopped) :
    bodyStopHead c args s = (s, accepted []) := by
  simp only [bodyStopHead, hh, if_pos hs]

theorem bodyStopHead_running (hh : headNamed (argNat args 0) = some h) (hs : (s.head h).state ≠ .stopped) :
    bodyStopHead c args s = (stopRunning h s, accepted []) := by
  simp only [bodyStopHead, hh, if_neg hs]

/-- R64: a tenant that is not permitted the head. -/
theorem bodyQueryHead_notPermitted (hc : c ≠ 0) (hp : (s.client c).permittedHead (argNat args 0) = none) :
    bodyQueryHead c args s = (s, refusal .notPermitted) := by
  rw [bodyQueryHead, if_pos ⟨hc, hp⟩]

/-- R66: the supervisor, and no head. -/
theorem bodyQueryHead_badCommand (hc : c = 0) (hh : headNamed (argNat args 0) = none) :
    bodyQueryHead c args s = (s, refusal .badCommand) := by
  simp only [bodyQueryHead, hc, ne_eq, not_true_eq_false, false_and, if_false, hh]

/-- R63: the answer. -/
theorem bodyQueryHead_accepted (hh : headNamed (argNat args 0) = some h)
    (hp : c = 0 ∨ (s.client c).heads.has h = true) :
    bodyQueryHead c args s = (s, accepted (headWords (s.head h))) := by
  have hperm : ¬ (c ≠ 0 ∧ (s.client c).permittedHead (argNat args 0) = none) := by
    rintro ⟨hc, hnone⟩
    have hsome := Client.permittedHead_eq_some.mpr ⟨headNamed_eq_some.mp hh, hp.resolve_left hc⟩
    rw [hnone] at hsome
    cases hsome
  simp only [bodyQueryHead, if_neg hperm, hh]
end

/-- Settles O22: who asks is judged for every supervisor command at once, whom it names by one branch of each body. -/
theorem commandsCheckWhoAndWhom : Obligations.CommandsCheckWhoAndWhom := by
  refine ⟨fun s t i row hi hs ht hc => ?_, fun s t n hc hno => ⟨fun ht hn => ?_, fun hn => ?_⟩,
    fun s t ht hc hmode => ?_, fun s t ht hc hno => ?_, fun s t i row hwhich hi ht hc => ?_⟩
  · obtain ⟨body, hexec⟩ := exec_of_supervisor hi hs
    rw [hexec ht, takeMessage_not_supervisor hc]
  · rw [exec_setTiming ht, takeMessage_supervisorOnly hc,
      takeMessage_of_body (bodySetTiming_badCommand (headNamed_eq_none (hn ▸ hno)))]
  · have hh : headNamed (argNat t.message.args 0) = none := headNamed_eq_none (hn ▸ hno)
    refine ⟨fun ht => ?_, fun ht => ?_, fun ht => ?_⟩
    · rw [exec_startHead ht, takeMessage_supervisorOnly hc, takeMessage_of_body (bodyStartHead_badCommand (.inl hh))]
    · rw [exec_stopHead ht, takeMessage_supervisorOnly hc, takeMessage_of_body (bodyStopHead_badCommand hh)]
    · rw [exec_queryHead ht, takeMessage_of_body (bodyQueryHead_badCommand hc hh)]
  · rw [exec_startHead ht, takeMessage_supervisorOnly hc,
      takeMessage_of_body (bodyStartHead_badCommand (.inr (modeNamed_eq_none hmode)))]
  · rw [exec_queryHead ht, takeMessage_of_body (bodyQueryHead_notPermitted hc (Client.permittedHead_eq_none hno))]
  · obtain ⟨cmd, hexec⟩ := exec_of_tenant_command hwhich hi
    rw [hexec ht, takeMessage_supervisorOnly hc]
    refine ⟨fun hn => ?_, fun hn => ?_⟩
    · rw [takeMessage_of_body (onTenant_badCommand cmd (clientNamed_eq_none hn))]
    · rw [takeMessage_of_body (onTenant_notPermitted cmd (clientNamed_eq_some.mpr hn))]

/-! ### The words of QUERY_HEAD and QUERY_CLIENT (R63, R149, 10.8) -/

section
variable {s : State} {c n : ClientId} {args : List Word}

theorem bodyQueryClient_badCommand (hn : clientNamed (argNat args 0) = none) :
    bodyQueryClient c args s = (s, refusal .badCommand) := by
  simp only [bodyQueryClient, hn]

theorem bodyQueryClient_notPermitted (hn : clientNamed (argNat args 0) = some n) (hc : c ≠ 0) (hne : c ≠ n) :
    bodyQueryClient c args s = (s, refusal .notPermitted) := by
  simp only [bodyQueryClient, hn, if_pos (And.intro hc hne)]

theorem bodyQueryClient_accepted (hn : clientNamed (argNat args 0) = some n) (hc : c = 0 ∨ c = n) :
    bodyQueryClient c args s = (s, accepted (clientWords (s.client n))) := by
  have hperm : ¬ (c ≠ 0 ∧ c ≠ n) := by tauto
  simp only [bodyQueryClient, hn, if_neg hperm]
end

theorem HeadState.code_lt (st : HeadState) : st.code < 8 := by cases st <;> decide

theorem ClientState.code_lt (st : ClientState) : st.code < 4 := by cases st <;> decide

/-- R63: what the two result words of QUERY_HEAD carry. -/
theorem headWords_report {hd : Head} (hm : hd.misses ≤ 3) (hl : hd.line ≤ 4095) :
    ∃ x y, headWords hd = [x, y] ∧ fieldOf x 2 0 = hd.state.code ∧ (fieldOf x 8 8 = 1 ↔ hd.timing ≠ none) ∧
      fieldOf x 17 16 = hd.misses ∧ fieldOf y 15 0 = hd.line ∧ fieldOf y 31 16 = hd.frames.toNat := by
  have hrise : RisingLayout [(2, 0, hd.state.code), (8, 8, markBit hd.timing.isSome), (17, 16, hd.misses)] := by
    simp [RisingLayout]
  refine ⟨_, _, rfl, ?_, ?_, ?_, fieldOf_packWord_pair (by decide) (by omega) hd.frames.isLt⟩
  · exact fieldOf_packWord_of_mem hrise (by simp) (HeadState.code_lt _)
  · rw [fieldOf_packWord_of_mem hrise (v := markBit hd.timing.isSome) (by simp) (markBit_lt _), markBit_eq_one,
      Option.isSome_iff_ne_none]
  · exact fieldOf_packWord_of_mem hrise (by simp) (by omega)

/-- A field of one bit. -/
theorem fieldOf_bit (w : Word) (i : Nat) : fieldOf w i i = (w.getLsbD i).toNat := by
  apply Nat.eq_of_testBit_eq
  intro j
  rw [testBit_fieldOf, Nat.testBit_bool_toNat]
  by_cases hj : j = 0 <;> simp [hj]

theorem HeadSet.code_testBit (hs : HeadSet) : hs.code.testBit 0 = hs.has 0 ∧ hs.code.testBit 1 = hs.has 1 := by
  obtain ⟨a, b⟩ := hs
  cases a <;> cases b <;> decide

/-- 10.8: a set of heads read bit by bit, at the two bits its code stands at. -/
theorem fieldOf_headSet_bits {w : Word} {hs : HeadSet} (h : fieldOf w 25 24 = hs.code) :
    (fieldOf w 24 24 = 1 ↔ hs.has 0 = true) ∧ (fieldOf w 25 25 = 1 ↔ hs.has 1 = true) := by
  obtain ⟨h0, h1⟩ := HeadSet.code_testBit hs
  rw [← h, testBit_fieldOf] at h0 h1
  rw [fieldOf_bit, fieldOf_bit, Bool.toNat_eq_one, Bool.toNat_eq_one, ← h0, ← h1]
  simp

/-- R149: what the three result words of QUERY_CLIENT carry. -/
theorem clientWords_report {k : Client} (hq : k.quota ≤ 48) (hh : k.held ≤ 48)
    (ha : ∀ a, k.aperture = some a → a.base ≤ 1048575 ∧ a.limit ≤ 1048575) :
    ∃ x y z, clientWords k = [x, y, z] ∧ fieldOf x 1 0 = k.state.code ∧ fieldOf x 13 8 = k.quota ∧
      fieldOf x 21 16 = k.held ∧ (fieldOf x 24 24 = 1 ↔ k.heads.has 0 = true) ∧
      (fieldOf x 25 25 = 1 ↔ k.heads.has 1 = true) ∧ (fieldOf x 28 28 = 1 ↔ k.aperture ≠ none) ∧
      (match k.aperture with
       | some a => y.toNat = a.base ∧ z.toNat = a.limit
       | none => y = 0 ∧ z = 0) := by
  have hrise : RisingLayout [(1, 0, k.state.code), (13, 8, k.quota), (21, 16, k.held), (25, 24, k.heads.code),
      (28, 28, markBit k.aperture.isSome)] := by simp [RisingLayout]
  have hcode : k.heads.code < 4 := by unfold HeadSet.code; split <;> split <;> decide
  obtain ⟨h0, h1⟩ := fieldOf_headSet_bits (fieldOf_packWord_of_mem hrise (v := k.heads.code) (by simp) hcode)
  refine ⟨_, _, _, rfl, ?_, ?_, ?_, h0, h1, ?_, ?_⟩
  · exact fieldOf_packWord_of_mem hrise (by simp) (ClientState.code_lt _)
  · exact fieldOf_packWord_of_mem hrise (by simp) (by omega)
  · exact fieldOf_packWord_of_mem hrise (by simp) (by omega)
  · rw [fieldOf_packWord_of_mem hrise (v := markBit k.aperture.isSome) (by simp) (markBit_lt _), markBit_eq_one,
      Option.isSome_iff_ne_none]
  · cases hap : k.aperture with
    | none => exact ⟨rfl, rfl⟩
    | some a =>
      obtain ⟨hb, hl⟩ := ha a hap
      exact ⟨Nat.mod_eq_of_lt (by simp; omega), Nat.mod_eq_of_lt (by simp; omega)⟩

/-- Settles O23: the refusals are branches of the bodies, and the words answered read back field by field. -/
theorem queriesReportHeadAndClient : Obligations.QueriesReportHeadAndClient := by
  refine ⟨fun s t h ht hn hp hm hl => ?_, fun s t ht => ?_⟩
  · obtain ⟨x, y, hwords, hstate, hrest⟩ := headWords_report hm hl
    have hbody := bodyQueryHead_accepted (s := consume t s) (headNamed_eq_some.mpr hn) hp
    rw [consume_head, hwords] at hbody
    refine ⟨x, y, by rw [exec_queryHead ht, takeMessage_of_body hbody], ?_, hrest⟩
    rw [hstate]
    cases (s.head h).state <;> rfl
  · rw [exec_queryClient ht]
    refine ⟨fun hn => ?_, fun n hn => ⟨fun hc hne => ?_, fun hc hquota hheld hap => ?_⟩⟩
    · rw [takeMessage_of_body (bodyQueryClient_badCommand (clientNamed_eq_none hn))]
    · rw [takeMessage_of_body (bodyQueryClient_notPermitted (clientNamed_eq_some.mpr hn) hc hne)]
    · obtain ⟨x, y, z, hwords, hstate, hrest⟩ := clientWords_report hquota hheld hap
      have hbody := bodyQueryClient_accepted (s := consume t s) (clientNamed_eq_some.mpr hn) hc
      rw [consume_client, hwords] at hbody
      refine ⟨x, y, z, by rw [takeMessage_of_body hbody], ?_, hrest⟩
      rw [hstate]
      cases (s.client n).state <;> rfl

end Sys2Proof.Machine
end

section
/-! What a part of a step about one head leaves alone: the host side, the other head, its tags, the windows and the
notices that are not its own. Proved once for each operation. -/

namespace Sys2Proof.Machine

/-! ### Which clients close over a step (R45, R144) -/

/-- From `s` to `u` only CLOSING clients have become CLOSED. -/
def StatesFollow (s u : State) : Prop :=
  ∀ c, (u.client c).state = (s.client c).state ∨ ((s.client c).state = .closing ∧ (u.client c).state = .closed)

section
variable {s u v : State}

theorem StatesFollow.closes_iff (a : StatesFollow s u) (b : StatesFollow u v) (c : ClientId) :
    Closes s v c ↔ Closes s u c ∨ Closes u v c := by
  unfold Closes
  rcases a c with e | ⟨e, f⟩ <;> rcases b c with g | ⟨g, k⟩ <;> simp_all

theorem StatesFollow.trans (a : StatesFollow s u) (b : StatesFollow u v) : StatesFollow s v := by
  intro c
  rcases a c with e | ⟨e, f⟩ <;> rcases b c with g | ⟨g, k⟩ <;> simp_all

theorem StatesFollow.of_same (h : ∀ c, (u.client c).state = (s.client c).state) : StatesFollow s u :=
  fun c => .inl (h c)

/-- A client that was not CLOSING is not CLOSING. -/
theorem StatesFollow.not_closing (a : StatesFollow s u) {c : ClientId} (h : (s.client c).state ≠ .closing) :
    (u.client c).state ≠ .closing := by
  rcases a c with e | ⟨e, -⟩
  · rwa [e]
  · exact absurd e h

theorem queueLeft_of_same (h : ∀ c, (u.client c).state = (s.client c).state) (x : HeadId) :
    queueLeft s u x = (s.head x).commitQueue := by
  apply List.filter_eq_self.mpr
  intro c _
  simp [Closes, h]

/-- R45: what two steps leave of a queue, when the first left what it should. -/
theorem queueLeft_trans (a : StatesFollow s u) (b : StatesFollow u v) {x : HeadId}
    (hq : (u.head x).commitQueue = queueLeft s u x) : queueLeft u v x = queueLeft s v x := by
  rw [queueLeft, hq, queueLeft, queueLeft, List.filter_filter]
  apply List.filter_congr
  intro c _
  simp [a.closes_iff b, Bool.and_comm]

theorem HeadKept.queue {x : HeadId} (h : HeadKept s u x) : (u.head x).commitQueue = queueLeft s u x := by rw [h]

theorem HeadKept.depthList {x : HeadId} (h : HeadKept s u x) : (u.head x).depthList = (s.head x).depthList := by rw [h]

theorem HeadKept.of_same (h : ∀ c, (u.client c).state = (s.client c).state) {x : HeadId} (hh : u.head x = s.head x) :
    HeadKept s u x := by
  rw [HeadKept, queueLeft_of_same h, hh]

theorem HeadKept.trans (a : StatesFollow s u) (b : StatesFollow u v) {x : HeadId} (h : HeadKept s u x)
    (g : HeadKept u v x) : HeadKept s v x := by
  have hv : v.head x = { u.head x with commitQueue := queueLeft s v x } := by
    rw [← queueLeft_trans a b h.queue]
    exact g
  rw [HeadKept, hv, h]

/-- Nothing of the host side changes over two steps that each leave it. -/
theorem HostSideKept.trans (a : HostSideKept s u) (b : HostSideKept u v) : HostSideKept s v where
  pending := b.pending.trans a.pending
  resetHeld := b.resetHeld.trans a.resetHeld
  readData := b.readData.trans a.readData
  channels := b.channels.trans a.channels
  pointer := b.pointer.trans a.pointer
  clients c hc := by
    obtain ⟨hu, hm⟩ := a.clients c hc
    obtain ⟨hv, hn⟩ := b.clients c (by rw [hu]; exact hc)
    exact ⟨hv.trans (by rw [hu]), hn.trans hm⟩

theorem keepFirst_keepFirst {α : Type} (a x y : Option α) :
    keepFirst (keepFirst a x) y = keepFirst a (keepFirst x y) := by
  cases a <;> rfl

theorem keepFirst_none {α : Type} (a : Option α) : keepFirst a none = a := by
  cases a <;> rfl

theorem firstSubject_eq {α : Type} (a : Option α) (x : α) : firstSubject a x = keepFirst a (some x) := by
  cases a <;> rfl

/-- R144, R152: from `s` to `u` CLIENT_CLOSED of client 0's record goes from `before` to `after`: it is set exactly
when a client becomes CLOSED. -/
def ToldClosed (s u : State) (before after : Option ClientId) : Prop :=
  ∃ x, after = keepFirst before x ∧ (x = none → ∀ c, ¬ Closes s u c) ∧ ∀ c, x = some c → Closes s u c

theorem ToldClosed.trans (a : StatesFollow s u) (b : StatesFollow u v) {n m k : Option ClientId}
    (h : ToldClosed s u n m) (g : ToldClosed u v m k) : ToldClosed s v n k := by
  obtain ⟨x, hm, hnone, hsome⟩ := h
  obtain ⟨y, hk, gnone, gsome⟩ := g
  refine ⟨keepFirst x y, by rw [hk, hm, keepFirst_keepFirst], ?_, ?_⟩
  · intro hxy c
    cases x with
    | some d => cases hxy
    | none =>
      rw [a.closes_iff b]
      exact not_or.mpr ⟨hnone rfl c, gnone hxy c⟩
  · intro c hxy
    rw [a.closes_iff b]
    cases x with
    | some d => exact .inl (hsome c hxy)
    | none => exact .inr (gsome c hxy)
end

/-! ### What a part of a step leaves alone

A step of the part (a line start, the stop of a head) is a chain of parts, each about one head. `PartFrame` is what
every part keeps, `QuietFrame` what every part but the apply keeps; both pass along the chain. -/

/-- What every part of a step about head `h` leaves alone, up to the notice kinds that `blank` blanks in the record
of each client. -/
structure PartFrame (blank : ClientId → NoticeRecord → NoticeRecord) (h : HeadId) (s u : State) : Prop where
  side    : HostSideKept s u
  served  : u.lastServed = s.lastServed
  states  : StatesFollow s u
  others  : ∀ x, x ≠ h → HeadKept s u x
  tags    : ∀ i, (s.tag i).head ≠ h → u.tag i = s.tag i
  lives   : ∀ w, (s.window w).life.isRetiring = false → (∀ hd, (s.window w).life.held? = some hd → hd.head ≠ h) →
    (u.window w).life = (s.window w).life
  kinds   : ∀ c, (s.client c).state ≠ .closing →
    blank c { u.notice c with retired := none, clientClosed := none } =
      blank c { s.notice c with retired := none, clientClosed := none }
  tenants : ∀ c, (s.client c).state ≠ .closing → c ≠ 0 → (u.notice c).clientClosed = (s.notice c).clientClosed
  told    : (s.client 0).state ≠ .closing →
    ToldClosed s u (s.notice 0).clientClosed (u.notice 0).clientClosed

/-- What every part but the apply leaves alone besides: windows that are not RETIRING, the head's Depth List, and its
Commit Queue but for clients that become CLOSED. -/
structure QuietFrame (blank : ClientId → NoticeRecord → NoticeRecord) (h : HeadId) (s u : State) : Prop
    extends PartFrame blank h s u where
  kept  : LivesKept s u
  list  : (u.head h).depthList = (s.head h).depthList
  queue : (u.head h).commitQueue = queueLeft s u h

section
variable {blank : ClientId → NoticeRecord → NoticeRecord} {h : HeadId} {s u v : State}

theorem PartFrame.trans (a : PartFrame blank h s u) (b : PartFrame blank h u v) : PartFrame blank h s v where
  side := a.side.trans b.side
  served := b.served.trans a.served
  states := a.states.trans b.states
  others x hx := .trans a.states b.states (a.others x hx) (b.others x hx)
  tags i hi := by
    have hu := a.tags i hi
    rw [b.tags i (by rwa [hu]), hu]
  lives w hw hh := by
    have hu := a.lives w hw hh
    rw [b.lives w (by rwa [hu]) (by rwa [hu]), hu]
  kinds c hc := (b.kinds c (a.states.not_closing hc)).trans (a.kinds c hc)
  tenants c hc h0 := (b.tenants c (a.states.not_closing hc) h0).trans (a.tenants c hc h0)
  told hc := .trans a.states b.states (a.told hc) (b.told (a.states.not_closing hc))

theorem QuietFrame.trans (a : QuietFrame blank h s u) (b : QuietFrame blank h u v) : QuietFrame blank h s v where
  toPartFrame := a.toPartFrame.trans b.toPartFrame
  kept w hw := by
    have hu := a.kept w hw
    rw [b.kept w (by rwa [hu]), hu]
  list := b.list.trans a.list
  queue := by rw [b.queue, queueLeft_trans a.states b.states a.queue]

/-- Records that agree up to fewer kinds agree up to more. -/
theorem PartFrame.mono {blank' : ClientId → NoticeRecord → NoticeRecord}
    (hb : ∀ c r r', blank c r = blank c r' → blank' c r = blank' c r') (a : PartFrame blank h s u) :
    PartFrame blank' h s u :=
  { a with kinds := fun c hc => hb c _ _ (a.kinds c hc) }

theorem QuietFrame.mono {blank' : ClientId → NoticeRecord → NoticeRecord}
    (hb : ∀ c r r', blank c r = blank c r' → blank' c r = blank' c r') (a : QuietFrame blank h s u) :
    QuietFrame blank' h s u :=
  { a with toPartFrame := a.toPartFrame.mono hb }

/-- The frame of the notices as the statements of Safety.lean put it. -/
theorem PartFrame.noticesKept {f : NoticeRecord → NoticeRecord} (hf : ∀ c r r', blank c r = blank c r' → f r = f r')
    (a : PartFrame blank h s u) : NoticesKept s u f :=
  ⟨fun c hc => hf c _ _ (a.kinds c hc), a.tenants, a.told⟩

/-- A notice record keeps its mask, CLIENT_CLOSED, and all kinds but RETIRED and those that `f` blanks. -/
structure RecordKept (f : NoticeRecord → NoticeRecord) (r r' : NoticeRecord) : Prop where
  mask   : r'.mask = r.mask
  closed : r'.clientClosed = r.clientClosed
  kinds  : f { r' with retired := none, clientClosed := none } = f { r with retired := none, clientClosed := none }

theorem RecordKept.refl (f : NoticeRecord → NoticeRecord) (r : NoticeRecord) : RecordKept f r r := ⟨rfl, rfl, rfl⟩

/-- A part that closes no client and leaves the other head alone. -/
theorem PartFrame.of_states_kept (host : KeepsHost s u)
    (clients : ∀ c, u.client c = { s.client c with held := (u.client c).held })
    (heads : ∀ x, x ≠ h → u.head x = s.head x) (tags : ∀ i, (s.tag i).head ≠ h → u.tag i = s.tag i)
    (lives : ∀ w, (s.window w).life.isRetiring = false → (∀ hd, (s.window w).life.held? = some hd → hd.head ≠ h) →
      (u.window w).life = (s.window w).life)
    (notices : ∀ c, RecordKept (blank c) (s.notice c) (u.notice c)) : PartFrame blank h s u := by
  have hstates : ∀ c, (u.client c).state = (s.client c).state := fun c => by rw [clients c]
  exact
    { side := ⟨host.pending, host.resetHeld, host.readData, host.channels, host.pointer,
        fun c _ => ⟨clients c, (notices c).mask⟩⟩
      served := host.lastServed
      states := .of_same hstates
      others := fun x hx => .of_same hstates (heads x hx)
      tags := tags
      lives := lives
      kinds := fun c _ => (notices c).kinds
      tenants := fun c _ _ => (notices c).closed
      told := fun _ => ⟨none, by rw [keepFirst_none, (notices 0).closed],
        fun _ c hc => hc.1 ((hstates c).symm.trans hc.2), fun c hc => by cases hc⟩ }

/-- Such a part that makes no apply. -/
theorem QuietFrame.of_states_kept (host : KeepsHost s u)
    (clients : ∀ c, u.client c = { s.client c with held := (u.client c).held })
    (heads : ∀ x, x ≠ h → u.head x = s.head x) (list : (u.head h).depthList = (s.head h).depthList)
    (queue : (u.head h).commitQueue = (s.head h).commitQueue) (tags : ∀ i, (s.tag i).head ≠ h → u.tag i = s.tag i)
    (lives : LivesKept s u) (notices : ∀ c, RecordKept (blank c) (s.notice c) (u.notice c)) :
    QuietFrame blank h s u where
  toPartFrame := .of_states_kept host clients heads tags (fun w hw _ => lives w hw) notices
  kept := lives
  list := list
  queue := by rw [queue, queueLeft_of_same fun c => by rw [clients c]]

theorem QuietFrame.refl : QuietFrame blank h s s :=
  .of_states_kept (.refl s) (fun _ => rfl) (fun _ _ => rfl) rfl rfl (fun _ _ => rfl) (fun _ _ => rfl)
    (fun _ => .refl _ _)

theorem QuietFrame.foldl {α : Type} (f : State → α → State) (hf : ∀ s a, QuietFrame blank h s (f s a)) (l : List α)
    (s : State) : QuietFrame blank h s (l.foldl f s) := by
  induction l generalizing s with
  | nil => exact .refl
  | cons a l ih => exact (hf s a).trans (ih (f s a))

theorem PartFrame.foldl {α : Type} (f : State → α → State) (hf : ∀ s a, PartFrame blank h s (f s a)) (l : List α)
    (s : State) : PartFrame blank h s (l.foldl f s) := by
  induction l generalizing s with
  | nil => exact QuietFrame.refl.toPartFrame
  | cons a l ih => exact (hf s a).trans (ih (f s a))
end

/-! ### The frame of each part -/

section
variable (blank : ClientId → NoticeRecord → NoticeRecord) (h : HeadId) (s : State)

theorem setHead_part (v : Head) : PartFrame blank h s (s.setHead h v) :=
  .of_states_kept (setHead_keepsHost s h v) (fun _ => rfl) (fun _ hx => State.head_setHead_of_ne s (Ne.symm hx) v)
    (fun _ _ => rfl) (fun _ _ _ => rfl) (fun _ => .refl _ _)

theorem setHead_quiet {v : Head} (hl : v.depthList = (s.head h).depthList)
    (hq : v.commitQueue = (s.head h).commitQueue) : QuietFrame blank h s (s.setHead h v) where
  toPartFrame := setHead_part blank h s v
  kept _ _ := rfl
  list := by rw [State.head_setHead_self, hl]
  queue := by
    have hsame : queueLeft s (s.setHead h v) h = (s.head h).commitQueue := queueLeft_of_same (fun _ => rfl) h
    rw [State.head_setHead_self, hsame, hq]

theorem setSlot_quiet (k : SlotNo) (v : Slot) (next : Option Pos) : QuietFrame blank h s (setSlot h k v next s) :=
  setHead_quiet blank h s rfl rfl

theorem staleTags_quiet {p : Tag → Bool} (hp : ∀ t, p t = true → t.head = h) :
    QuietFrame blank h s (staleTags p s) :=
  .of_states_kept (staleTags_keepsHost s p) (fun _ => by rw [staleTags_client]) (fun _ _ => staleTags_head s p _)
    (by rw [staleTags_head]) (by rw [staleTags_head])
    (fun i hi => by rw [staleTags_tag, if_neg fun hc => hi (hp _ hc.2)]) (fun _ _ => by rw [staleTags_window])
    (fun _ => by rw [staleTags_notice]; exact .refl _ _)

theorem notify_quiet {c : ClientId} {n : Notice} (hn : RecordKept (blank c) (s.notice c) ((s.notice c).set n)) :
    QuietFrame blank h s (notify c n s) :=
  .of_states_kept (notify_keepsHost s c n) (fun _ => rfl) (fun _ _ => rfl) rfl rfl (fun _ _ => rfl) (fun _ _ => rfl)
    (fun x => by
      rw [notify_notice]
      split
      · next e => exact e ▸ hn
      · exact .refl _ _)

theorem addRefs_quiet (ws : List WindowId) : QuietFrame blank h s (addRefs ws s) :=
  .of_states_kept (addRefs_keepsHost s ws) (fun _ => by rw [addRefs_client]) (fun _ _ => addRefs_head s ws _)
    (by rw [addRefs_head]) (by rw [addRefs_head]) (fun _ _ => addRefs_tag s ws _) (fun _ _ => addRefs_life s ws _)
    (fun _ => by rw [addRefs_notice]; exact .refl _ _)

/-- R144: a CLOSING client becomes CLOSED. -/
theorem enterClosed_quiet {c : ClientId} (v : Client) (hc : (s.client c).state = .closing) :
    QuietFrame blank h s (enterClosed c (s.setClient c v)) := by
  have hfollow := enterClosed_queuesFollow s c v hc
  have hne : ∀ {x}, (s.client x).state ≠ .closing → c ≠ x := fun hx e => hx (e ▸ hc)
  have hnotice : ∀ {x}, c ≠ x → (enterClosed c (s.setClient c v)).notice x =
      { s.notice x with clientClosed := if x = 0 then keepFirst (s.notice 0).clientClosed (some c)
                                        else (s.notice x).clientClosed } := by
    intro x hx
    rw [enterClosed_notice]
    split
    · next e => subst e; rw [if_neg hx, State.notice_setClient, NoticeRecord.set, firstSubject_eq]
    · rw [if_neg (Ne.symm hx)]; rfl
  refine
    { side := ⟨rfl, rfl, rfl, rfl, rfl, fun x hx => ⟨?_, by rw [hnotice (hne hx)]⟩⟩
      served := rfl
      states := hfollow.states
      others := fun x _ => hfollow.heads x
      tags := fun _ _ => rfl
      lives := fun _ _ _ => rfl
      kinds := fun x hx => by rw [hnotice (hne hx)]
      tenants := fun x hx h0 => by rw [hnotice (hne hx), if_neg h0]
      told := fun h0 => ⟨some c, by rw [hnotice (hne h0), if_pos rfl], nofun, fun x e => ?_⟩
      kept := fun _ _ => rfl
      list := (hfollow.heads h).depthList
      queue := (hfollow.heads h).queue }
  · rw [enterClosed_client, if_neg (hne hx), State.client_setClient_of_ne s (hne hx)]
  · cases e
    refine ⟨by rw [hc]; decide, ?_⟩
    rw [enterClosed_client, if_pos rfl]
    rfl

theorem dropHeld_quiet (c : ClientId) : QuietFrame blank h s (dropHeld c s) := by
  rcases dropHeld_cases s c with ⟨hc, -, e⟩ | ⟨-, e⟩ <;> rw [e]
  · exact enterClosed_quiet blank h s _ hc
  · refine .of_states_kept (setClient_keepsHost s _ _) (fun x => ?_) (fun _ _ => rfl) rfl rfl (fun _ _ => rfl)
      (fun _ _ => rfl) (fun _ => .refl _ _)
    rw [State.client_setClient]
    split
    · next e => subst e; rfl
    · rfl

/-- R11: what an entry to FREE does before the fall of the held count. -/
theorem freeWindow_cases (w : WindowId) :
    ((s.window w).life = .free ∧ freeWindow w s = s) ∨
    (∃ hd, (s.window w).life = .reserved hd ∧
      freeWindow w s = dropHeld hd.owner (s.setWindow w { s.window w with life := .free })) ∨
    ∃ hd, (s.window w).life.held? = some hd ∧ (s.window w).life.liveImage?.isSome = true ∧
      freeWindow w s =
        dropHeld hd.owner (notify hd.owner (.retired w) (s.setWindow w { s.window w with life := .free })) := by
  unfold freeWindow
  cases (s.window w).life with
  | free => exact .inl ⟨rfl, rfl⟩
  | reserved hd => exact .inr (.inl ⟨hd, rfl, rfl⟩)
  | live hd img f => exact .inr (.inr ⟨hd, rfl, rfl, rfl⟩)
  | retiring hd img f => exact .inr (.inr ⟨hd, rfl, rfl, rfl⟩)

/-- R11: RETIRED is outside the frame. -/
theorem notify_retired_quiet (c : ClientId) (w : WindowId) : QuietFrame blank h s (notify c (.retired w) s) :=
  notify_quiet blank h s ⟨rfl, rfl, rfl⟩

theorem setWindow_part {w : WindowId} {v : Window}
    (hw : (s.window w).life.isRetiring = true ∨ ∃ hd, (s.window w).life.held? = some hd ∧ hd.head = h) :
    PartFrame blank h s (s.setWindow w v) := by
  refine .of_states_kept (setWindow_keepsHost s w v) (fun _ => rfl) (fun _ _ => rfl) (fun _ _ => rfl)
    (fun x hx hh => ?_) (fun _ => .refl _ _)
  rw [State.window_setWindow]
  split
  · next e =>
    subst e
    rcases hw with hr | ⟨hd, hd1, hd2⟩
    · rw [hr] at hx; cases hx
    · exact absurd hd2 (hh hd hd1)
  · rfl

theorem setWindow_quiet {w : WindowId} {v : Window}
    (hw : (s.window w).life.isRetiring = true ∨ v.life = (s.window w).life) :
    QuietFrame blank h s (s.setWindow w v) := by
  refine .of_states_kept (setWindow_keepsHost s w v) (fun _ => rfl) (fun _ _ => rfl) rfl rfl (fun _ _ => rfl)
    (fun x hx => ?_) (fun _ => .refl _ _)
  rw [State.window_setWindow]
  split
  · next e =>
    subst e
    rcases hw with hr | hv
    · rw [hr] at hx; cases hx
    · exact hv
  · rfl

/-- R11: a window of head `h` enters FREE. -/
theorem freeWindow_part {w : WindowId} {hd : Held} (hh : (s.window w).life.held? = some hd) (hw : hd.head = h) :
    PartFrame blank h s (freeWindow w s) := by
  have hset {v : Window} : PartFrame blank h s (s.setWindow w v) := setWindow_part blank h s (.inr ⟨hd, hh, hw⟩)
  rcases freeWindow_cases s w with ⟨-, e⟩ | ⟨hd', -, e⟩ | ⟨hd', -, -, e⟩ <;> rw [e]
  · exact QuietFrame.refl.toPartFrame
  · exact hset.trans (dropHeld_quiet blank h _ _).toPartFrame
  · exact hset.trans ((notify_retired_quiet blank h _ _ _).trans (dropHeld_quiet blank h _ _)).toPartFrame

/-- R13: a RETIRING window enters FREE. -/
theorem freeWindow_quiet {w : WindowId} (hw : (s.window w).life.isRetiring = true) :
    QuietFrame blank h s (freeWindow w s) := by
  have hset {v : Window} : QuietFrame blank h s (s.setWindow w v) := setWindow_quiet blank h s (.inl hw)
  rcases freeWindow_cases s w with ⟨-, e⟩ | ⟨hd', -, e⟩ | ⟨hd', -, -, e⟩ <;> rw [e]
  · exact .refl
  · exact hset.trans (dropHeld_quiet blank h _ _)
  · exact hset.trans ((notify_retired_quiet blank h _ _ _).trans (dropHeld_quiet blank h _ _))

theorem releaseRef_quiet (w : WindowId) : QuietFrame blank h s (releaseRef w s) := by
  have hset : QuietFrame blank h s (s.setWindow w { s.window w with refs := (s.window w).refs - 1 }) :=
    setWindow_quiet blank h s (.inr rfl)
  rcases releaseRef_cases s w with ⟨hr, -, e⟩ | ⟨-, e⟩ <;> rw [e]
  · exact hset.trans (freeWindow_quiet blank h _ (by rwa [State.window_setWindow_self]))
  · exact hset

theorem releaseRefs_quiet (ws : List WindowId) : QuietFrame blank h s (releaseRefs ws s) :=
  .foldl _ (fun s w => releaseRef_quiet blank h s w) ws s

/-- R84: emptying a slot of the head. -/
theorem emptySlot_quiet (k : SlotNo) : QuietFrame blank h s (emptySlot h k s) :=
  (setSlot_quiet blank h s k .empty none).trans
    ((staleTags_quiet blank h _ fun t ht => by simp_all).trans (releaseRefs_quiet blank h _ _))

theorem emptySlots_quiet : QuietFrame blank h s (emptySlots h s) :=
  .foldl _ (fun s k => emptySlot_quiet blank h s k) allSlots s

theorem staleHead_quiet : QuietFrame blank h s (staleHead h s) :=
  staleTags_quiet blank h s fun _ ht => beq_iff_eq.mp ht
end

end Sys2Proof.Machine
end

section
/-! What the releases of one step free (R13, R11, R18, R144), in the words of Safety.lean. -/

namespace Sys2Proof.Machine

/-! ### What releases do is decided by the windows, the clients and their notices alone -/

/-- Two states with the same windows, clients and notice records. -/
structure SameTables (s s' : State) : Prop where
  windows : s'.windows = s.windows
  clients : s'.clients = s.clients
  notices : s'.notices = s.notices

theorem SameTables.trans {a b c : State} (h : SameTables a b) (g : SameTables b c) : SameTables a c :=
  ⟨g.1.trans h.1, g.2.trans h.2, g.3.trans h.3⟩

section
variable {s s' : State}

theorem SameTables.window (h : SameTables s s') (w : WindowId) : s'.window w = s.window w := by
  rw [State.window, h.windows, State.window]

theorem SameTables.client (h : SameTables s s') (c : ClientId) : s'.client c = s.client c := by
  rw [State.client, h.clients, State.client]

theorem SameTables.notice (h : SameTables s s') (c : ClientId) : s'.notice c = s.notice c := by
  rw [State.notice, h.notices, State.notice]

theorem SameTables.setWindow (h : SameTables s s') (w : WindowId) (v : Window) :
    SameTables (s.setWindow w v) (s'.setWindow w v) :=
  ⟨by simp only [State.setWindow, h.windows], h.clients, h.notices⟩

theorem SameTables.setClient (h : SameTables s s') (c : ClientId) (v : Client) :
    SameTables (s.setClient c v) (s'.setClient c v) :=
  ⟨h.windows, by simp only [State.setClient, h.clients], h.notices⟩

theorem SameTables.setNotice (h : SameTables s s') (c : ClientId) (r : NoticeRecord) :
    SameTables (s.setNotice c r) (s'.setNotice c r) :=
  ⟨h.windows, h.clients, by simp only [State.setNotice, h.notices]⟩

theorem SameTables.notify (h : SameTables s s') (c : ClientId) (n : Notice) :
    SameTables (notify c n s) (notify c n s') := by
  rw [Machine.notify, Machine.notify, h.notice]
  exact h.setNotice c _

/-- The Commit Queues are not among these tables. -/
theorem SameTables.enterClosed (h : SameTables s s') (c : ClientId) :
    SameTables (enterClosed c s) (enterClosed c s') := by
  have hclosed := h.setClient c Client.closedRecord
  have hqueues : SameTables (dequeue c 1 (dequeue c 0 (s.setClient c Client.closedRecord)))
      (dequeue c 1 (dequeue c 0 (s'.setClient c Client.closedRecord))) :=
    ⟨hclosed.windows, hclosed.clients, hclosed.notices⟩
  exact (hqueues.setNotice c NoticeRecord.cleared).notify 0 _

theorem SameTables.dropHeld (h : SameTables s s') (c : ClientId) : SameTables (dropHeld c s) (dropHeld c s') := by
  have hset := h.setClient c { s.client c with held := (s.client c).held - 1 }
  simp only [Machine.dropHeld, h.client]
  split
  · exact hset.enterClosed c
  · exact hset

theorem SameTables.freeWindow (h : SameTables s s') (w : WindowId) : SameTables (freeWindow w s) (freeWindow w s') := by
  have hset := h.setWindow w { s.window w with life := .free }
  simp only [Machine.freeWindow, h.window]
  split
  · exact h
  · exact hset.dropHeld _
  · exact (hset.notify _ _).dropHeld _
  · exact (hset.notify _ _).dropHeld _

theorem SameTables.releaseRef (h : SameTables s s') (w : WindowId) : SameTables (releaseRef w s) (releaseRef w s') := by
  have hset := h.setWindow w { s.window w with refs := (s.window w).refs - 1 }
  simp only [Machine.releaseRef, h.window]
  split
  · exact hset.freeWindow w
  · exact hset

theorem SameTables.releaseRefs (h : SameTables s s') (ws : List WindowId) :
    SameTables (releaseRefs ws s) (releaseRefs ws s') := by
  induction ws generalizing s s' with
  | nil => exact h
  | cons w ws ih => exact ih (h.releaseRef w)
end

theorem releaseRefs_append (ws vs : List WindowId) (s : State) :
    releaseRefs (ws ++ vs) s = releaseRefs vs (releaseRefs ws s) := List.foldl_append

/-- R84: emptying a slot changes these tables as the releases of its segments do. -/
theorem emptySlot_sameTables (h : HeadId) (k : SlotNo) (s : State) :
    SameTables (releaseRefs (s.head h).slots[k].references s) (emptySlot h k s) := by
  have hcleared : SameTables s (staleTags (fun t => t.head == h && t.slot == k) (setSlot h k .empty none s)) :=
    ⟨rfl, rfl, rfl⟩
  exact hcleared.releaseRefs _

/-- R84: emptying a slot leaves the references of the others. -/
theorem emptySlot_references {h : HeadId} {k j : SlotNo} (hne : k ≠ j) (s : State) :
    ((emptySlot h k s).head h).slots[j] = (s.head h).slots[j] := by
  obtain ⟨q, -, e⟩ := emptySlot_head_self s h k
  have hval : k.val ≠ j.val := fun e => hne (Fin.ext e)
  rw [e]
  exact Vector.getElem_set_ne k.isLt j.isLt hval

/-- R84: emptying the slots of a head is the releases of their segments, slot 0 first. -/
theorem emptySlots_sameTables (h : HeadId) (s : State) :
    SameTables (releaseRefs (s.headReferences h) s) (emptySlots h s) := by
  have step : ∀ (ks : List SlotNo) (u : State), ks.Nodup → (∀ k ∈ ks, (u.head h).slots[k] = (s.head h).slots[k]) →
      SameTables (releaseRefs (ks.flatMap fun k => (s.head h).slots[k].references) u)
        (ks.foldl (fun s k => emptySlot h k s) u) := by
    intro ks
    induction ks with
    | nil => exact fun u _ _ => ⟨rfl, rfl, rfl⟩
    | cons k ks ih =>
      intro u hnd hslots
      obtain ⟨hk, hks⟩ := List.nodup_cons.mp hnd
      have hone := emptySlot_sameTables h k u
      rw [hslots k (List.mem_cons_self ..)] at hone
      rw [List.flatMap_cons, releaseRefs_append]
      refine (hone.releaseRefs _).trans (ih (emptySlot h k u) hks fun j hj => ?_)
      rw [emptySlot_references (fun e : k = j => hk (e ▸ hj)), hslots j (List.mem_cons_of_mem k hj)]
  exact step allSlots s (List.nodup_finRange 3) fun _ _ => rfl

/-! ### The windows that releases free, and their owners (R13, R11, R18, R144) -/

/-- R13: a RETIRING window whose last reference is released enters FREE. -/
theorem releaseRefs_life_of_retiring {s : State} {x : WindowId} (hx : (s.window x).life.isRetiring = true)
    (hpos : 0 < (s.window x).refs) (ws : List WindowId) :
    ((releaseRefs ws s).window x).life = if (s.window x).refs ≤ ws.count x then .free else (s.window x).life := by
  induction ws generalizing s with
  | nil => rw [if_neg (by simp; omega)]; rfl
  | cons v vs ih =>
    show ((releaseRefs vs (releaseRef v s)).window x).life = _
    have hrec := releaseRef_window s v x
    by_cases hv : v = x
    · subst hv
      rw [if_pos rfl, hx] at hrec
      rw [List.count_cons_self]
      by_cases h1 : (s.window v).refs = 1
      · rw [if_pos ⟨rfl, by omega⟩] at hrec
        rw [if_pos (by omega), releaseRefs_life _ _ _ (by rw [hrec]; rfl), hrec]
      · rw [if_neg (by omega)] at hrec
        rw [ih (by rw [hrec]; exact hx) (by rw [hrec]; show 0 < (s.window v).refs - 1; omega), hrec]
        simp only [show (s.window v).refs - 1 ≤ vs.count v ↔ (s.window v).refs ≤ vs.count v + 1 by omega]
    · rw [if_neg hv] at hrec
      rw [ih (by rwa [hrec]) (by rwa [hrec]), hrec, List.count_cons_of_ne hv]

/-- R14: a window in RETIRING has references. -/
def RetiringHeld (s : State) : Prop := ∀ w, (s.window w).life.isRetiring = true → 0 < (s.window w).refs

/-- R13, R14: a window that a release leaves in RETIRING keeps references. -/
theorem releaseRef_retiringHeld {s : State} (hs : RetiringHeld s) (v : WindowId) : RetiringHeld (releaseRef v s) := by
  intro w hw
  have hrec := releaseRef_window s v w
  split at hrec
  · next e =>
    subst e
    rw [hrec] at hw ⊢
    by_cases hr : (s.window v).life.isRetiring = true ∧ (s.window v).refs - 1 = 0
    · rw [if_pos hr] at hw; cases hw
    · rw [if_neg hr] at hw
      have hne : (s.window v).refs - 1 ≠ 0 := fun e => hr ⟨hw, e⟩
      show 0 < (s.window v).refs - 1
      omega
  · rw [hrec] at hw ⊢
    exact hs w hw

/-- A window that is RETIRING after a release has the life it had. -/
theorem releaseRef_life_of_retiring {s : State} {v w : WindowId}
    (hw : ((releaseRef v s).window w).life.isRetiring = true) :
    ((releaseRef v s).window w).life = (s.window w).life := by
  have hrec := releaseRef_window s v w
  split at hrec
  · next e =>
    subst e
    rw [hrec] at hw ⊢
    split at hw
    · cases hw
    · next hr => exact if_neg hr
  · rw [hrec]

/-- R13: the entry at which a later window is freed does not move when the first release is made. -/
theorem freedAt_cons_iff {s : State} (hs : RetiringHeld s) {v w : WindowId} {vs : List WindowId} {i : Nat}
    (hi : (w, i) ∈ vs.zipIdx) :
    (s.window w).life.isRetiring = true ∧ ((v :: vs).take (i + 1 + 1)).count w = (s.window w).refs ↔
      ((releaseRef v s).window w).life.isRetiring = true ∧
        (vs.take (i + 1)).count w = ((releaseRef v s).window w).refs := by
  have hmem : w ∈ vs.take (i + 1) :=
    List.mem_iff_getElem?.mpr ⟨i, (List.getElem?_take_of_lt (by omega)).trans (List.mem_zipIdx_iff_getElem?.mp hi)⟩
  have hcount : 0 < (vs.take (i + 1)).count w := List.count_pos_iff.mpr hmem
  have hpos := hs w
  have hrec := releaseRef_window s v w
  rw [List.take_succ_cons]
  by_cases hv : v = w
  · subst hv
    rw [if_pos rfl] at hrec
    rw [hrec, List.count_cons_self]
    by_cases hr : (s.window v).life.isRetiring = true
    · have hrefs := hpos hr
      by_cases h1 : (s.window v).refs = 1
      · rw [if_pos ⟨hr, by omega⟩]
        simp only [Life.isRetiring, Bool.false_eq_true, false_and, iff_false]
        omega
      · rw [if_neg (by omega)]
        simp only [hr, true_and]
        omega
    · rw [if_neg (fun h => hr h.1)]
      simp only [hr, Bool.false_eq_true, false_and]
  · rw [if_neg hv] at hrec
    rw [hrec, List.count_cons_of_ne hv]

/-- R13: the windows freed by releases, from the first release on. -/
theorem freedBy_cons {s : State} (hs : RetiringHeld s) (v : WindowId) (vs : List WindowId) :
    freedBy s (v :: vs) =
      (if (s.window v).life.isRetiring = true ∧ (s.window v).refs = 1 then [v] else []) ++
        freedBy (releaseRef v s) vs := by
  have hrest : vs.zipIdx.filter ((fun e : WindowId × Nat => decide ((s.window e.1).life.isRetiring = true ∧
        ((v :: vs).take (e.2 + 1)).count e.1 = (s.window e.1).refs)) ∘ fun e => (e.1, e.2 + 1)) =
      vs.zipIdx.filter (fun e => ((releaseRef v s).window e.1).life.isRetiring = true ∧
        (vs.take (e.2 + 1)).count e.1 = ((releaseRef v s).window e.1).refs) :=
    List.filter_congr fun e he => decide_eq_decide.mpr (freedAt_cons_iff hs he)
  have hfst : Prod.fst ∘ (fun e : WindowId × Nat => (e.1, e.2 + 1)) = Prod.fst := rfl
  unfold freedBy
  rw [List.zipIdx_cons, List.zipIdx_succ, List.filter_cons, List.filter_map, hrest]
  simp only [Nat.zero_add, List.take_succ_cons, List.take_zero, List.count_singleton_self, decide_eq_true_eq,
    eq_comm (a := 1)]
  split <;> simp [hfst]

/-- R13: only RETIRING windows are freed by releases. -/
theorem isRetiring_of_mem_freedBy {s : State} {ws : List WindowId} {w : WindowId} (h : w ∈ freedBy s ws) :
    (s.window w).life.isRetiring = true := by
  obtain ⟨e, he, rfl⟩ := List.mem_map.mp h
  exact (of_decide_eq_true (List.mem_filter.mp he).2).1

/-- The windows of client `c` among those that releases free, in the order they are freed. -/
def freedOwn (s : State) (c : ClientId) (ws : List WindowId) : List WindowId :=
  (freedBy s ws).filter (fun w => (s.window w).owner? = some c)

/-- The first release frees a window of client `c`. -/
def FreesOwn (s : State) (c : ClientId) (v : WindowId) : Prop :=
  (s.window v).life.isRetiring = true ∧ (s.window v).refs = 1 ∧ (s.window v).owner? = some c

theorem freedOwn_cons {s : State} (hs : RetiringHeld s) (c : ClientId) (v : WindowId) (vs : List WindowId) :
    (FreesOwn s c v ∧ freedOwn s c (v :: vs) = v :: freedOwn (releaseRef v s) c vs) ∨
    (¬ FreesOwn s c v ∧ freedOwn s c (v :: vs) = freedOwn (releaseRef v s) c vs) := by
  have hrest : (freedBy (releaseRef v s) vs).filter (fun w => (s.window w).owner? = some c) =
      freedOwn (releaseRef v s) c vs :=
    List.filter_congr fun w hw => by
      rw [Window.owner?, Window.owner?, releaseRef_life_of_retiring (isRetiring_of_mem_freedBy hw)]
  rw [freedOwn, freedBy_cons hs, List.filter_append, hrest]
  unfold FreesOwn
  by_cases hf : (s.window v).life.isRetiring = true ∧ (s.window v).refs = 1
  · by_cases ho : (s.window v).owner? = some c
    · exact .inl ⟨⟨hf.1, hf.2, ho⟩, by simp [hf, ho]⟩
    · exact .inr ⟨fun h => ho h.2.2, by simp [hf, ho]⟩
  · exact .inr ⟨fun h => hf ⟨h.1, h.2.1⟩, by rw [if_neg hf]; rfl⟩

/-- R13, R11: a release that frees a window of client `c` is a fall of its held count, RETIRED set before. -/
theorem releaseRef_of_freesOwn {s : State} {c : ClientId} {v : WindowId} (h : FreesOwn s c v) :
    ∃ r, releaseRef v s = dropHeld c (notify c (.retired v) (s.setWindow v r)) := by
  obtain ⟨hr, hrefs, ho⟩ := h
  rcases releaseRef_cases s v with ⟨-, -, e⟩ | ⟨hno, -⟩
  · rw [e]
    rw [Window.owner?] at ho
    cases hl : (s.window v).life with
    | retiring hd img f =>
      rw [hl] at ho
      obtain rfl : hd.owner = c := Option.some.inj ho
      refine ⟨{ life := .free, refs := (s.window v).refs - 1 }, ?_⟩
      rw [freeWindow]
      simp only [State.window_setWindow_self, hl, State.setWindow_setWindow]
    | _ => rw [hl] at hr; cases hr
  · exact absurd ⟨hr, by omega⟩ hno

/-- A client's notice record after something that concerns other clients: of client 0's record, CLIENT_CLOSED may have
been set (R144). -/
def NoticeAside (s u : State) (c : ClientId) : Prop :=
  u.notice c = { s.notice c with clientClosed := (u.notice c).clientClosed } ∧
    (c ≠ 0 → (u.notice c).clientClosed = (s.notice c).clientClosed)

theorem dropHeld_aside {s : State} {c d : ClientId} (hne : d ≠ c) :
    (dropHeld d s).client c = s.client c ∧ NoticeAside s (dropHeld d s) c := by
  refine ⟨dropHeld_client_of_ne s d hne, ?_⟩
  rcases dropHeld_cases s d with ⟨-, -, e⟩ | ⟨-, e⟩ <;> rw [e]
  · unfold NoticeAside
    rw [enterClosed_notice]
    by_cases h0 : c = 0
    · subst h0
      rw [if_pos rfl, if_neg hne]
      exact ⟨rfl, fun h => absurd rfl h⟩
    · rw [if_neg h0, if_neg (Ne.symm hne)]
      exact ⟨rfl, fun _ => rfl⟩
  · exact ⟨rfl, fun _ => rfl⟩

/-- R13: a release that frees no window of client `c` leaves its record and its notices. -/
theorem releaseRef_aside {s : State} (hs : RetiringHeld s) {c : ClientId} {v : WindowId} (h : ¬ FreesOwn s c v) :
    (releaseRef v s).client c = s.client c ∧ NoticeAside s (releaseRef v s) c := by
  rcases releaseRef_cases s v with ⟨hr, hrefs, e⟩ | ⟨-, e⟩ <;> rw [e]
  · have h1 : (s.window v).refs = 1 := by have := hs v hr; omega
    cases hl : (s.window v).life with
    | retiring hd img f =>
      have hne : hd.owner ≠ c := fun ho => h ⟨hr, h1, by rw [Window.owner?, hl]; exact congrArg some ho⟩
      rw [freeWindow]
      simp only [State.window_setWindow_self, hl, State.setWindow_setWindow]
      obtain ⟨hclient, hnotice, hclosed⟩ := dropHeld_aside (c := c) (d := hd.owner)
        (s := notify hd.owner (.retired v) (s.setWindow v { life := .free, refs := (s.window v).refs - 1 })) hne
      rw [notify_notice, if_neg hne] at hnotice hclosed
      exact ⟨hclient, hnotice, hclosed⟩
    | _ => rw [hl] at hr; cases hr
  · exact ⟨rfl, rfl, fun _ => rfl⟩

/-- R11, R18, R144: what the release of a window of client `c` does to its record, while it keeps others or is not
CLOSING. -/
theorem releaseRef_own {s : State} {c : ClientId} {v : WindowId} (h : FreesOwn s c v)
    (hc : (s.client c).state = .closing → 1 < (s.client c).held) :
    (releaseRef v s).client c = { s.client c with held := (s.client c).held - 1 } ∧
      (releaseRef v s).notice c = (s.notice c).set (.retired v) := by
  obtain ⟨r, e⟩ := releaseRef_of_freesOwn h
  rw [e]
  rcases dropHeld_cases (notify c (.retired v) (s.setWindow v r)) c with ⟨hclosing, hheld, -⟩ | ⟨-, e⟩
  · have := hc hclosing
    have hone : (s.client c).held - 1 = 0 := hheld
    omega
  · rw [e]
    exact ⟨State.client_setClient_self _ _ _, by rw [State.notice_setClient, notify_notice, if_pos rfl]; rfl⟩

/-- R144: of a CLOSING client that held one window, it makes a CLOSED one. -/
theorem releaseRef_own_last {s : State} {c : ClientId} {v : WindowId} (h : FreesOwn s c v)
    (hc : (s.client c).state = .closing) (h1 : (s.client c).held = 1) (h0 : c ≠ 0) :
    (releaseRef v s).client c = Client.closedRecord ∧ (releaseRef v s).notice c = NoticeRecord.cleared := by
  obtain ⟨r, e⟩ := releaseRef_of_freesOwn h
  rw [e]
  rcases dropHeld_cases (notify c (.retired v) (s.setWindow v r)) c with ⟨-, -, e⟩ | ⟨hno, -⟩
  · rw [e, enterClosed_client, if_pos rfl, enterClosed_notice, if_neg h0, if_pos rfl]
    exact ⟨rfl, rfl⟩
  · have hone : (s.client c).held - 1 = 0 := by omega
    exact absurd ⟨hc, hone⟩ hno

/-- R11, R18: releases that free windows of client `c`, but not all it holds if it is CLOSING. -/
theorem releaseRefs_counted {s : State} (hs : RetiringHeld s) {c : ClientId} {ws : List WindowId}
    (hc : (s.client c).state ≠ .closing ∨ freedOwn s c ws = [] ∨ (freedOwn s c ws).length < (s.client c).held) :
    (releaseRefs ws s).client c = { s.client c with held := (s.client c).held - (freedOwn s c ws).length } ∧
      (releaseRefs ws s).notice c =
        { s.notice c with
          retired := keepFirst (s.notice c).retired (freedOwn s c ws).head?
          clientClosed := ((releaseRefs ws s).notice c).clientClosed } ∧
      (c ≠ 0 → ((releaseRefs ws s).notice c).clientClosed = (s.notice c).clientClosed) := by
  induction ws generalizing s with
  | nil =>
    refine ⟨rfl, ?_, fun _ => rfl⟩
    show s.notice c = { s.notice c with retired := keepFirst (s.notice c).retired none }
    rw [keepFirst_none]
  | cons v vs ih =>
    have hnext := releaseRef_retiringHeld hs v
    show (releaseRefs vs (releaseRef v s)).client c = _ ∧ (releaseRefs vs (releaseRef v s)).notice c = { s.notice c with
        retired := keepFirst (s.notice c).retired (freedOwn s c (v :: vs)).head?
        clientClosed := ((releaseRefs vs (releaseRef v s)).notice c).clientClosed } ∧
      (c ≠ 0 → ((releaseRefs vs (releaseRef v s)).notice c).clientClosed = (s.notice c).clientClosed)
    rcases freedOwn_cons hs c v vs with ⟨hown, hlist⟩ | ⟨hnot, hlist⟩ <;> rw [hlist] at hc ⊢
    · obtain ⟨hclient, hnotice⟩ := releaseRef_own hown fun hclosing => by
        rcases hc with hc | hc | hc
        · exact absurd hclosing hc
        · cases hc
        · rw [List.length_cons] at hc; omega
      obtain ⟨ihclient, ihnotice, ihclosed⟩ := ih hnext (by
        rw [hclient]
        rcases hc with hc | hc | hc
        · exact .inl hc
        · cases hc
        · rw [List.length_cons] at hc; exact .inr (.inr (by show _ < (s.client c).held - 1; omega)))
      rw [hclient] at ihclient
      rw [hnotice] at ihnotice ihclosed
      refine ⟨?_, ?_, ihclosed⟩
      · rw [ihclient, List.length_cons, Nat.sub_sub, Nat.add_comm]
      · rw [ihnotice, NoticeRecord.set, firstSubject_eq, keepFirst_keepFirst]
        rfl
    · obtain ⟨hclient, hnotice, hclosed⟩ := releaseRef_aside hs hnot
      obtain ⟨ihclient, ihnotice, ihclosed⟩ := ih hnext (by rw [hclient]; exact hc)
      rw [hclient] at ihclient
      refine ⟨ihclient, ?_, fun h0 => (ihclosed h0).trans (hclosed h0)⟩
      rw [ihnotice, hnotice]

/-- R144: releases that free all the windows a CLOSING client holds. -/
theorem releaseRefs_close {s : State} (hs : RetiringHeld s) {c : ClientId} {ws : List WindowId} (h0 : c ≠ 0)
    (hc : (s.client c).state = .closing) (hne : freedOwn s c ws ≠ [])
    (hall : (freedOwn s c ws).length = (s.client c).held) :
    (releaseRefs ws s).client c = Client.closedRecord ∧ (releaseRefs ws s).notice c = NoticeRecord.cleared := by
  induction ws generalizing s with
  | nil => exact absurd rfl hne
  | cons v vs ih =>
    have hnext := releaseRef_retiringHeld hs v
    show (releaseRefs vs (releaseRef v s)).client c = _ ∧ (releaseRefs vs (releaseRef v s)).notice c = _
    rcases freedOwn_cons hs c v vs with ⟨hown, hlist⟩ | ⟨hnot, hlist⟩ <;> rw [hlist] at hne hall
    · rw [List.length_cons] at hall
      by_cases hlast : freedOwn (releaseRef v s) c vs = []
      · obtain ⟨hclient, hnotice⟩ := releaseRef_own_last hown hc (by rw [← hall, hlast]; rfl) h0
        obtain ⟨ihclient, ihnotice, ihclosed⟩ := releaseRefs_counted (c := c) (ws := vs) hnext (.inr (.inl hlast))
        rw [hclient, hlast] at ihclient
        rw [hnotice, hlast] at ihnotice
        rw [hnotice] at ihclosed
        refine ⟨ihclient, ?_⟩
        rw [ihnotice, ihclosed h0]
        rfl
      · have hmore : 0 < (freedOwn (releaseRef v s) c vs).length := List.length_pos_iff.mpr hlast
        obtain ⟨hclient, -⟩ := releaseRef_own hown fun _ => by omega
        refine ih hnext (by rw [hclient]; exact hc) hlast ?_
        rw [hclient]
        show _ = (s.client c).held - 1
        omega
    · obtain ⟨hclient, -⟩ := releaseRef_aside hs hnot
      exact ih hnext (by rw [hclient]; exact hc) hne (by rw [hclient]; exact hall)

/-- R13: a window is freed once at most. -/
theorem freedBy_nodup {s : State} (hs : RetiringHeld s) (ws : List WindowId) : (freedBy s ws).Nodup := by
  induction ws generalizing s with
  | nil => exact List.nodup_nil
  | cons v vs ih =>
    have hrest := ih (releaseRef_retiringHeld hs v)
    rw [freedBy_cons hs]
    split
    · next hv =>
      refine List.nodup_cons.mpr ⟨fun hmem => ?_, hrest⟩
      have hr := isRetiring_of_mem_freedBy hmem
      rw [releaseRef_window, if_pos rfl, if_pos ⟨hv.1, by omega⟩] at hr
      cases hr
    · exact hrest

/-- R18: the windows of a client that releases free are windows it owns. -/
theorem length_freedOwn_le {s : State} (hs : RetiringHeld s) (c : ClientId) (ws : List WindowId) :
    (freedOwn s c ws).length ≤ (s.ownedBy c).length := by
  refine (List.subperm_of_subset ((freedBy_nodup hs ws).filter _) fun w hw => ?_).length_le
  exact List.mem_filter.mpr ⟨List.mem_finRange w, (List.mem_filter.mp hw).2⟩

/-- R13, R11: the releases of one step, in the words of Safety.lean. -/
theorem releaseRefs_freesReleased (s : State) (ws : List WindowId) : FreesReleased s (releaseRefs ws s) ws where
  lives w hr hpos := releaseRefs_life_of_retiring hr hpos ws
  reports hs c mine hmine := by
    obtain rfl : mine = freedOwn s c ws := hmine
    intro counted
    have hcounted (h : (s.client c).state ≠ .closing ∨ freedOwn s c ws = [] ∨
        (freedOwn s c ws).length < (s.client c).held) : counted := by
      obtain ⟨hclient, hnotice, -⟩ := releaseRefs_counted hs h
      exact ⟨hclient, by rw [hnotice]⟩
    refine ⟨fun hopen => hcounted (.inl (by rw [hopen]; decide)),
      fun hclosing h0 hheld => ⟨fun hsome => ?_, fun hne hall => ?_⟩⟩
    · have hle := length_freedOwn_le hs c ws
      exact hcounted (.inr (hsome.imp id fun hne => by omega))
    · exact releaseRefs_close hs h0 hclosing hne hall

/-- What releases free is said by the tables that they decide on. -/
theorem FreesReleased.of_sameTables {s u u' : State} {ws : List WindowId} (h : FreesReleased s u ws)
    (hu : SameTables u u') : FreesReleased s u' ws where
  lives w hr hpos := by rw [hu.window]; exact h.lives w hr hpos
  reports hs c mine hmine := by
    have hreport := h.reports hs c mine hmine
    simpa only [hu.client, hu.notice] using hreport

end Sys2Proof.Machine
end

section
/-! STOP_HEAD of a running head (R60, R42). -/

namespace Sys2Proof.Machine

theorem allSlots_eq : allSlots = [0, 1, 2] := by decide

/-- R60: the head once it is STOPPED, its slots yet to be emptied. -/
def Head.halted (hd : Head) : Head :=
  { hd with
    state := .stopped, pixel := 0, line := 0, misses := 0, tally := .zero, bandMark := false
    pendingWrap := false, startPending := false, showing := none }

/-- R60: the part of STOP_HEAD before the apply. -/
def stopAndEmpty (h : HeadId) (s : State) : State :=
  staleHead h (emptySlots h (s.setHead h (s.head h).halted))

theorem stopRunning_eq (h : HeadId) (s : State) : stopRunning h s = applyQueue h (stopAndEmpty h s) := rfl

section
variable (h : HeadId) (s : State)

/-- R35: applying and emptying a queue, the empty one too. -/
theorem applyQueue_eq : applyQueue h s =
    (applyClients h (s.head h).commitQueue s).setHead h
      { (applyClients h (s.head h).commitQueue s).head h with commitQueue := [] } := by
  unfold applyQueue
  split
  · next hq =>
    rw [hq]
    have hnone : applyClients h [] s = s := rfl
    have hsame : ({ s.head h with commitQueue := [] } : Head) = s.head h := by rw [← hq]
    rw [hnone, hsame, State.setHead_head_self]
  · next hq => rw [hq]

theorem staleTags_sameTables (p : Tag → Bool) : SameTables s (staleTags p s) := by
  constructor <;> simp only [staleTags]

theorem stopAndEmpty_sameTables : SameTables (releaseRefs (s.headReferences h) s) (stopAndEmpty h s) := by
  have hhalted : (s.setHead h (s.head h).halted).headReferences h = s.headReferences h := by
    unfold State.headReferences
    rw [State.head_setHead_self]
    rfl
  have hempty := emptySlots_sameTables h (s.setHead h (s.head h).halted)
  rw [hhalted] at hempty
  have hset : SameTables s (s.setHead h (s.head h).halted) := ⟨rfl, rfl, rfl⟩
  unfold stopAndEmpty staleHead
  exact ((hset.releaseRefs _).trans hempty).trans (staleTags_sameTables _ _)

theorem stopAndEmpty_quiet (blank : ClientId → NoticeRecord → NoticeRecord) :
    QuietFrame blank h s (stopAndEmpty h s) := by
  have hset : QuietFrame blank h s (s.setHead h (s.head h).halted) := setHead_quiet blank h s rfl rfl
  unfold stopAndEmpty
  exact hset.trans ((emptySlots_quiet blank h _).trans (staleHead_quiet blank h _))

/-- R84: of its head, emptying the slots changes slots and cursor, and at most the Commit Queue. -/
theorem emptySlots_head_self : ∃ q, (emptySlots h s).head h =
    { s.head h with
      slots := Vector.replicate 3 .empty, cursor := Vector.replicate 3 none, commitQueue := q } := by
  obtain ⟨q0, -, e0⟩ := emptySlot_head_self s h 0
  obtain ⟨q1, -, e1⟩ := emptySlot_head_self (emptySlot h 0 s) h 1
  obtain ⟨q2, -, e2⟩ := emptySlot_head_self (emptySlot h 1 (emptySlot h 0 s)) h 2
  have hthree : emptySlots h s = emptySlot h 2 (emptySlot h 1 (emptySlot h 0 s)) := by
    rw [emptySlots, allSlots_eq]
    simp only [List.foldl_cons, List.foldl_nil]
  have hset {α : Type} (v : Vector α 3) (a : α) : ((v.set 0 a).set 1 a).set 2 a = Vector.replicate 3 a := by
    apply Vector.ext
    intro i hi
    have : i = 0 ∨ i = 1 ∨ i = 2 := by omega
    rcases this with rfl | rfl | rfl <;> simp
  refine ⟨q2, ?_⟩
  rw [hthree, e2, e1, e0, ← hset (s.head h).slots .empty, ← hset (s.head h).cursor none]
  rfl

/-- R60: the head after it. -/
theorem stopAndEmpty_head_self : (stopAndEmpty h s).head h =
    { (s.head h).halted with
      slots := Vector.replicate 3 .empty, cursor := Vector.replicate 3 none
      commitQueue := queueLeft s (stopAndEmpty h s) h } := by
  obtain ⟨q, e⟩ := emptySlots_head_self h (s.setHead h (s.head h).halted)
  have hq := (stopAndEmpty_quiet h s (fun _ r => r)).queue
  have hhead : (stopAndEmpty h s).head h = (emptySlots h (s.setHead h (s.head h).halted)).head h := by
    rw [stopAndEmpty, staleHead, staleTags_head]
  rw [← hq, hhead, e, State.head_setHead_self]

/-- R105: emptying the slots leaves a tag, or makes an ACTIVE one of the head STALE. -/
theorem emptySlots_tag (i : TagNo) : (emptySlots h s).tag i = s.tag i ∨
    ((s.tag i).state = .active ∧ (s.tag i).head = h ∧
      (emptySlots h s).tag i = { s.tag i with state := .stale }) := by
  unfold emptySlots
  generalize allSlots = ks
  induction ks generalizing s with
  | nil => exact .inl rfl
  | cons k ks ih =>
    have hone := emptySlot_tag s h k i
    rw [List.foldl_cons]
    split at hone
    · next hc =>
      refine .inr ⟨hc.1, hc.2.1, ?_⟩
      rcases ih (emptySlot h k s) with e | ⟨hact, -, -⟩
      · rw [e, hone]
      · rw [hone] at hact; cases hact
    · rw [← hone]
      exact ih (emptySlot h k s)

/-- R60, R105: the tags after it. -/
theorem stopAndEmpty_tag (i : TagNo) : (stopAndEmpty h s).tag i =
    if (s.tag i).state = .active ∧ (s.tag i).head = h then { s.tag i with state := .stale } else s.tag i := by
  unfold stopAndEmpty staleHead
  rw [staleTags_tag]
  rcases emptySlots_tag h (s.setHead h (s.head h).halted) i with e | ⟨hact, hhead, e⟩
  · rw [e]; simp only [State.tag_setHead, beq_iff_eq]
  · rw [State.tag_setHead] at hact hhead
    rw [e, State.tag_setHead, if_pos (And.intro hact hhead), if_neg (fun hc => nomatch hc.1)]
end

/-- Settles O21: the state before the apply is `stopAndEmpty`, whose releases are those of all segments of the head. -/
theorem stopHeadEmptiesAndApplies : Obligations.StopHeadEmptiesAndApplies := by
  intro s t h ht hc hn
  have hh := headNamed_eq_some.mpr hn
  rw [exec_stopHead ht, takeMessage_supervisorOnly hc]
  refine ⟨fun hs => ?_, fun hs => ?_⟩
  · rw [takeMessage_of_body (bodyStopHead_stopped (s := consume t s) hh hs)]
  · have hframe := stopAndEmpty_quiet h (consume t s) (fun _ r => r)
    have hrel := stopAndEmpty_sameTables h (consume t s)
    refine ⟨stopAndEmpty h (consume t s), queueLeft (consume t s) (stopAndEmpty h (consume t s)) h, ?_, rfl,
      stopAndEmpty_head_self h (consume t s), stopAndEmpty_tag h (consume t s), fun w => ?_,
      hframe.kept, ?_, ?_, hframe.side, hframe.served, hframe.others⟩
    · rw [takeMessage, bodyStopHead_running (s := consume t s) hh hs, stopRunning_eq, applyQueue_eq, hframe.queue]
    · rw [hrel.window]
      exact releaseRefs_refs _ _ w
    · have hfrees := (releaseRefs_freesReleased (consume t s) ((consume t s).headReferences h)).of_sameTables hrel
      exact ⟨hfrees.lives, hfrees.reports⟩
    · have hkept := hframe.noticesKept (f := id) fun _ _ _ e => e
      exact ⟨hkept.kinds, hkept.tenants, hkept.told⟩

end Sys2Proof.Machine
end

section
/-! The line start (R49, R50, R59). -/

namespace Sys2Proof.Machine

/-! ### The frame of the parts of a line start -/

/-- The notice kinds that a line start without an apply may set: LAYER_DROPPED in any client's record, and in client
0's those of the follow record and of the tags. -/
def lineBlank (c : ClientId) (r : NoticeRecord) : NoticeRecord :=
  { r with
    layerDropped := none
    followLocked := if c = 0 then none else r.followLocked
    followLost := if c = 0 then none else r.followLost
    tagAbandoned := if c = 0 then none else r.tagAbandoned }

/-- With an apply, COMMITTED too. -/
def applyBlank (c : ClientId) (r : NoticeRecord) : NoticeRecord := { lineBlank c r with committed := none }

theorem QuietFrame.applyBlank {h : HeadId} {s u : State} (a : QuietFrame lineBlank h s u) :
    PartFrame applyBlank h s u :=
  a.toPartFrame.mono fun _ _ _ e => by rw [Machine.applyBlank, Machine.applyBlank, e]

section
variable (h : HeadId) (s : State)

theorem notifyOwners_layerDropped_quiet (ws : List WindowId) :
    QuietFrame lineBlank h s (notifyOwners .layerDropped ws s) :=
  .foldl _ (fun s w => by
    unfold notifyOwner
    split
    · exact notify_quiet lineBlank h s ⟨rfl, rfl, rfl⟩
    · exact .refl) ws s

/-- R85: resolving a line into a slot. -/
theorem resolveInto_quiet (k : SlotNo) (n : Nat) : QuietFrame lineBlank h s (resolveInto h k n s) := by
  cases ht : (s.head h).timing with
  | none => unfold resolveInto; rw [ht]; exact .refl
  | some t =>
    rcases resolveInto_cases h k n s ht with ⟨-, e⟩ | ⟨-, r, -, e⟩ <;> rw [e]
    · exact setSlot_quiet lineBlank h s k _ _
    · exact (setSlot_quiet lineBlank h s k _ _).trans
        ((addRefs_quiet lineBlank h _ _).trans (notifyOwners_layerDropped_quiet h _ _))

theorem resolveFirstThree_quiet : QuietFrame lineBlank h s (resolveFirstThree h s) :=
  (resolveInto_quiet h s 0 0).trans ((resolveInto_quiet h _ 1 1).trans (resolveInto_quiet h _ 2 2))

/-- R83: the line that ended leaves its slot to the one two ahead. -/
theorem releaseAndResolve_quiet (t : TimingSet) (ended begun : Nat) :
    QuietFrame lineBlank h s (releaseAndResolve h t ended begun s) := by
  unfold releaseAndResolve
  split
  · exact .refl
  · exact (emptySlot_quiet lineBlank h s _).trans (resolveInto_quiet h _ _ _)

theorem resolverStep_quiet (t : TimingSet) (first : Bool) (ended : Nat) (k : LineKind) (lost : Bool) :
    QuietFrame lineBlank h s (resolverStep h t first ended k lost s) := by
  unfold resolverStep
  split
  · exact resolveFirstThree_quiet h s
  · split
    · exact (emptySlots_quiet lineBlank h s).trans (resolveFirstThree_quiet h _)
    · exact releaseAndResolve_quiet h s _ _ _

/-- R71, R77: the notices of a frame boundary go to client 0. -/
theorem followNotices_quiet (k : LineKind) (lost : Bool) : QuietFrame lineBlank h s (followNotices h k lost s) := by
  have locked : ∀ u, QuietFrame lineBlank h u (if k.locks then notify 0 (.followLocked h) u else u) := fun u => by
    split
    · exact notify_quiet lineBlank h u ⟨rfl, rfl, rfl⟩
    · exact .refl
  have hlost : ∀ u, QuietFrame lineBlank h u (if lost then notify 0 (.followLost h) u else u) := fun u => by
    split
    · exact notify_quiet lineBlank h u ⟨rfl, rfl, rfl⟩
    · exact .refl
  exact (locked s).trans (hlost _)

/-- R120: a tag of another head does not age. -/
theorem Tag.aged_of_ne {t : Tag} {h : HeadId} (ht : t.head ≠ h) : t.aged h = t := by
  simp [Tag.aged, Tag.agesWith, ht]

/-- R120: the ages of the head's tags, and TAG_ABANDONED to client 0. -/
theorem ageTags_quiet : QuietFrame lineBlank h s (ageTags h s) := by
  have htags : QuietFrame lineBlank h s { s with tags := Vector.ofFn fun i => s.tags[i].aged h } := by
    refine .of_states_kept ⟨rfl, rfl, rfl, rfl, rfl, rfl, rfl⟩ (fun _ => by rw [State.client_with_tags])
      (fun _ _ => State.head_with_tags s _ _) (by rw [State.head_with_tags]) (by rw [State.head_with_tags])
      (fun i hi => ?_) (fun _ _ => by rw [State.window_with_tags])
      (fun _ => by rw [State.notice_with_tags]; exact .refl _ _)
    refine Eq.trans ?_ (Tag.aged_of_ne hi)
    simp [State.tag]
  exact htags.trans (.foldl _ (fun u t => notify_quiet lineBlank h u ⟨rfl, rfl, rfl⟩) _ _)

/-- R36, R37: processing a window of the head. -/
theorem processWindow_part (blank : ClientId → NoticeRecord → NoticeRecord) {c : ClientId} {w : WindowId}
    (hw : (s.window w).life.appliedFor c h = true) : PartFrame blank h s (processWindow w s) := by
  obtain ⟨hd, -, hhead, hlife⟩ := Life.appliedFor_iff.mp hw
  have hheld : (s.window w).life.held? = some hd := by
    rcases hlife with e | ⟨img, f, e⟩ <;> rw [e] <;> rfl
  rcases processWindow_cases s w with ⟨_, -, e⟩ | ⟨_, _, _, -, -, e⟩ | ⟨_, _, _, -, -, -, e⟩ | ⟨_, _, _, -, -, -, e⟩ |
    ⟨-, e⟩ <;> rw [e]
  · exact setWindow_part blank h s (.inr ⟨hd, hheld, hhead⟩)
  · exact setWindow_part blank h s (.inr ⟨hd, hheld, hhead⟩)
  · exact setWindow_part blank h s (.inr ⟨hd, hheld, hhead⟩)
  · exact freeWindow_part blank h s hheld hhead
  · exact QuietFrame.refl.toPartFrame

theorem applyClient_part (blank : ClientId → NoticeRecord → NoticeRecord) (c : ClientId) :
    PartFrame blank h s (applyClient h s c) :=
  .foldl _ (fun s w => by
    split
    · next hw => exact processWindow_part h s blank hw
    · exact QuietFrame.refl.toPartFrame) allWindows s

theorem setCommitted_part (c : ClientId) : PartFrame applyBlank h s (setCommitted h s c) := by
  unfold setCommitted
  split
  · exact QuietFrame.refl.toPartFrame
  · exact (notify_quiet applyBlank h s ⟨rfl, rfl, rfl⟩).toPartFrame

/-- R35 to R39: an apply. -/
theorem applyClients_part (cs : List ClientId) : PartFrame applyBlank h s (applyClients h cs s) := by
  have hrebuild : ∀ u, PartFrame applyBlank h u (if cs.any (fun c => s.holdsOn c h) then rebuildDepthList h u else u) :=
    fun u => by
      split
      · exact setHead_part applyBlank h u _
      · exact QuietFrame.refl.toPartFrame
  exact (PartFrame.foldl _ (fun u c => applyClient_part h u applyBlank c) cs s).trans
    ((hrebuild _).trans (.foldl _ (fun u c => setCommitted_part h u c) cs _))

theorem applyQueue_part : PartFrame applyBlank h s (applyQueue h s) := by
  rw [applyQueue_eq]
  exact (applyClients_part h s _).trans (setHead_part applyBlank h _ _)

/-- R52: the apply of a line start. -/
theorem commitStep_part (t : TimingSet) (k : LineKind) : PartFrame applyBlank h s (commitStep h t k s) := by
  unfold commitStep
  split
  · exact applyQueue_part h s
  · exact QuietFrame.refl.toPartFrame

variable {t : TimingSet} {k : LineKind}

theorem commitStep_of_ne (hk : k.line ≠ t.commitLine) : commitStep h t k s = s := by
  rw [commitStep, if_neg hk]

theorem lineWork_part (releaseFirst first : Bool) (ended : Nat) (lost : Bool) :
    PartFrame applyBlank h s (lineWork releaseFirst h t first ended k lost s) := by
  unfold lineWork
  split
  · exact (resolverStep_quiet h s _ _ _ _ _).applyBlank.trans (commitStep_part h _ _ _)
  · exact (commitStep_part h s _ _).trans (resolverStep_quiet h _ _ _ _ _ _).applyBlank

theorem lineWork_quiet (hk : k.line ≠ t.commitLine) (releaseFirst first : Bool) (ended : Nat) (lost : Bool) :
    QuietFrame lineBlank h s (lineWork releaseFirst h t first ended k lost s) := by
  unfold lineWork
  rw [commitStep_of_ne h _ hk, commitStep_of_ne h _ hk]
  split <;> exact resolverStep_quiet h s _ _ _ _ _
end

/-! ### What is left of the head itself -/

/-- The part of a head that is the Raster Timer's and the Line Assembler's. -/
def Head.timer (hd : Head) : Head :=
  { hd with
    slots := Vector.replicate 3 .empty, cursor := Vector.replicate 3 none, commitQueue := [], depthList := [] }

section
variable (h : HeadId) (s : State)

theorem emptySlot_timer (k : SlotNo) : ((emptySlot h k s).head h).timer = (s.head h).timer := by
  obtain ⟨q, -, e⟩ := emptySlot_head_self s h k
  rw [e]
  rfl

theorem emptySlots_timer : ((emptySlots h s).head h).timer = (s.head h).timer := by
  obtain ⟨q, e⟩ := emptySlots_head_self h s
  rw [e]
  rfl

theorem resolveInto_timer (k : SlotNo) (n : Nat) : ((resolveInto h k n s).head h).timer = (s.head h).timer := by
  obtain ⟨v, p, e⟩ := resolveInto_head_self h k n s
  rw [e]
  rfl

theorem resolveFirstThree_timer : ((resolveFirstThree h s).head h).timer = (s.head h).timer := by
  rw [resolveFirstThree, resolveInto_timer, resolveInto_timer, resolveInto_timer]

theorem resolverStep_timer (t : TimingSet) (first : Bool) (ended : Nat) (k : LineKind) (lost : Bool) :
    ((resolverStep h t first ended k lost s).head h).timer = (s.head h).timer := by
  unfold resolverStep releaseAndResolve
  split
  · exact resolveFirstThree_timer h s
  · split
    · rw [resolveFirstThree_timer, emptySlots_timer]
    · split
      · rfl
      · rw [resolveInto_timer, emptySlot_timer]

/-- R45: of a head, applying a client changes at most the Commit Queue. -/
theorem applyClient_head (c : ClientId) (x : HeadId) :
    ∃ q, (applyClient h s c).head x = { s.head x with commitQueue := q } := by
  unfold applyClient
  generalize allWindows = ws
  induction ws generalizing s with
  | nil => exact ⟨_, rfl⟩
  | cons w ws ih =>
    rw [List.foldl_cons]
    split
    · obtain ⟨q, -, e⟩ := processWindow_head s w x
      obtain ⟨r, f⟩ := ih (processWindow w s)
      exact ⟨r, by rw [f, e]⟩
    · exact ih s

/-- R38, R45: of its head, an apply changes the Commit Queue and the Depth List. -/
theorem applyClients_head (cs : List ClientId) :
    ∃ q l, (applyClients h cs s).head h = { s.head h with commitQueue := q, depthList := l } := by
  have happly : ∀ (ds : List ClientId) (u : State), ∃ q, (ds.foldl (applyClient h) u).head h =
      { u.head h with commitQueue := q } := by
    intro ds
    induction ds with
    | nil => exact fun u => ⟨_, rfl⟩
    | cons d ds ih =>
      intro u
      obtain ⟨q, e⟩ := applyClient_head h u d h
      obtain ⟨r, f⟩ := ih (applyClient h u d)
      exact ⟨r, by rw [List.foldl_cons, f, e]⟩
  have hcommitted : ∀ (ds : List ClientId) (u : State), (ds.foldl (setCommitted h) u).head h = u.head h := by
    intro ds
    induction ds with
    | nil => exact fun u => rfl
    | cons d ds ih => exact fun u => (ih _).trans (setCommitted_head u h h d)
  obtain ⟨q, e⟩ := happly cs s
  unfold applyClients
  simp only [hcommitted]
  split
  · exact ⟨q, _, by rw [rebuildDepthList, State.head_setHead_self, e]⟩
  · exact ⟨q, _, e⟩

theorem applyQueue_head : ∃ l, (applyQueue h s).head h = { s.head h with commitQueue := [], depthList := l } := by
  obtain ⟨q, l, e⟩ := applyClients_head h s (s.head h).commitQueue
  exact ⟨l, by rw [applyQueue_eq, State.head_setHead_self, e]⟩

/-- R52: the apply of a line start leaves the slots and the timer. -/
theorem commitStep_head (t : TimingSet) (k : LineKind) :
    ∃ q l, (commitStep h t k s).head h = { s.head h with commitQueue := q, depthList := l } := by
  unfold commitStep
  split
  · obtain ⟨l, e⟩ := applyQueue_head h s
    exact ⟨_, l, e⟩
  · exact ⟨_, _, rfl⟩

theorem commitStep_timer (t : TimingSet) (k : LineKind) :
    ((commitStep h t k s).head h).timer = (s.head h).timer := by
  obtain ⟨q, l, e⟩ := commitStep_head h s t k
  rw [e]
  rfl

theorem lineWork_timer (releaseFirst : Bool) (t : TimingSet) (first : Bool) (ended : Nat) (k : LineKind) (lost : Bool) :
    ((lineWork releaseFirst h t first ended k lost s).head h).timer = (s.head h).timer := by
  unfold lineWork
  split
  · rw [commitStep_timer, resolverStep_timer]
  · rw [resolverStep_timer, commitStep_timer]

@[simp] theorem followNotices_head (k : LineKind) (lost : Bool) (x : HeadId) :
    (followNotices h k lost s).head x = s.head x := by
  unfold followNotices
  split <;> split <;> rfl

@[simp] theorem ageTags_head (x : HeadId) : (ageTags h s).head x = s.head x := by
  have hnotify : ∀ (ts : List TagNo) (u : State),
      (ts.foldl (fun u t => notify 0 (.tagAbandoned (s.tag t).window) u) u).head x = u.head x := by
    intro ts
    induction ts with
    | nil => exact fun u => rfl
    | cons t ts ih => exact fun u => ih _
  exact (hnotify _ _).trans (State.head_with_tags s _ x)
end

/-! ### The line that each slot holds (R82) -/

theorem timing_of_timer {hd hd' : Head} (h : hd'.timer = hd.timer) : hd'.timing = hd.timing :=
  (congrArg Head.timing h : hd'.timer.timing = hd.timer.timing)

section
variable (h : HeadId) (s : State) {t : TimingSet}

theorem resolveInto_line (k j : SlotNo) (n : Nat) (ht : (s.head h).timing = some t) :
    ((resolveInto h k n s).head h).slots[j].line? = if k = j then some n else (s.head h).slots[j].line? := by
  have hset : ∀ v : Slot, v.line? = some n →
      ((s.head h).slots.set k v)[j].line? = if k = j then some n else (s.head h).slots[j].line? := by
    intro v hv
    simp only [Fin.getElem_fin, Vector.getElem_set, Fin.ext_iff]
    split <;> simp [hv]
  rcases resolveInto_cases h k n s ht with ⟨-, e⟩ | ⟨-, r, -, e⟩ <;> rw [e]
  · rw [setSlot_head, if_pos rfl]
    exact hset _ rfl
  · rw [notifyOwners_head, addRefs_head, setSlot_head, if_pos rfl]
    exact hset _ rfl

/-- R82: slot 0 holds line 0, slot 1 line 1, slot 2 line 2. -/
theorem resolveFirstThree_line (ht : (s.head h).timing = some t) (k : SlotNo) :
    ((resolveFirstThree h s).head h).slots[k].line? = some k.val := by
  have ht0 := (timing_of_timer (resolveInto_timer h s 0 0)).trans ht
  have ht1 := (timing_of_timer (resolveInto_timer h (resolveInto h 0 0 s) 1 1)).trans ht0
  rw [resolveFirstThree, resolveInto_line h _ 2 k 2 ht1, resolveInto_line h _ 1 k 1 ht0, resolveInto_line h _ 0 k 0 ht]
  fin_cases k <;> rfl

/-- R59: so it is after the work of the first line start, in either order of R17. -/
theorem lineWork_line (releaseFirst : Bool) (ended : Nat) (k : LineKind) (lost : Bool)
    (ht : (s.head h).timing = some t) (j : SlotNo) :
    ((lineWork releaseFirst h t true ended k lost s).head h).slots[j].line? = some j.val := by
  cases releaseFirst with
  | true =>
    have hslots : ((commitStep h t k (resolveFirstThree h s)).head h).slots =
        ((resolveFirstThree h s).head h).slots := by
      obtain ⟨q, l, e⟩ := commitStep_head h (resolveFirstThree h s) t k
      rw [e]
    show ((commitStep h t k (resolveFirstThree h s)).head h).slots[j].line? = some j.val
    rw [hslots]
    exact resolveFirstThree_line h s ht j
  | false => exact resolveFirstThree_line h _ ((timing_of_timer (commitStep_timer h s t k)).trans ht) j
end

/-! ### The line start, whole -/

/-- A line start up to its work: the counters and the follow record have moved, FOLLOW_LOCKED and FOLLOW_LOST are
set. -/
def lineBegun (h : HeadId) (t : TimingSet) (s : State) : State :=
  followNotices h (lineKind (s.head h) t) (losesLock (s.head h) (lineKind (s.head h) t))
    (s.setHead h ((s.head h).takeLine (lineKind (s.head h) t)))

/-- A line start after its work: the tags go STALE at a loss of lock, and age. -/
def lineFinished (h : HeadId) (lost : Bool) (s : State) : State := ageTags h (if lost then staleHead h s else s)

section
variable (h : HeadId) (s : State) {t : TimingSet}

theorem takeLineStart_eq (ht : (s.head h).timing = some t) :
    takeLineStart h s = lineFinished h (losesLock (s.head h) (lineKind (s.head h) t))
      (if commitRaces h t (s.head h).line (lineKind (s.head h) t) (lineBegun h t s) then
        { lineWork (Config.releaseFirst (lineBegun h t s).raceDraws) h t (s.head h).startPending (s.head h).line
            (lineKind (s.head h) t) (losesLock (s.head h) (lineKind (s.head h) t)) (lineBegun h t s) with
          raceDraws := (lineBegun h t s).raceDraws + 1 }
      else lineWork true h t (s.head h).startPending (s.head h).line (lineKind (s.head h) t)
        (losesLock (s.head h) (lineKind (s.head h) t)) (lineBegun h t s)) := by
  unfold takeLineStart lineFinished lineBegun
  simp only [ht]

theorem State.with_raceDraws_self : { s with raceDraws := s.raceDraws } = s := rfl

/-- 3.2.1: a line start is its beginning, its work in one of the orders of R17, and its end. -/
theorem takeLineStart_stages (ht : (s.head h).timing = some t) : ∃ releaseFirst draws,
    takeLineStart h s = lineFinished h (losesLock (s.head h) (lineKind (s.head h) t))
      { lineWork releaseFirst h t (s.head h).startPending (s.head h).line (lineKind (s.head h) t)
          (losesLock (s.head h) (lineKind (s.head h) t)) (lineBegun h t s) with raceDraws := draws } := by
  rw [takeLineStart_eq h s ht]
  split
  · exact ⟨_, _, rfl⟩
  · exact ⟨true, _, congrArg (lineFinished h _) (State.with_raceDraws_self _).symm⟩

theorem lineBegun_quiet : QuietFrame lineBlank h s (lineBegun h t s) := by
  have hset : QuietFrame lineBlank h s (s.setHead h ((s.head h).takeLine (lineKind (s.head h) t))) :=
    setHead_quiet lineBlank h s rfl rfl
  exact hset.trans (followNotices_quiet h _ _ _)

theorem lineBegun_head : (lineBegun h t s).head h = (s.head h).takeLine (lineKind (s.head h) t) := by
  rw [lineBegun, followNotices_head, State.head_setHead_self]

theorem lineFinished_quiet (lost : Bool) : QuietFrame lineBlank h s (lineFinished h lost s) := by
  unfold lineFinished
  split
  · exact (staleHead_quiet lineBlank h s).trans (ageTags_quiet h _)
  · exact ageTags_quiet h s

theorem lineFinished_head (lost : Bool) (x : HeadId) : (lineFinished h lost s).head x = s.head x := by
  rw [lineFinished, ageTags_head]
  split
  · rw [staleHead, staleTags_head]
  · rfl

/-- Log 22: the counter of races is the model's own. -/
theorem raceDraws_quiet (blank : ClientId → NoticeRecord → NoticeRecord) (draws : Nat) :
    QuietFrame blank h s { s with raceDraws := draws } := by
  have a : QuietFrame blank h s s := .refl
  exact
    { side := ⟨rfl, rfl, rfl, rfl, rfl, a.side.clients⟩, served := rfl, states := a.states, others := a.others
      tags := a.tags, lives := a.lives, kinds := a.kinds, tenants := a.tenants, told := a.told, kept := a.kept
      list := rfl, queue := a.queue }

theorem takeLineStart_part (ht : (s.head h).timing = some t) : PartFrame applyBlank h s (takeLineStart h s) := by
  obtain ⟨releaseFirst, draws, e⟩ := takeLineStart_stages h s ht
  rw [e]
  exact (lineBegun_quiet h s).applyBlank.trans ((lineWork_part h _ _ _ _ _).trans
    ((raceDraws_quiet h _ applyBlank draws).toPartFrame.trans (lineFinished_quiet h _ _).applyBlank))

theorem takeLineStart_quiet (ht : (s.head h).timing = some t) (hk : (lineKind (s.head h) t).line ≠ t.commitLine) :
    QuietFrame lineBlank h s (takeLineStart h s) := by
  obtain ⟨releaseFirst, draws, e⟩ := takeLineStart_stages h s ht
  rw [e]
  exact (lineBegun_quiet h s).trans ((lineWork_quiet h _ hk _ _ _ _).trans
    ((raceDraws_quiet h _ lineBlank draws).trans (lineFinished_quiet h _ _)))

/-- R49, R50: the counters and the follow record are what the Raster Timer makes them. -/
theorem takeLineStart_timer (ht : (s.head h).timing = some t) :
    ((takeLineStart h s).head h).timer = ((s.head h).takeLine (lineKind (s.head h) t)).timer := by
  obtain ⟨releaseFirst, draws, e⟩ := takeLineStart_stages h s ht
  rw [e, lineFinished_head, State.head_with_raceDraws, lineWork_timer, lineBegun_head]

/-- R59, R82. -/
theorem takeLineStart_first_line (ht : (s.head h).timing = some t) (hp : (s.head h).startPending = true)
    (j : SlotNo) : ((takeLineStart h s).head h).slots[j].line? = some j.val := by
  obtain ⟨releaseFirst, draws, e⟩ := takeLineStart_stages h s ht
  have hbegun : ((lineBegun h t s).head h).timing = some t := by rw [lineBegun_head]; exact ht
  have hline := lineWork_line h (lineBegun h t s) releaseFirst (s.head h).line (lineKind (s.head h) t)
    (losesLock (s.head h) (lineKind (s.head h) t)) hbegun j
  rw [← hp] at hline
  rw [e, lineFinished_head]
  exact hline

/-- R126: the pixel period that a line start ends moves the Line Assembler alone. -/
theorem advanceAssembler_eq (hd : Head) : ∃ sh, hd.advanceAssembler = { hd with showing := sh } := by
  unfold Head.advanceAssembler
  split
  · split
    · exact ⟨_, rfl⟩
    · exact ⟨_, rfl⟩
  · exact ⟨_, rfl⟩

/-- The part of a head that is the Raster Timer's. -/
def Head.counters (hd : Head) : Head := { hd.timer with showing := none }

theorem Head.fields_of_counters {hd hd' : Head} (e : hd.counters = hd'.counters) :
    hd.state = hd'.state ∧ hd.timing = hd'.timing ∧ hd.pixel = hd'.pixel ∧ hd.line = hd'.line ∧
      hd.frames = hd'.frames ∧ hd.misses = hd'.misses ∧ hd.tally = hd'.tally ∧ hd.bandMark = hd'.bandMark ∧
      hd.pendingWrap = hd'.pendingWrap ∧ hd.startPending = hd'.startPending := by
  simp only [Head.counters, Head.timer, Head.mk.injEq, and_true] at e
  exact e

/-- A line start, as the step of its head that it is: another place of the Line Assembler does not matter to it. -/
theorem endLine_eq : ∃ sh, endLine h s = takeLineStart h (s.setHead h { s.head h with showing := sh }) := by
  obtain ⟨sh, e⟩ := advanceAssembler_eq (s.head h)
  exact ⟨sh, by rw [endLine, e]⟩

theorem endLine_part (ht : (s.head h).timing = some t) : PartFrame applyBlank h s (endLine h s) := by
  obtain ⟨sh, e⟩ := endLine_eq h s
  rw [e]
  exact (setHead_part applyBlank h s _).trans
    (takeLineStart_part h _ (t := t) (by rw [State.head_setHead_self]; exact ht))

theorem endLine_quiet (ht : (s.head h).timing = some t) (hk : (lineKind (s.head h) t).line ≠ t.commitLine) :
    QuietFrame lineBlank h s (endLine h s) := by
  obtain ⟨sh, e⟩ := endLine_eq h s
  have hset : QuietFrame lineBlank h s (s.setHead h { s.head h with showing := sh }) :=
    setHead_quiet lineBlank h s rfl rfl
  rw [e]
  exact hset.trans (takeLineStart_quiet h _ (t := t) (by rw [State.head_setHead_self]; exact ht)
    (by rw [State.head_setHead_self]; exact hk))

/-- R49, R50: the counters and the follow record after a line start. -/
theorem endLine_counters (ht : (s.head h).timing = some t) :
    ((endLine h s).head h).counters = ((s.head h).takeLine (lineKind (s.head h) t)).counters := by
  obtain ⟨sh, e⟩ := endLine_eq h s
  have htimer := takeLineStart_timer h (s.setHead h { s.head h with showing := sh }) (t := t)
    (by rw [State.head_setHead_self]; exact ht)
  rw [e, Head.counters, htimer, State.head_setHead_self]
  rfl

theorem endLine_first_line (ht : (s.head h).timing = some t) (hp : (s.head h).startPending = true) (j : SlotNo) :
    ((endLine h s).head h).slots[j].line? = some j.val := by
  obtain ⟨sh, e⟩ := endLine_eq h s
  rw [e]
  exact takeLineStart_first_line h _ (t := t) (by rw [State.head_setHead_self]; exact ht)
    (by rw [State.head_setHead_self]; exact hp) j
end

/-! ### The kinds of line start (R50, R59, R71, R75) -/

theorem lineKind_first {hd : Head} {t : TimingSet} (hp : hd.startPending = true) :
    (lineKind hd t).line = 0 ∧ (lineKind hd t).frameEnd = false := by
  simp only [lineKind, hp, if_true, and_self]

theorem lineKind_frameEnd {hd : Head} {t : TimingSet} (hp : hd.startPending = false) (hf : FrameEnds hd t) :
    (lineKind hd t).line = 0 ∧ (lineKind hd t).frameEnd = true := by
  have hend : (hd.pendingWrap || hd.line + 1 == t.frameTotal) = true := by
    rw [Bool.or_eq_true, beq_iff_eq]; exact hf
  simp only [lineKind, hp, Bool.false_eq_true, if_false, hend, if_true, and_self]

/-- R50: a line start within a frame advances the line; it locks nothing and judges nothing. -/
theorem lineKind_within {hd : Head} {t : TimingSet} (hp : hd.startPending = false) (hf : ¬ FrameEnds hd t) :
    lineKind hd t = { line := hd.line + 1, frameEnd := false, corrected := false, locks := false, judged := false
                      good := hd.frameGood } := by
  obtain ⟨hwrap, hline⟩ := not_or.mp hf
  simp only [lineKind, hp, Bool.eq_false_iff.mpr hwrap, beq_eq_false_iff_ne.mpr hline, Bool.false_eq_true, if_false,
    Bool.or_false, Bool.false_and, Bool.and_false]

/-- R49, R59: a line start of a running head that is pending, or at the last pixel of a line. -/
theorem exec_lineStart {s : State} {h : HeadId} {ts : TimingSet} (ht : (s.head h).timing = some ts)
    (hs : (s.head h).state ≠ .stopped) (hdue : (s.head h).startPending = true ∨ LineEnds s h ts) :
    exec (.lineStart h) s = .next (endLine h s) := by
  have hdue' : (s.head h).lineStartDue = true := by
    simp only [Head.lineStartDue, ht, Bool.and_eq_true, HeadState.running_iff, Bool.or_eq_true, beq_iff_eq]
    exact ⟨hs, hdue.imp id fun hend => hend.2.2.2⟩
  show execLineStart h s = _
  rw [execLineStart, if_pos hdue']

/-- The kinds of the follow record and of the tags are client 0's. -/
theorem tenantKinds_of_applyBlank {c : ClientId} (h0 : c ≠ 0) {r r' : NoticeRecord}
    (e : applyBlank c r = applyBlank c r') :
    r.followLocked = r'.followLocked ∧ r.followLost = r'.followLost ∧ r.tagAbandoned = r'.tagAbandoned := by
  simp only [applyBlank, lineBlank, if_neg h0, NoticeRecord.mk.injEq] at e
  exact ⟨by tauto, by tauto, by tauto⟩

theorem committed_of_lineBlank {c : ClientId} {r r' : NoticeRecord} (e : lineBlank c r = lineBlank c r') :
    r.committed = r'.committed := (congrArg NoticeRecord.committed e : (lineBlank c r).committed = _)

/-- Settles O30: the counters are those of `takeLine` for each kind of line start, and every part keeps its frame. -/
theorem lineStartMovesTheCounters : Obligations.LineStartMovesTheCounters := by
  intro s h ts ht hs
  obtain ⟨hstate, htiming, hpixel, hline, hframes, hmisses, htally, hband, hwrap, hstart⟩ :=
    Head.fields_of_counters (endLine_counters h s ht)
  refine ⟨fun hp => ⟨endLine h s, exec_lineStart ht hs (.inl hp), ?_⟩,
    fun hend => ⟨endLine h s, exec_lineStart ht hs (.inr hend), hpixel, htiming.trans ht, hwrap, fun hf => ?_,
      fun hf => ?_⟩,
    fun hdue => ⟨endLine h s, exec_lineStart ht hs hdue, ?_⟩⟩
  · obtain ⟨hzero, hno⟩ := lineKind_first (t := ts) hp
    exact ⟨hline.trans hzero, hpixel, hframes.trans (if_neg (by rw [hno]; decide)), hstart,
      endLine_first_line h s ht hp⟩
  · obtain ⟨-, -, hp, -⟩ := hend
    obtain ⟨hzero, hyes⟩ := lineKind_frameEnd hp hf
    exact ⟨hline.trans hzero, hframes.trans (if_pos hyes)⟩
  · obtain ⟨-, -, hp, -⟩ := hend
    rw [lineKind_within hp hf] at hstate hline hframes hmisses htally hband
    exact ⟨hline, hframes, hstate, hmisses, htally, hband⟩
  · have hpart := endLine_part h s ht
    have hnotices : NoticesKept s (endLine h s) fun r => { r with
        committed := none, layerDropped := none, followLocked := none, followLost := none, tagAbandoned := none } :=
      hpart.noticesKept fun _ _ _ e => congrArg (fun r : NoticeRecord => { r with
        committed := none, layerDropped := none, followLocked := none, followLost := none, tagAbandoned := none }) e
    refine ⟨hpart.side, hpart.served, hpart.others, hnotices, fun c h0 hc => ?_, fun hne => ?_, hpart.tags, hpart.lives⟩
    · have hkinds := tenantKinds_of_applyBlank h0 (hpart.kinds c hc)
      exact hkinds
    · have hquiet := endLine_quiet h s ht fun e => hne (hline.trans e)
      refine ⟨hquiet.kept, hquiet.list, hquiet.queue, fun c hc => ?_⟩
      have hcommitted := committed_of_lineBlank (hquiet.kinds c hc)
      exact hcommitted

end Sys2Proof.Machine
end

section
/-! Following an external frame mark (04): what a mark arrival does, and how the frame that ends is judged. -/

namespace Sys2Proof.Machine

/-! ### Mark arrivals (R69, R70, R72, R73) -/

/-- R72: the band, its last lines counted back from the frame total. -/
theorem TimingSet.inBand_iff {t : TimingSet} (hf : 16 ≤ t.frameTotal) (hb : t.captureBand ≤ 15) {v : Nat} :
    t.inBand v = true ↔
      v = 0 ∨ (1 ≤ v ∧ v ≤ t.captureBand) ∨ (t.frameTotal - t.captureBand ≤ v ∧ v ≤ t.frameTotal - 1) := by
  simp only [TimingSet.inBand, Bool.or_eq_true, Bool.and_eq_true, beq_iff_eq, decide_eq_true_eq]
  omega

theorem HeadState.judged_iff {st : HeadState} : st.judged = true ↔ st = .locked ∨ st = .holdover := by
  cases st <;> simp [HeadState.judged]

section
variable {hd : Head}

/-- R69: marks are ignored in FREE_RUN and STOPPED. -/
theorem Head.takeMark_of_ignored (hs : hd.state = .freeRun ∨ hd.state = .stopped) : hd.takeMark = hd := by
  rcases hs with hs | hs <;> simp only [Head.takeMark, hs]

/-- R70. -/
theorem Head.takeMark_of_seeking (hs : hd.state = .seeking) : hd.takeMark = { hd with pendingWrap := true } := by
  simp only [Head.takeMark, hs]

/-- R72, R73. -/
theorem Head.takeMark_of_judged {ts : TimingSet} (hs : hd.state = .locked ∨ hd.state = .holdover)
    (ht : hd.timing = some ts) : hd.takeMark =
      { hd with
        tally := hd.tally.next
        bandMark := if hd.tally = .zero then ts.inBand hd.line else if hd.tally = .one then false else hd.bandMark
        pendingWrap := hd.pendingWrap || (ts.inBand hd.line && hd.line != 0 && hd.line + 1 != ts.frameTotal) } := by
  rcases hs with hs | hs <;> simp only [Head.takeMark, hs, ht]
end

theorem Tally.next_eq (y : Tally) : y.next = if y = .zero then .one else .many := by
  cases y <;> rfl

/-- R166: a mark counts while RESET_N is high. -/
theorem exec_markArrival {s : State} (hr : s.resetHeld = false) (h : HeadId) :
    exec (.markArrival h) s = .next (s.setHead h (s.head h).takeMark) := by
  show execMarkArrival h s = _
  rw [execMarkArrival, hr]
  rfl

/-- Settles O36, by the head's state. -/
theorem markArrivalUpdatesTheFollowRecord : Obligations.MarkArrivalUpdatesTheFollowRecord := by
  intro s h hr
  rw [exec_markArrival hr]
  refine ⟨fun hs => ?_, fun hs => ?_, fun hs ts v ht hv hf hb hlt => ?_⟩
  · rw [Head.takeMark_of_ignored hs, State.setHead_head_self]
  · rw [Head.takeMark_of_seeking hs]
    rfl
  · intro inBand
    subst hv
    have hband : ts.inBand (s.head h).line = true ↔ inBand := TimingSet.inBand_iff hf hb
    rw [Head.takeMark_of_judged hs ht]
    refine ⟨_, _, _, rfl, Tally.next_eq _, fun hy => ?_, fun hy => ?_, fun hy => ?_, ?_⟩
    · rw [if_pos hy, hband]
    · rw [if_neg (by rw [hy]; decide), if_pos hy]
    · rw [if_neg (by rw [hy]; decide), if_neg (by rw [hy]; decide)]
    · have hlast : (s.head h).line + 1 ≠ ts.frameTotal ↔ (s.head h).line ≠ ts.frameTotal - 1 := by omega
      rw [Bool.or_eq_true, Bool.and_eq_true, Bool.and_eq_true, hband, bne_iff_ne, bne_iff_ne, hlast, and_assoc]

/-! ### The judgement of a frame (R75 to R77) -/

section
variable {hd : Head} {t : TimingSet}

theorem Head.frameGood_iff : hd.frameGood = true ↔ hd.tally = .one ∧ hd.bandMark = true := by
  rw [Head.frameGood, Bool.and_eq_true, beq_iff_eq]

/-- R75: at a frame end in LOCKED or HOLDOVER the frame is judged; no lock is gained there. -/
theorem lineKind_judged (hp : hd.startPending = false) (hf : FrameEnds hd t)
    (hs : hd.state = .locked ∨ hd.state = .holdover) :
    (lineKind hd t).locks = false ∧ (lineKind hd t).judged = true ∧ (lineKind hd t).good = hd.frameGood := by
  have hseek : (hd.state == .seeking) = false := by rcases hs with hs | hs <;> rw [hs] <;> rfl
  have hend : (hd.pendingWrap || hd.line + 1 == t.frameTotal) = true := by
    rw [Bool.or_eq_true, beq_iff_eq]; exact hf
  simp only [lineKind, hp, Bool.false_eq_true, if_false, hseek, hend, HeadState.judged_iff.mpr hs, Bool.false_and,
    Bool.and_self, and_self]

/-- R76: a good frame. -/
theorem judgement_of_good {k : LineKind} (hl : k.locks = false) (hj : k.judged = true) (hg : k.good = true) :
    stateAfter hd k = .locked ∧ missesAfter hd k = 0 := by
  simp [stateAfter, missesAfter, losesLock, hl, hj, hg]

/-- R76, R77: a miss, the third of them or another. -/
theorem judgement_of_miss {k : LineKind} (hl : k.locks = false) (hj : k.judged = true) (hg : k.good = false) :
    stateAfter hd k = (if hd.misses + 1 = 3 then .seeking else .holdover) ∧
      missesAfter hd k = hd.misses + 1 ∧ (losesLock hd k = true ↔ hd.misses + 1 = 3) := by
  simp [stateAfter, missesAfter, losesLock, missLimit, hl, hj, hg]
end

/-- Settles O33: the follow record after the line start is what `takeLine` makes of the judgement. -/
theorem frameEndIsJudged : Obligations.FrameEndIsJudged := by
  intro s h ts hend hf hs good
  have hdue := hend
  obtain ⟨ht, hrun, hp, -⟩ := hend
  obtain ⟨hstate, -, -, -, -, hmisses, htally, hband, -, -⟩ := Head.fields_of_counters (endLine_counters h s ht)
  obtain ⟨hlocks, hjudged, hgood⟩ := lineKind_judged hp hf hs
  obtain ⟨-, hframe⟩ := lineKind_frameEnd hp hf
  have hiff : (s.head h).frameGood = true ↔ good := Head.frameGood_iff
  refine ⟨endLine h s, exec_lineStart ht hrun (.inr hdue), htally.trans (if_pos hframe), hband.trans (if_pos hframe),
    fun hg => ?_, fun hg => ?_⟩
  · obtain ⟨hst, hm⟩ := judgement_of_good (hd := s.head h) hlocks hjudged (hgood.trans (hiff.mpr hg))
    exact ⟨hstate.trans hst, hmisses.trans hm⟩
  · obtain ⟨hst, hm, -⟩ := judgement_of_miss (hd := s.head h) hlocks hjudged
      (hgood.trans (Bool.eq_false_iff.mpr (mt hiff.mp hg)))
    have hafter := hstate.trans hst
    exact ⟨hmisses.trans hm, fun h3 => hafter.trans (if_neg h3), fun h3 => hafter.trans (if_pos h3)⟩

end Sys2Proof.Machine
end

section
/-! The line start that fills all three slots anew (R59, R74, R77): at the first line start, at a corrected wrap and at
the loss of lock. -/

namespace Sys2Proof.Machine

/-! ### States that releases cannot tell apart -/

/-- The windows, the clients, the tenants' notice records and RETIRED of client 0's are the same: all that
FreesReleased speaks of. -/
structure SameForReleases (s s' : State) : Prop where
  windows : s'.windows = s.windows
  clients : s'.clients = s.clients
  retired : ∀ c, (s'.notice c).retired = (s.notice c).retired
  tenants : ∀ c, c ≠ 0 → s'.notice c = s.notice c

theorem SameTables.sameForReleases {s s' : State} (a : SameTables s s') : SameForReleases s s' :=
  ⟨a.windows, a.clients, fun c => by rw [a.notice], fun c _ => a.notice c⟩

section
variable {s s' : State}

theorem SameForReleases.trans {u : State} (a : SameForReleases s s') (b : SameForReleases s' u) :
    SameForReleases s u :=
  ⟨b.windows.trans a.windows, b.clients.trans a.clients, fun c => (b.retired c).trans (a.retired c),
    fun c h0 => (b.tenants c h0).trans (a.tenants c h0)⟩

theorem SameForReleases.window (a : SameForReleases s s') (w : WindowId) : s'.window w = s.window w := by
  rw [State.window, a.windows, State.window]

theorem SameForReleases.client (a : SameForReleases s s') (c : ClientId) : s'.client c = s.client c := by
  rw [State.client, a.clients, State.client]

/-- R151: a supervisor kind is set in client 0's record. -/
theorem notify_sameForReleases {n : Notice} (hn : ((s.notice 0).set n).retired = (s.notice 0).retired) :
    SameForReleases s (notify 0 n s) where
  windows := rfl
  clients := rfl
  retired c := by
    rw [notify_notice]
    split
    · next e => exact e ▸ hn
    · rfl
  tenants c h0 := by rw [notify_notice, if_neg (Ne.symm h0)]

theorem freedBy_congr (a : SameForReleases s s') (ws : List WindowId) : freedBy s' ws = freedBy s ws := by
  simp only [freedBy, a.window]

theorem ownedBy_congr (a : SameForReleases s s') (c : ClientId) : s'.ownedBy c = s.ownedBy c := by
  simp only [State.ownedBy, a.window]

/-- R13, R11: what is freed may be said of either state, before the releases and after them. -/
theorem FreesReleased.congr {u u' : State} {ws : List WindowId} (h : FreesReleased s u ws)
    (a : SameForReleases s s') (b : SameForReleases u u') : FreesReleased s' u' ws where
  lives w hr hpos := by
    rw [a.window] at hr hpos
    rw [a.window, b.window]
    exact h.lives w hr hpos
  reports hs c mine hmine := by
    simp only [a.window] at hs
    have hreport := h.reports hs c mine (by simpa only [freedBy_congr a, a.window] using hmine)
    simp only [a.client, a.retired, ownedBy_congr a, b.client, b.retired]
    refine ⟨hreport.1, fun hc h0 hheld => ?_⟩
    rw [b.tenants c h0]
    exact hreport.2 hc h0 hheld
end

/-- Log 22: the counter of races is none of these tables. -/
theorem raceDraws_sameTables (s : State) (draws : Nat) : SameTables s { s with raceDraws := draws } := ⟨rfl, rfl, rfl⟩

/-! ### The notices of the parts of a line start -/

/-- What each operation of a fold keeps, the fold keeps. -/
theorem foldl_keeps {α β : Type} (f : State → β) {g : State → α → State} (hg : ∀ u a, f (g u a) = f u) (l : List α)
    (s : State) : f (l.foldl g s) = f s := by
  induction l generalizing s with
  | nil => rfl
  | cons a l ih => exact (ih (g s a)).trans (hg s a)

section
variable (h : HeadId) (s : State)

theorem notifyOwners_layerDropped_notice (ws : List WindowId) (c : ClientId) :
    ∃ x, (notifyOwners .layerDropped ws s).notice c = { s.notice c with layerDropped := x } := by
  induction ws generalizing s with
  | nil => exact ⟨_, rfl⟩
  | cons w ws ih =>
    obtain ⟨x, e⟩ := ih (notifyOwner w (.layerDropped w) s)
    have hone : ∃ y, (notifyOwner w (.layerDropped w) s).notice c = { s.notice c with layerDropped := y } := by
      unfold notifyOwner
      split
      · rw [notify_notice]
        split
        · next e => subst e; exact ⟨_, rfl⟩
        · exact ⟨_, rfl⟩
      · exact ⟨_, rfl⟩
    obtain ⟨y, f⟩ := hone
    exact ⟨x, e.trans (by rw [f])⟩

/-- R91, R93, R95: a resolution sets LAYER_DROPPED alone. -/
theorem resolveInto_notice (k : SlotNo) (n : Nat) (c : ClientId) :
    ∃ x, (resolveInto h k n s).notice c = { s.notice c with layerDropped := x } := by
  cases ht : (s.head h).timing with
  | none => exact ⟨_, by unfold resolveInto; rw [ht]⟩
  | some t =>
    rcases resolveInto_cases h k n s ht with ⟨-, e⟩ | ⟨-, r, -, e⟩ <;> rw [e]
    · exact ⟨_, rfl⟩
    · obtain ⟨x, f⟩ := notifyOwners_layerDropped_notice (addRefs (pendingWindows r.spans) (setSlot h k _ _ s)) r.drops c
      exact ⟨x, by rw [f, addRefs_notice]; rfl⟩

/-- The notice kinds that the release, the resolution and the apply of a line start may set: LAYER_DROPPED and
COMMITTED. -/
def workBlank (_ : ClientId) (r : NoticeRecord) : NoticeRecord := { r with layerDropped := none, committed := none }

theorem resolveInto_work (k : SlotNo) (n : Nat) : PartFrame workBlank h s (resolveInto h k n s) :=
  .of_states_kept (resolveInto_keepsHost h k n s) (fun c => by rw [resolveInto_client])
    (fun _ hx => resolveInto_head_of_ne h k n s (Ne.symm hx)) (fun i _ => resolveInto_tag h k n s i)
    (fun w _ _ => resolveInto_life h k n s w) (fun c => by
      obtain ⟨x, e⟩ := resolveInto_notice h s k n c
      rw [e]
      exact ⟨rfl, rfl, rfl⟩)

theorem resolverStep_work (t : TimingSet) (first : Bool) (ended : Nat) (k : LineKind) (lost : Bool) :
    PartFrame workBlank h s (resolverStep h t first ended k lost s) := by
  have hthree : ∀ u, PartFrame workBlank h u (resolveFirstThree h u) := fun u =>
    (resolveInto_work h u 0 0).trans ((resolveInto_work h _ 1 1).trans (resolveInto_work h _ 2 2))
  unfold resolverStep releaseAndResolve
  split
  · exact hthree s
  · split
    · exact (emptySlots_quiet workBlank h s).toPartFrame.trans (hthree _)
    · split
      · exact QuietFrame.refl.toPartFrame
      · exact (emptySlot_quiet workBlank h s _).toPartFrame.trans (resolveInto_work h _ _ _)

theorem commitStep_work (t : TimingSet) (k : LineKind) : PartFrame workBlank h s (commitStep h t k s) := by
  have hcommitted : ∀ u c, PartFrame workBlank h u (setCommitted h u c) := fun u c => by
    unfold setCommitted
    split
    · exact QuietFrame.refl.toPartFrame
    · exact (notify_quiet workBlank h u ⟨rfl, rfl, rfl⟩).toPartFrame
  have hrebuild : ∀ (b : Bool) u, PartFrame workBlank h u (if b then rebuildDepthList h u else u) := fun b u => by
    split
    · exact setHead_part workBlank h u _
    · exact QuietFrame.refl.toPartFrame
  unfold commitStep
  split
  · rw [applyQueue_eq]
    exact (PartFrame.foldl _ (fun u c => applyClient_part h u workBlank c) _ s).trans
      ((hrebuild _ _).trans ((PartFrame.foldl _ hcommitted _ _).trans (setHead_part workBlank h _ _)))
  · exact QuietFrame.refl.toPartFrame

/-- R17: whichever of release and apply comes first. -/
theorem lineWork_work (releaseFirst : Bool) (t : TimingSet) (first : Bool) (ended : Nat) (k : LineKind) (lost : Bool) :
    PartFrame workBlank h s (lineWork releaseFirst h t first ended k lost s) := by
  unfold lineWork
  split
  · exact (resolverStep_work h s _ _ _ _ _).trans (commitStep_work h _ _ _)
  · exact (commitStep_work h s _ _).trans (resolverStep_work h _ _ _ _ _ _)

/-- R120: what TAG_ABANDONED leaves alone is as the tags' new ages leave it. -/
theorem ageTags_keeps {β : Type} (f : State → β) (hf : ∀ u w, f (notify 0 (.tagAbandoned w) u) = f u) :
    f (ageTags h s) = f { s with tags := Vector.ofFn fun i => s.tags[i].aged h } := by
  unfold ageTags
  exact foldl_keeps f (fun u _ => hf u _) _ _

/-- R120: of the notices, the kinds that are not TAG_ABANDONED. -/
theorem ageTags_kind {β : Type} (kind : NoticeRecord → β)
    (hk : ∀ r w, kind (NoticeRecord.set r (.tagAbandoned w)) = kind r) (c : ClientId) :
    kind ((ageTags h s).notice c) = kind (s.notice c) :=
  ageTags_keeps h s (fun u => kind (u.notice c)) fun u w => by
    rw [notify_notice]
    split
    · next e => subst e; exact hk _ w
    · rfl

theorem ageTags_sameForReleases : SameForReleases s (ageTags h s) where
  windows := ageTags_keeps h s State.windows fun _ _ => rfl
  clients := ageTags_keeps h s State.clients fun _ _ => rfl
  retired := ageTags_kind h s NoticeRecord.retired fun _ _ => rfl
  tenants c h0 := ageTags_keeps h s (fun u => u.notice c) fun u w => by rw [notify_notice, if_neg (Ne.symm h0)]

/-- R120. -/
theorem ageTags_tag (i : TagNo) : (ageTags h s).tag i = (s.tag i).aged h := by
  refine (ageTags_keeps h s (fun u => u.tag i) fun _ _ => rfl).trans ?_
  simp [State.tag]

theorem lineFinished_sameForReleases (lost : Bool) : SameForReleases s (lineFinished h lost s) := by
  unfold lineFinished
  split
  · exact (staleTags_sameTables s _).sameForReleases.trans (ageTags_sameForReleases h _)
  · exact ageTags_sameForReleases h s

/-- R71, R77: the notices of the follow record, after the end of a line start. -/
theorem lineFinished_follow (lost : Bool) (c : ClientId) :
    ((lineFinished h lost s).notice c).followLocked = (s.notice c).followLocked ∧
      ((lineFinished h lost s).notice c).followLost = (s.notice c).followLost := by
  have hstale : (if lost then staleHead h s else s).notice c = s.notice c := by split <;> rfl
  rw [lineFinished, ageTags_kind h _ NoticeRecord.followLocked (fun _ _ => rfl),
    ageTags_kind h _ NoticeRecord.followLost (fun _ _ => rfl), hstale]
  exact ⟨rfl, rfl⟩

/-! ### The tags of a line start -/

/-- R105: tag `i` is left, or was an ACTIVE one of the head and is STALE. -/
def KeptOrStale (i : TagNo) (s u : State) : Prop :=
  u.tag i = s.tag i ∨
    ((s.tag i).state = .active ∧ (s.tag i).head = h ∧ u.tag i = { s.tag i with state := .stale })

theorem resolveFirstThree_tag (i : TagNo) : (resolveFirstThree h s).tag i = s.tag i := by
  rw [resolveFirstThree, resolveInto_tag, resolveInto_tag, resolveInto_tag]

theorem resolverStep_tag (t : TimingSet) (first : Bool) (ended : Nat) (k : LineKind) (lost : Bool) (i : TagNo) :
    KeptOrStale h i s (resolverStep h t first ended k lost s) := by
  unfold resolverStep releaseAndResolve KeptOrStale
  split
  · exact .inl (resolveFirstThree_tag h s i)
  · split
    · rw [resolveFirstThree_tag]
      exact emptySlots_tag h s i
    · split
      · exact .inl rfl
      · rw [resolveInto_tag, emptySlot_tag]
        split
        · next hc => exact .inr ⟨hc.1, hc.2.1, rfl⟩
        · exact .inl rfl

/-- R35: what the parts of an apply keep, the commit step of a line start keeps. -/
theorem commitStep_keeps {β : Type} (f : State → β) (hclient : ∀ u c, f (applyClient h u c) = f u)
    (hcommitted : ∀ u c, f (setCommitted h u c) = f u) (hhead : ∀ u v, f (u.setHead h v) = f u) (t : TimingSet)
    (k : LineKind) : f (commitStep h t k s) = f s := by
  unfold commitStep
  split
  · rw [applyQueue_eq, hhead, applyClients, foldl_keeps f hcommitted]
    split
    · exact (hhead _ _).trans (foldl_keeps f hclient _ s)
    · exact foldl_keeps f hclient _ s
  · rfl

/-- R36: an apply leaves the tags. -/
theorem commitStep_tag (t : TimingSet) (k : LineKind) (i : TagNo) : (commitStep h t k s).tag i = s.tag i :=
  commitStep_keeps h s (fun u => u.tag i) (fun u c => applyClient_tag u h c i)
    (fun u c => by unfold setCommitted; split <;> rfl) (fun u v => State.tag_setHead u h v i) t k

theorem lineWork_tag (releaseFirst : Bool) (t : TimingSet) (first : Bool) (ended : Nat) (k : LineKind) (lost : Bool)
    (i : TagNo) : KeptOrStale h i s (lineWork releaseFirst h t first ended k lost s) := by
  unfold lineWork
  split
  · unfold KeptOrStale
    rw [commitStep_tag]
    exact resolverStep_tag h s t first ended k lost i
  · have hstep := resolverStep_tag h (commitStep h t k s) t first ended k lost i
    unfold KeptOrStale at hstep ⊢
    rwa [commitStep_tag] at hstep

/-- R77, R120: at the loss of lock the head's ACTIVE tags become STALE, and age. -/
theorem lineFinished_lost_tag {s u : State} {i : TagNo} (hk : KeptOrStale h i s u) (ha : (s.tag i).state = .active)
    (hh : (s.tag i).head = h) : (lineFinished h true u).tag i =
      { s.tag i with age := (s.tag i).age + 1, state := if (s.tag i).age + 1 = 4 then .abandoned else .stale } := by
  have hstale : (staleHead h u).tag i = { s.tag i with state := .stale } := by
    rw [staleHead, staleTags_tag]
    rcases hk with e | ⟨-, -, e⟩ <;> rw [e]
    · rw [if_pos ⟨ha, beq_iff_eq.mpr hh⟩]
    · rw [if_neg (fun hc => nomatch hc.1)]
  rw [lineFinished, if_pos rfl, ageTags_tag, hstale, Tag.aged, if_pos (by simp [Tag.agesWith, hh])]
  rfl

/-! ### The references a resolution adds -/

/-- R94, R95: the budget walk makes a segment PENDING or ABSENT. -/
theorem chargeStack_status (row x width used : Nat) (cs : List Cover) :
    ∀ l ∈ (chargeStack row x width used cs).1, l.status ≠ .filled := by
  induction cs generalizing used with
  | nil => exact fun l hl => nomatch hl
  | cons c cs ih =>
    intro l hl
    rw [chargeStack] at hl
    split at hl
    all_goals
      rcases List.mem_cons.mp hl with e | hl
      · rw [e]; exact nofun
      · exact ih _ l hl

theorem chargeRuns_status (row used : Nat) (rs : List Run) :
    ∀ l ∈ walkLayers (chargeRuns row used rs).1, l.status ≠ .filled := by
  induction rs generalizing used with
  | nil => exact fun l hl => nomatch hl
  | cons r rs ih =>
    intro l hl
    rw [chargeRuns, walkLayers, List.flatMap_cons, List.mem_append] at hl
    rcases hl with hl | hl
    · exact chargeStack_status _ _ _ _ _ l hl
    · exact ih _ l hl

/-- R14, R15: a line that holds no bytes yet has a reference for each PENDING segment. -/
theorem references_resolveLine (row width : Nat) (covers : List Cover) (phase : Phase) (n budget : Nat) :
    (Slot.active { phase := phase, line := n, spans := (resolveLine row width covers).spans
                   budget := budget }).references = pendingWindows (resolveLine row width covers).spans := by
  refine congrArg (List.map Layer.window) (List.filter_congr fun l hl => ?_)
  have hne := chargeRuns_status _ _ _ l hl
  cases hst : l.status with
  | pending => rfl
  | filled => exact absurd hst hne
  | absent => rfl

/-- R15, R16: a resolution adds the references of the line it writes. -/
theorem resolveInto_refs {t : TimingSet} (ht : (s.head h).timing = some t) (k : SlotNo) (n : Nat) (w : WindowId) :
    ((resolveInto h k n s).window w).refs =
      (s.window w).refs + ((resolveInto h k n s).head h).slots[k].references.count w := by
  have hset : ∀ v : Slot, ((s.head h).slots.set k v)[k] = v := fun v => by
    simp only [Fin.getElem_fin, Vector.getElem_set_self]
  rcases resolveInto_cases h k n s ht with ⟨-, e⟩ | ⟨-, r, hr, e⟩ <;> rw [e]
  · rw [setSlot_head, if_pos rfl, hset]
    rfl
  · rw [notifyOwners_head, addRefs_head, setSlot_head, if_pos rfl, hset, notifyOwners_window, addRefs_refs, hr,
      references_resolveLine]
    rfl

theorem resolveInto_slot_of_ne {k j : SlotNo} (hne : k ≠ j) (n : Nat) :
    ((resolveInto h k n s).head h).slots[j] = (s.head h).slots[j] := by
  obtain ⟨v, p, e⟩ := resolveInto_head_self h k n s
  rw [e]
  exact Vector.getElem_set_ne k.isLt j.isLt fun e => hne (Fin.ext e)

theorem headReferences_eq : s.headReferences h =
    (s.head h).slots[(0 : SlotNo)].references ++
      ((s.head h).slots[(1 : SlotNo)].references ++ (s.head h).slots[(2 : SlotNo)].references) := by
  rw [State.headReferences, allSlots_eq]
  simp only [List.flatMap_cons, List.flatMap_nil, List.append_nil]

/-- R82: three lines resolved into the three slots add the references of all of them. -/
theorem resolveFirstThree_refs {t : TimingSet} (ht : (s.head h).timing = some t) (w : WindowId) :
    ((resolveFirstThree h s).window w).refs =
      (s.window w).refs + ((resolveFirstThree h s).headReferences h).count w := by
  have ht0 := (timing_of_timer (resolveInto_timer h s 0 0)).trans ht
  have ht1 := (timing_of_timer (resolveInto_timer h (resolveInto h 0 0 s) 1 1)).trans ht0
  have hslot0 : ((resolveFirstThree h s).head h).slots[(0 : SlotNo)] =
      ((resolveInto h 0 0 s).head h).slots[(0 : SlotNo)] := by
    rw [resolveFirstThree, resolveInto_slot_of_ne h _ (by decide), resolveInto_slot_of_ne h _ (by decide)]
  have hslot1 : ((resolveFirstThree h s).head h).slots[(1 : SlotNo)] =
      ((resolveInto h 1 1 (resolveInto h 0 0 s)).head h).slots[(1 : SlotNo)] := by
    rw [resolveFirstThree, resolveInto_slot_of_ne h _ (by decide)]
  have hrefs : ((resolveFirstThree h s).window w).refs = _ :=
    resolveInto_refs h (resolveInto h 1 1 (resolveInto h 0 0 s)) ht1 2 2 w
  rw [hrefs, resolveInto_refs h _ ht0, resolveInto_refs h _ ht, ← hslot0, ← hslot1, headReferences_eq,
    List.count_append, List.count_append, Nat.add_assoc, Nat.add_assoc]
  rfl

/-! ### Lines that are BLANK (R96) -/

/-- R96: lines 0, 1 and 2 show no window: the head is SEEKING, or they are not active. -/
def FirstLinesBlank (hd : Head) (t : TimingSet) : Prop := hd.state = .seeking ∨ ∀ n, n ≤ 2 → t.isActive n = false

/-- R47: so they are with a valid timing set. -/
theorem firstLinesBlank_of_valid {t : TimingSet} (hv : t.valid = true) (hd : Head) : FirstLinesBlank hd t := by
  refine .inr fun n hn => ?_
  simp only [TimingSet.valid, Bool.and_eq_true, decide_eq_true_eq] at hv
  rw [Bool.eq_false_iff, ne_eq, TimingSet.isActive_iff]
  omega

/-- R47: and line 0 is no commit line. -/
theorem commitLine_ne_zero_of_valid {t : TimingSet} (hv : t.valid = true) : 0 ≠ t.commitLine := by
  intro e
  simp [TimingSet.valid, TimingSet.isQuiet, ← e] at hv

theorem resolveInto_of_blank {t : TimingSet} (ht : (s.head h).timing = some t) {k : SlotNo} {n : Nat} (hn : n ≤ 2)
    (hb : FirstLinesBlank (s.head h) t) : resolveInto h k n s = setSlot h k (.blank n) none s := by
  rcases resolveInto_cases h k n s ht with ⟨-, e⟩ | ⟨hc, -⟩
  · exact e
  · exact absurd (hb.imp id fun hall => hall n hn) hc

/-- The three slots hold lines 0, 1 and 2 BLANK, and the cursor is clear. -/
def AllBlank (hd : Head) : Prop := ∀ k : SlotNo, hd.slots[k] = .blank k.val ∧ hd.cursor[k] = none

/-- R82, R96: then nothing but slots and cursor changes. -/
theorem resolveFirstThree_of_blank {t : TimingSet} (ht : (s.head h).timing = some t)
    (hb : FirstLinesBlank (s.head h) t) :
    AllBlank ((resolveFirstThree h s).head h) ∧ SameTables s (resolveFirstThree h s) := by
  have hone : ∀ (u : State) (k : SlotNo) (n : Nat), n ≤ 2 → (u.head h).timer = (s.head h).timer →
      resolveInto h k n u = setSlot h k (.blank n) none u := fun u k n hn e =>
    resolveInto_of_blank h u ((timing_of_timer e).trans ht) hn (hb.imp (fun hs => by
      have hstate : (u.head h).state = (s.head h).state := (congrArg Head.state e : (u.head h).timer.state = _)
      rw [hstate, hs]) id)
  have hset : ∀ (u : State) (k : SlotNo) (n : Nat), ((setSlot h k (.blank n) none u).head h).timer = (u.head h).timer :=
    fun u k n => by rw [setSlot_head, if_pos rfl]; rfl
  have hthree : resolveFirstThree h s =
      setSlot h 2 (.blank 2) none (setSlot h 1 (.blank 1) none (setSlot h 0 (.blank 0) none s)) := by
    rw [resolveFirstThree, hone s 0 0 (by decide) rfl, hone _ 1 1 (by decide) (hset ..),
      hone _ 2 2 (by decide) ((hset ..).trans (hset ..))]
  rw [hthree]
  refine ⟨fun k => ?_, rfl, rfl, rfl⟩
  simp only [setSlot_head, if_true]
  fin_cases k <;> simp

theorem headReferences_of_allBlank {s : State} {h : HeadId} (hb : AllBlank (s.head h)) : s.headReferences h = [] := by
  have hslot : ∀ k : SlotNo, (s.head h).slots[k].references = [] := fun k => by rw [(hb k).1]; rfl
  rw [headReferences_eq, hslot 0, hslot 1, hslot 2]
  rfl

/-! ### The slots filled anew -/

/-- R59, R74, R77: the slots before they are filled anew; none is released at the first line start. -/
def slotsCleared (first : Bool) (h : HeadId) (s : State) : State := if first then s else emptySlots h s

/-- The references released for it. -/
def clearedReferences (first : Bool) (h : HeadId) (s : State) : List WindowId :=
  if first then [] else s.headReferences h

theorem resolverStep_anew {t : TimingSet} {first : Bool} {ended : Nat} {k : LineKind} {lost : Bool}
    (ha : first = true ∨ k.corrected = true ∨ lost = true) :
    resolverStep h t first ended k lost s = resolveFirstThree h (slotsCleared first h s) := by
  cases first with
  | true => rfl
  | false =>
    have hor : (k.corrected || lost) = true := by
      rw [Bool.or_eq_true]
      exact ha.resolve_left nofun
    rw [resolverStep, if_neg nofun, if_pos hor]
    rfl

theorem slotsCleared_refs (first : Bool) (w : WindowId) : ((slotsCleared first h s).window w).refs =
    (s.window w).refs - (clearedReferences first h s).count w := by
  cases first with
  | true => rfl
  | false =>
    show ((emptySlots h s).window w).refs = _
    rw [(emptySlots_sameTables h s).window]
    exact releaseRefs_refs _ _ w

theorem slotsCleared_timer (first : Bool) : ((slotsCleared first h s).head h).timer = (s.head h).timer := by
  cases first with
  | true => rfl
  | false => exact emptySlots_timer h s

/-- R36: an apply leaves the references. -/
theorem commitStep_refs (t : TimingSet) (k : LineKind) (w : WindowId) :
    ((commitStep h t k s).window w).refs = (s.window w).refs :=
  commitStep_keeps h s (fun u => (u.window w).refs) (fun u c => applyClient_refs u h c w)
    (fun u c => by rw [setCommitted_window]) (fun _ _ => rfl) t k

/-- `u` has slots, cursor and references of `v` once lines 0, 1 and 2 are resolved there. -/
structure FilledFrom (h : HeadId) (v u : State) : Prop where
  slots  : (u.head h).slots = ((resolveFirstThree h v).head h).slots
  cursor : (u.head h).cursor = ((resolveFirstThree h v).head h).cursor
  refs   : ∀ w, (u.window w).refs = ((resolveFirstThree h v).window w).refs

/-- What the work of a line start that fills the slots anew fills them from, in either order of R17: the state with
the old contents released. -/
theorem lineWork_anew (releaseFirst : Bool) {t : TimingSet} {first : Bool} (ended : Nat) {k : LineKind} {lost : Bool}
    (ha : first = true ∨ k.corrected = true ∨ lost = true) :
    ∃ v, FilledFrom h v (lineWork releaseFirst h t first ended k lost s) ∧ (v.head h).timer = (s.head h).timer ∧
      ∀ w, (v.window w).refs = (s.window w).refs - (clearedReferences first h s).count w := by
  unfold lineWork
  split
  · rw [resolverStep_anew h s ha]
    obtain ⟨q, l, e⟩ := commitStep_head h (resolveFirstThree h (slotsCleared first h s)) t k
    exact ⟨_, ⟨by rw [e], by rw [e], commitStep_refs h _ t k⟩, slotsCleared_timer h s first, slotsCleared_refs h s first⟩
  · rw [resolverStep_anew h _ ha]
    obtain ⟨q, l, e⟩ := commitStep_head h s t k
    have hreleased : clearedReferences first h (commitStep h t k s) = clearedReferences first h s := by
      rw [clearedReferences, clearedReferences, State.headReferences, State.headReferences, e]
    refine ⟨_, ⟨rfl, rfl, fun _ => rfl⟩, (slotsCleared_timer h _ first).trans (commitStep_timer h s t k), fun w => ?_⟩
    rw [slotsCleared_refs, hreleased, commitStep_refs]

section
variable {h s} {v u : State} (a : FilledFrom h v u)
include a

theorem FilledFrom.headReferences : u.headReferences h = (resolveFirstThree h v).headReferences h := by
  rw [State.headReferences, State.headReferences, a.slots]

theorem FilledFrom.refs_eq {t : TimingSet} (ht : (v.head h).timing = some t) (w : WindowId) :
    (u.window w).refs = (v.window w).refs + (u.headReferences h).count w := by
  rw [a.refs, a.headReferences]
  exact resolveFirstThree_refs h v ht w

theorem FilledFrom.line {t : TimingSet} (ht : (v.head h).timing = some t) (k : SlotNo) :
    (u.head h).slots[k].line? = some k.val := by
  rw [a.slots]
  exact resolveFirstThree_line h v ht k

theorem FilledFrom.allBlank {t : TimingSet} (ht : (v.head h).timing = some t) (hb : FirstLinesBlank (v.head h) t) :
    AllBlank (u.head h) := by
  intro k
  rw [a.slots, a.cursor]
  exact (resolveFirstThree_of_blank h v ht hb).1 k
end

/-! ### Such a line start, whole -/

/-- A line start of a head up to its work: `b` is `s` with counters and follow record moved, and FOLLOW_LOCKED and
FOLLOW_LOST set. -/
structure BeginsLine (h : HeadId) (t : TimingSet) (s b : State) : Prop where
  same   : SameForReleases s b
  tags   : ∀ i, b.tag i = s.tag i
  slots  : (b.head h).slots = (s.head h).slots
  timing : (b.head h).timing = (s.head h).timing
  state  : (b.head h).state = stateAfter (s.head h) (lineKind (s.head h) t)
  locked : (lineKind (s.head h) t).locks = true →
    (b.notice 0).followLocked = keepFirst (s.notice 0).followLocked (some h)
  lost   : losesLock (s.head h) (lineKind (s.head h) t) = true →
    (b.notice 0).followLost = keepFirst (s.notice 0).followLost (some h)

theorem followNotices_sameForReleases (k : LineKind) (lost : Bool) :
    SameForReleases s (followNotices h k lost s) := by
  have hset : ∀ (b : Bool) (n : Notice) (u : State), ((u.notice 0).set n).retired = (u.notice 0).retired →
      SameForReleases u (if b then notify 0 n u else u) := fun b n u hn => by
    split
    · exact notify_sameForReleases hn
    · exact ⟨rfl, rfl, fun _ => rfl, fun _ _ => rfl⟩
  exact (hset k.locks (.followLocked h) s rfl).trans (hset lost (.followLost h) _ rfl)

/-- R71, R77: FOLLOW_LOCKED and FOLLOW_LOST in client 0's record. -/
theorem followNotices_notice (k : LineKind) (lost : Bool) : (followNotices h k lost s).notice 0 =
    { s.notice 0 with
      followLocked := if k.locks then keepFirst (s.notice 0).followLocked (some h) else (s.notice 0).followLocked
      followLost := if lost then keepFirst (s.notice 0).followLost (some h) else (s.notice 0).followLost } := by
  unfold followNotices
  split <;> split <;> simp only [notify_notice, if_true, NoticeRecord.set, firstSubject_eq]

theorem followNotices_tag (k : LineKind) (lost : Bool) (i : TagNo) :
    (followNotices h k lost s).tag i = s.tag i := by
  unfold followNotices
  split <;> split <;> rfl

variable {t : TimingSet}

theorem lineBegun_begins (sh : Option Showing) :
    BeginsLine h t s (lineBegun h t (s.setHead h { s.head h with showing := sh })) := by
  have hhead : (s.setHead h { s.head h with showing := sh }).head h = { s.head h with showing := sh } :=
    State.head_setHead_self ..
  have hkind : lineKind { s.head h with showing := sh } t = lineKind (s.head h) t := rfl
  have hlost : ∀ k, losesLock { s.head h with showing := sh } k = losesLock (s.head h) k := fun _ => rfl
  have hset : ∀ v, SameForReleases s (s.setHead h v) := fun v => ⟨rfl, rfl, fun _ => rfl, fun _ _ => rfl⟩
  rw [lineBegun, hhead, State.setHead_setHead, hkind, hlost]
  exact
    { same := (hset _).trans (followNotices_sameForReleases h _ _ _)
      tags := fun i => followNotices_tag h _ _ _ i
      slots := by rw [followNotices_head, State.head_setHead_self]; rfl
      timing := by rw [followNotices_head, State.head_setHead_self]; rfl
      state := by rw [followNotices_head, State.head_setHead_self]; rfl
      locked := fun hk => by rw [followNotices_notice, hk]; rfl
      lost := fun hk => by rw [followNotices_notice, hk]; rfl }

/-- 3.2.1: a line start is its beginning, its work in one of the orders of R17, and its end. -/
theorem endLine_stages (ht : (s.head h).timing = some t) : ∃ b releaseFirst draws, BeginsLine h t s b ∧
    endLine h s = lineFinished h (losesLock (s.head h) (lineKind (s.head h) t))
      { lineWork releaseFirst h t (s.head h).startPending (s.head h).line (lineKind (s.head h) t)
          (losesLock (s.head h) (lineKind (s.head h) t)) b with raceDraws := draws } := by
  obtain ⟨sh, e⟩ := endLine_eq h s
  have hhead : (s.setHead h { s.head h with showing := sh }).head h = { s.head h with showing := sh } :=
    State.head_setHead_self ..
  obtain ⟨releaseFirst, draws, f⟩ := takeLineStart_stages h (s.setHead h { s.head h with showing := sh }) (t := t)
    (by rw [hhead]; exact ht)
  refine ⟨_, releaseFirst, draws, lineBegun_begins h s sh, ?_⟩
  rw [e, f, hhead]
  rfl

/-- R71, R77: FOLLOW_LOCKED and FOLLOW_LOST after a line start; client 0 is OPEN (R137). -/
theorem endLine_follow (hsup : SupervisorLaw s) (ht : (s.head h).timing = some t) :
    ((lineKind (s.head h) t).locks = true →
      ((endLine h s).notice 0).followLocked = keepFirst (s.notice 0).followLocked (some h)) ∧
    (losesLock (s.head h) (lineKind (s.head h) t) = true →
      ((endLine h s).notice 0).followLost = keepFirst (s.notice 0).followLost (some h)) := by
  obtain ⟨b, releaseFirst, draws, hb, e⟩ := endLine_stages h s ht
  have hopen : (b.client 0).state ≠ .closing := by
    rw [hb.same.client, hsup]
    exact nofun
  have hwork := (lineWork_work h b releaseFirst t (s.head h).startPending (s.head h).line (lineKind (s.head h) t)
    (losesLock (s.head h) (lineKind (s.head h) t))).kinds 0 hopen
  have hworkLocked := congrArg NoticeRecord.followLocked hwork
  have hworkLost := congrArg NoticeRecord.followLost hwork
  rw [e, (lineFinished_follow h _ _ 0).1, (lineFinished_follow h _ _ 0).2]
  exact ⟨fun hk => Eq.trans hworkLocked (hb.locked hk), fun hk => Eq.trans hworkLost (hb.lost hk)⟩

/-- R59, R74, R77: the line start of the head fills the three slots anew. -/
def FillsAnew (hd : Head) (t : TimingSet) : Prop :=
  hd.startPending = true ∨ (lineKind hd t).corrected = true ∨ losesLock hd (lineKind hd t) = true

theorem endLine_anew (ht : (s.head h).timing = some t) (ha : FillsAnew (s.head h) t) :
    ∃ v, FilledFrom h v (endLine h s) ∧ (v.head h).timing = some t ∧
      (v.head h).state = stateAfter (s.head h) (lineKind (s.head h) t) ∧
      ∀ w, (v.window w).refs = (s.window w).refs - (clearedReferences (s.head h).startPending h s).count w := by
  obtain ⟨b, releaseFirst, draws, hb, e⟩ := endLine_stages h s ht
  obtain ⟨v, hv, htimer, hrefs⟩ := lineWork_anew h b releaseFirst (t := t) (s.head h).line ha
  have hreleased : clearedReferences (s.head h).startPending h b = clearedReferences (s.head h).startPending h s := by
    rw [clearedReferences, clearedReferences, State.headReferences, State.headReferences, hb.slots]
  have hstate : (v.head h).state = (b.head h).state := (congrArg Head.state htimer : (v.head h).timer.state = _)
  refine ⟨v, ⟨?_, ?_, fun w => ?_⟩, ((timing_of_timer htimer).trans hb.timing).trans ht, hstate.trans hb.state, fun w => ?_⟩
  · rw [e, lineFinished_head]; exact hv.slots
  · rw [e, lineFinished_head]; exact hv.cursor
  · rw [e, (lineFinished_sameForReleases h _ _).window]; exact hv.refs w
  · rw [hrefs, hreleased, hb.same.window]

theorem endLine_anew_line (ht : (s.head h).timing = some t) (ha : FillsAnew (s.head h) t) (k : SlotNo) :
    ((endLine h s).head h).slots[k].line? = some k.val := by
  obtain ⟨v, hv, hvt, -, -⟩ := endLine_anew h s ht ha
  exact hv.line hvt k

/-- R15, R16: the references of the old contents are released, those of the new ones added. -/
theorem endLine_anew_refs (ht : (s.head h).timing = some t) (ha : FillsAnew (s.head h) t) (w : WindowId) :
    ((endLine h s).window w).refs = (s.window w).refs - (clearedReferences (s.head h).startPending h s).count w +
      ((endLine h s).headReferences h).count w := by
  obtain ⟨v, hv, hvt, -, hrefs⟩ := endLine_anew h s ht ha
  rw [hv.refs_eq hvt, hrefs]

/-- R96. -/
theorem endLine_anew_allBlank (ht : (s.head h).timing = some t) (ha : FillsAnew (s.head h) t)
    (hb : stateAfter (s.head h) (lineKind (s.head h) t) = .seeking ∨ t.valid = true) :
    AllBlank ((endLine h s).head h) := by
  obtain ⟨v, hv, hvt, hstate, -⟩ := endLine_anew h s ht ha
  exact hv.allBlank hvt (hb.elim (fun hseek => .inl (hstate.trans hseek)) fun hvalid =>
    firstLinesBlank_of_valid hvalid _)

/-- R13, R11: with a valid timing set, what the releases of a corrected wrap or of the loss of lock free. -/
theorem endLine_anew_frees (ht : (s.head h).timing = some t) (ha : FillsAnew (s.head h) t)
    (hp : (s.head h).startPending = false) (hline : (lineKind (s.head h) t).line = 0) (hv : t.valid = true) :
    LivesKept s (endLine h s) ∧ FreesReleased s (endLine h s) (s.headReferences h) := by
  have hne : (lineKind (s.head h) t).line ≠ t.commitLine := by
    rw [hline]
    exact commitLine_ne_zero_of_valid hv
  refine ⟨(endLine_quiet h s ht hne).kept, ?_⟩
  obtain ⟨b, releaseFirst, draws, hb, e⟩ := endLine_stages h s ht
  have hwork : lineWork releaseFirst h t (s.head h).startPending (s.head h).line (lineKind (s.head h) t)
      (losesLock (s.head h) (lineKind (s.head h) t)) b = resolveFirstThree h (emptySlots h b) := by
    rw [lineWork, commitStep_of_ne h _ hne, commitStep_of_ne h _ hne, ite_self, resolverStep_anew h b ha,
      slotsCleared, hp, if_neg nofun]
  have htiming : ((emptySlots h b).head h).timing = some t :=
    ((timing_of_timer (emptySlots_timer h b)).trans hb.timing).trans ht
  have hrefs : b.headReferences h = s.headReferences h := by
    rw [State.headReferences, State.headReferences, hb.slots]
  obtain ⟨-, hblank⟩ := resolveFirstThree_of_blank h (emptySlots h b) htiming (firstLinesBlank_of_valid hv _)
  have hend : SameForReleases (releaseRefs (s.headReferences h) b) (endLine h s) := by
    rw [e, hwork, ← hrefs]
    exact (((emptySlots_sameTables h b).trans hblank).trans (raceDraws_sameTables _ draws)).sameForReleases.trans
      (lineFinished_sameForReleases h _ _)
  have hback : SameForReleases b s :=
    ⟨hb.same.windows.symm, hb.same.clients.symm, fun c => (hb.same.retired c).symm,
      fun c h0 => (hb.same.tenants c h0).symm⟩
  exact (releaseRefs_freesReleased b (s.headReferences h)).congr hback hend

/-- R77, R120: the head's ACTIVE tags at the loss of lock. -/
theorem endLine_lost_tag (ht : (s.head h).timing = some t)
    (hl : losesLock (s.head h) (lineKind (s.head h) t) = true) {i : TagNo} (ha : (s.tag i).state = .active)
    (hh : (s.tag i).head = h) : (endLine h s).tag i =
      { s.tag i with age := (s.tag i).age + 1, state := if (s.tag i).age + 1 = 4 then .abandoned else .stale } := by
  obtain ⟨b, releaseFirst, draws, hb, e⟩ := endLine_stages h s ht
  have hwork := lineWork_tag h b releaseFirst t (s.head h).startPending (s.head h).line (lineKind (s.head h) t)
    (losesLock (s.head h) (lineKind (s.head h) t)) i
  rw [KeptOrStale, hb.tags] at hwork
  rw [e, hl]
  rw [hl] at hwork
  exact lineFinished_lost_tag h hwork ha hh
end

end Sys2Proof.Machine
end

section
/-! The line start after a mark made a wrap pending (R71, R73, R74), and the loss of lock (R77). -/

namespace Sys2Proof.Machine

section
variable {hd : Head} {t : TimingSet}

/-- R71: of a SEEKING head a pending wrap is the locking wrap, which judges nothing. -/
theorem lineKind_locking (hs : hd.state = .seeking) (hw : hd.pendingWrap = true) :
    (lineKind hd t).line = 0 ∧ (lineKind hd t).locks = true ∧ (lineKind hd t).frameEnd = !hd.startPending ∧
      (lineKind hd t).judged = false := by
  cases hp : hd.startPending <;> simp [lineKind, hp, hs, hw, HeadState.judged]

/-- R71: the head enters LOCKED with miss count 0. -/
theorem judgement_of_locking {k : LineKind} (hl : k.locks = true) :
    stateAfter hd k = .locked ∧ missesAfter hd k = 0 := by
  simp only [stateAfter, missesAfter, hl, if_true, and_self]

/-- R71, R73: from another line than the last, a pending wrap is a corrected one. -/
theorem lineKind_corrected (hp : hd.startPending = false) (hw : hd.pendingWrap = true)
    (hn : hd.line + 1 ≠ t.frameTotal) : (lineKind hd t).corrected = true := by
  simp only [lineKind, hp, hw, Bool.false_eq_true, if_false, beq_eq_false_iff_ne.mpr hn, Bool.not_false, Bool.and_self]
end

section
variable {s : State} {h : HeadId} {ts : TimingSet}

/-- R74: a corrected wrap of any running head. -/
theorem endLine_corrected (ht : (s.head h).timing = some ts) (hp : (s.head h).startPending = false)
    (hw : (s.head h).pendingWrap = true) (hn : (s.head h).line + 1 ≠ ts.frameTotal) :
    (∀ k : SlotNo, ((endLine h s).head h).slots[k].line? = some k.val) ∧
      (∀ w, ((endLine h s).window w).refs = (s.window w).refs - (s.headReferences h).count w +
        ((endLine h s).headReferences h).count w) ∧
      (ts.valid = true → AllBlank ((endLine h s).head h) ∧ LivesKept s (endLine h s) ∧
        FreesReleased s (endLine h s) (s.headReferences h)) := by
  have hanew : FillsAnew (s.head h) ts := .inr (.inl (lineKind_corrected hp hw hn))
  obtain ⟨hline, -⟩ := lineKind_frameEnd (t := ts) hp (.inl hw)
  have hrefs := endLine_anew_refs h s ht hanew
  simp only [clearedReferences, hp, Bool.false_eq_true, if_false] at hrefs
  exact ⟨endLine_anew_line h s ht hanew, hrefs, fun hv =>
    ⟨endLine_anew_allBlank h s ht hanew (.inr hv), endLine_anew_frees h s ht hanew hp hline hv⟩⟩

/-- R59: the first line start releases nothing. -/
theorem endLine_first (ht : (s.head h).timing = some ts) (hp : (s.head h).startPending = true) :
    (∀ k : SlotNo, ((endLine h s).head h).slots[k].line? = some k.val) ∧
      (∀ w, ((endLine h s).window w).refs = (s.window w).refs + ((endLine h s).headReferences h).count w) ∧
      (ts.valid = true → AllBlank ((endLine h s).head h)) := by
  have hrefs := endLine_anew_refs h s ht (.inl hp)
  simp only [clearedReferences, hp, if_true, List.count_nil, Nat.sub_zero] at hrefs
  exact ⟨endLine_first_line h s ht hp, hrefs, fun hv => endLine_anew_allBlank h s ht (.inl hp) (.inr hv)⟩

/-- Log 5: LOSS_OF_LOCK is the line start that is due and loses the lock. -/
theorem exec_lossOfLock (hend : LineEnds s h ts) (hl : losesLock (s.head h) (lineKind (s.head h) ts) = true) :
    exec (.lossOfLock h) s = .next (endLine h s) := by
  obtain ⟨ht, hrun, -, hpixel⟩ := hend
  have hdue : (s.head h).lossDue = true := by
    simp only [Head.lossDue, Head.lineStartDue, ht, hl, HeadState.running_iff.mpr hrun, hpixel, beq_self_eq_true,
      Bool.or_true, Bool.and_self]
  show execLossOfLock h s = _
  rw [execLossOfLock, if_pos hdue]

end

/-- Settles O32: the locking wrap, at the first line start or a later one, and the corrected wrap of a head that has
its lock. -/
theorem pendingWrapTakesLineZero : Obligations.PendingWrapTakesLineZero := by
  intro s h ts hsup ht hw blank corrected
  obtain ⟨hstate, -, -, hline, hframes, hmisses, -, -, hwrap, -⟩ := Head.fields_of_counters (endLine_counters h s ht)
  refine ⟨fun hs hdue => ?_, fun hs hend hn _ => ?_⟩
  · obtain ⟨hzero, hlocks, hframe, -⟩ := lineKind_locking (t := ts) hs hw
    obtain ⟨hlocked, hnone⟩ := judgement_of_locking (hd := s.head h) hlocks
    have hcount : ((endLine h s).head h).frames =
        if (s.head h).startPending then (s.head h).frames else (s.head h).frames + 1 := by
      rw [hframes, Head.takeLine, hframe]
      cases (s.head h).startPending <;> rfl
    exact ⟨endLine h s, exec_lineStart ht (by rw [hs]; decide) hdue, hline.trans hzero, hstate.trans hlocked,
      hmisses.trans hnone, hwrap, hcount, (endLine_follow h s hsup ht).1 hlocks, endLine_first ht,
      fun hp hn => endLine_corrected ht hp hw hn⟩
  · have hdue := hend
    obtain ⟨-, hrun, hp, -⟩ := hend
    obtain ⟨hzero, hframe⟩ := lineKind_frameEnd (t := ts) hp (.inl hw)
    exact ⟨endLine h s, exec_lineStart ht hrun (.inr hdue), hline.trans hzero, hwrap, hframes.trans (if_pos hframe),
      endLine_corrected ht hp hw hn⟩

/-- Settles O34: the third miss makes the head SEEKING, so the lines that fill its slots are BLANK whatever the timing
set. -/
theorem lossOfLockEmptiesTheHead : Obligations.LossOfLockEmptiesTheHead := by
  intro s h ts hsup hend hf hs hbad hm
  have hdue := hend
  obtain ⟨ht, hrun, hp, -⟩ := hend
  obtain ⟨hlocks, hjudged, hgood⟩ := lineKind_judged hp hf hs
  obtain ⟨hst, -, hloses⟩ := judgement_of_miss (hd := s.head h) hlocks hjudged
    (hgood.trans (Bool.eq_false_iff.mpr (mt Head.frameGood_iff.mp hbad)))
  have hthird : (s.head h).misses + 1 = 3 := by omega
  have hlost := hloses.mpr hthird
  rw [if_pos hthird] at hst
  obtain ⟨hstate, -⟩ := Head.fields_of_counters (endLine_counters h s ht)
  obtain ⟨hline, -⟩ := lineKind_frameEnd hp hf
  have hanew : FillsAnew (s.head h) ts := .inr (.inr hlost)
  have hblank := endLine_anew_allBlank h s ht hanew (.inl hst)
  refine ⟨endLine h s, exec_lossOfLock hdue hlost, hstate.trans hst, (endLine_follow h s hsup ht).2 hlost, hblank,
    fun w => ?_, endLine_anew_frees h s ht hanew hp hline, fun i => endLine_lost_tag h s ht hlost⟩
  rw [endLine_anew_refs h s ht hanew, headReferences_of_allBlank hblank, clearedReferences, hp, if_neg nofun,
    List.count_nil, Nat.add_zero]

end Sys2Proof.Machine
end

section
/-! The windows a line is resolved from (R86 to R88). -/

namespace Sys2Proof.Machine

/-- R87, R88: when a window covers a row, and with what. -/
theorem coverOf_eq_some {row width : Nat} {w : WindowId} {v : Window} {c : Cover} :
    coverOf row width w v = some c ↔ ∃ hd img g src, v.life = .live hd img none ∧ img.geometry = some g ∧
      img.source = some src ∧ (g.y ≤ row ∧ row < g.y + g.height ∧ g.x < min (g.x + g.width) width) ∧
      c = { window := w, geometry := g, source := src, ringRows := img.ringRows, key := img.key
            lo := g.x, past := min (g.x + g.width) width } := by
  constructor
  · intro hc
    unfold coverOf at hc
    split at hc
    · next hd img hl =>
      split at hc
      · next g src hg hs =>
        simp only [] at hc
        split at hc
        · next hcover => exact ⟨hd, img, g, src, hl, hg, hs, hcover, (Option.some.inj hc).symm⟩
        · cases hc
      · cases hc
    · cases hc
  · rintro ⟨hd, img, g, src, hl, hg, hs, hcover, rfl⟩
    simp only [coverOf, hl, hg, hs, if_pos hcover]

theorem window_of_coverOf {row width : Nat} {w : WindowId} {v : Window} {c : Cover}
    (hc : coverOf row width w v = some c) : c.window = w := by
  obtain ⟨hd, img, g, src, -, -, -, -, rfl⟩ := coverOf_eq_some.mp hc
  rfl

/-- R86: the covers of a line are those of the listed windows. -/
theorem mem_coversOf {row width : Nat} {h : HeadId} {s : State} {c : Cover} :
    c ∈ coversOf row width h s ↔ c.window ∈ (s.head h).depthList ∧
      coverOf row width c.window (s.window c.window) = some c := by
  rw [coversOf, List.mem_filterMap]
  constructor
  · rintro ⟨w, hw, hc⟩
    obtain rfl := window_of_coverOf hc
    exact ⟨hw, hc⟩
  · rintro ⟨hw, hc⟩
    exact ⟨_, hw, hc⟩

/-- R87: a window that covers a line is LIVE without a fault. -/
theorem life_of_mem_coversOf {row width : Nat} {h : HeadId} {s : State} {c : Cover}
    (hc : c ∈ coversOf row width h s) : ∃ hd img, (s.window c.window).life = .live hd img none := by
  obtain ⟨hd, img, g, src, hl, -⟩ := coverOf_eq_some.mp (mem_coversOf.mp hc).2
  exact ⟨hd, img, hl⟩

/-- Settles O44: each clause reads `coverOf_eq_some` in one direction, and the order is that of `filterMap`. -/
theorem coversAreClippedToTheLine : Obligations.CoversAreClippedToTheLine := by
  intro s h row width
  refine ⟨fun c hc => ?_, fun w hd img g src hw hl hg hs htop hbottom hleft hwide => ?_, fun w hf c hc hcw => ?_, ?_⟩
  · obtain ⟨hd, img, g, src, hl, hg, hs, ⟨htop, hbottom, hx⟩, e⟩ := coverOf_eq_some.mp (mem_coversOf.mp hc).2
    rw [e] at hl ⊢
    exact ⟨hx, min_le_right _ _, rfl, rfl, htop, hbottom, hd, img, hl, hg, hs, rfl, rfl⟩
  · have hx : g.x < min (g.x + g.width) width := lt_min (by omega) hleft
    have hc : coverOf row width w (s.window w) = some _ :=
      coverOf_eq_some.mpr ⟨hd, img, g, src, hl, hg, hs, ⟨htop, hbottom, hx⟩, rfl⟩
    exact ⟨_, List.mem_filterMap.mpr ⟨w, hw, hc⟩, window_of_coverOf hc⟩
  · obtain ⟨hd, img, hl⟩ := life_of_mem_coversOf hc
    rw [hcw] at hl
    rw [hl] at hf
    exact hf rfl
  · rw [coversOf]
    induction (s.head h).depthList with
    | nil => exact List.Sublist.refl _
    | cons w ws ih =>
      cases hc : coverOf row width w (s.window w) with
      | none => simpa [List.filterMap_cons, hc] using ih.cons w
      | some c => simpa [List.filterMap_cons, hc, window_of_coverOf hc] using ih.cons_cons w

end Sys2Proof.Machine
end

section
/-! What a resolution drops, and where the walk of a line begins (R91, R93, R95, R102). -/

namespace Sys2Proof.Machine

/-! ### The windows a resolution drops are covers of the line -/

/-- The stacks of some runs are made of these covers. -/
def StacksFrom (covers : List Cover) (rs : List Run) : Prop := ∀ r ∈ rs, ∀ c ∈ r.stack, c ∈ covers

theorem cutAtOpaque_sublist (cs : List Cover) : (cutAtOpaque cs).Sublist cs := by
  induction cs with
  | nil => exact .refl _
  | cons c cs ih =>
    rw [cutAtOpaque]
    split
    · exact (List.nil_sublist cs).cons_cons c
    · exact ih.cons_cons c

section
variable {covers : List Cover}

theorem intervals_stacksFrom (cuts : List Nat) : StacksFrom covers (intervals covers cuts) := by
  induction cuts with
  | nil => exact nofun
  | cons a cuts ih =>
    cases cuts with
    | nil => exact nofun
    | cons b rest =>
      intro r hr c hc
      rw [intervals] at hr
      rcases List.mem_cons.mp hr with rfl | hr
      · exact List.mem_of_mem_filter ((cutAtOpaque_sublist _).subset hc)
      · exact ih r hr c hc

theorem StacksFrom.limitRun {rs : List Run} (h : StacksFrom covers rs) : StacksFrom covers (rs.map limitRun) := by
  intro r hr c hc
  obtain ⟨q, hq, rfl⟩ := List.mem_map.mp hr
  exact h q hq c (List.mem_of_mem_take hc)

/-- R92: merging lengthens runs and drops others. -/
theorem mergeRuns_stack {rs : List Run} : ∀ r ∈ mergeRuns rs, ∃ q ∈ rs, r.stack = q.stack := by
  induction rs with
  | nil => exact nofun
  | cons q rest ih =>
    intro r hr
    have later : ∀ p ∈ mergeRuns rest, ∃ q' ∈ q :: rest, p.stack = q'.stack := fun p hp => by
      obtain ⟨q', hq', e⟩ := ih p hp
      exact ⟨q', List.mem_cons_of_mem q hq', e⟩
    rw [mergeRuns] at hr
    split at hr
    · obtain rfl := List.mem_singleton.mp hr
      exact ⟨r, List.mem_cons_self .., rfl⟩
    · next p ps hp =>
      rw [hp] at later
      split at hr
      · rcases List.mem_cons.mp hr with rfl | hr
        · exact ⟨q, List.mem_cons_self .., rfl⟩
        · exact later r (List.mem_cons_of_mem p hr)
      · rcases List.mem_cons.mp hr with rfl | hr
        · exact ⟨r, List.mem_cons_self .., rfl⟩
        · exact later r hr

theorem StacksFrom.mergeRuns {rs : List Run} (h : StacksFrom covers rs) : StacksFrom covers (mergeRuns rs) := by
  intro r hr c hc
  obtain ⟨q, hq, e⟩ := mergeRuns_stack r hr
  exact h q hq c (e ▸ hc)

theorem StacksFrom.limitSpans {rs : List Run} (h : StacksFrom covers rs) (width : Nat) :
    StacksFrom covers (limitSpans width rs) := by
  intro r hr c hc
  rw [Machine.limitSpans] at hr
  split at hr
  · rcases List.mem_append.mp hr with hr | hr
    · exact h r (List.mem_of_mem_take hr) c hc
    · obtain rfl := List.mem_singleton.mp hr
      cases hc
  · exact h r hr c hc

theorem layerDrops_from {rs : List Run} (h : StacksFrom covers rs) :
    ∀ w ∈ rs.flatMap layerDrops, ∃ c ∈ covers, c.window = w := by
  intro w hw
  obtain ⟨r, hr, hw⟩ := List.mem_flatMap.mp hw
  obtain ⟨c, hc, rfl⟩ := List.mem_map.mp hw
  exact ⟨c, h r hr c (List.mem_of_mem_drop hc), rfl⟩

theorem firstOnly_subset (ws : List WindowId) : firstOnly ws ⊆ ws := by
  have hfold : ∀ (vs seen : List WindowId),
      vs.foldl (fun seen w => if seen.contains w then seen else seen ++ [w]) seen ⊆ seen ++ vs := by
    intro vs
    induction vs with
    | nil => exact fun seen => by rw [List.append_nil]; exact List.Subset.refl _
    | cons v vs ih =>
      intro seen w hw
      rw [List.foldl_cons] at hw
      have hmem := ih _ hw
      rw [List.mem_append] at hmem ⊢
      rcases hmem with hmem | hmem
      · split at hmem
        · exact .inl hmem
        · exact (List.mem_append.mp hmem).imp id fun hv => List.mem_cons.mpr (.inl (List.mem_singleton.mp hv))
      · exact .inr (List.mem_cons_of_mem v hmem)
  exact hfold ws []

theorem spanDrops_from {rs : List Run} (h : StacksFrom covers rs) : ∀ w ∈ spanDrops rs, ∃ c ∈ covers, c.window = w := by
  intro w hw
  unfold spanDrops at hw
  split at hw
  · next hdrop =>
    obtain ⟨r, hr, hw⟩ := List.mem_flatMap.mp (firstOnly_subset _ hw)
    obtain ⟨c, hc, rfl⟩ := List.mem_map.mp hw
    exact ⟨c, h r (List.mem_of_mem_drop (hdrop ▸ hr)) c hc, rfl⟩
  · cases hw

theorem chargeStack_drops (row x width used : Nat) (cs : List Cover) :
    ∀ w ∈ (chargeStack row x width used cs).2.2, ∃ c ∈ cs, c.window = w := by
  induction cs generalizing used with
  | nil => exact nofun
  | cons c cs ih =>
    have later : ∀ used, ∀ w ∈ (chargeStack row x width used cs).2.2, ∃ c' ∈ c :: cs, c'.window = w :=
      fun used w hw => by
        obtain ⟨d, hd, e⟩ := ih used w hw
        exact ⟨d, List.mem_cons_of_mem c hd, e⟩
    intro w hw
    rw [chargeStack] at hw
    split at hw
    · exact later _ w hw
    · rcases List.mem_cons.mp hw with rfl | hw
      · exact ⟨c, List.mem_cons_self .., rfl⟩
      · exact later _ w hw

theorem chargeRuns_drops {rs : List Run} (h : StacksFrom covers rs) (row used : Nat) :
    ∀ w ∈ (chargeRuns row used rs).2.2, ∃ c ∈ covers, c.window = w := by
  induction rs generalizing used with
  | nil => exact nofun
  | cons r rs ih =>
    intro w hw
    rw [chargeRuns] at hw
    rcases List.mem_append.mp hw with hw | hw
    · obtain ⟨c, hc, e⟩ := chargeStack_drops _ _ _ _ _ w hw
      exact ⟨c, h r (List.mem_cons_self ..) c hc, e⟩
    · exact ih (fun q hq => h q (List.mem_cons_of_mem r hq)) _ w hw
end

/-- R91, R93, R95: a resolution drops windows of its covers only. -/
theorem resolveLine_drops (row width : Nat) (covers : List Cover) :
    ∀ w ∈ (resolveLine row width covers).drops, ∃ c ∈ covers, c.window = w := by
  have hraw : StacksFrom covers (intervals covers (cutPoints width covers)) := intervals_stacksFrom _
  intro w hw
  rcases List.mem_append.mp hw with hw | hw
  · rcases List.mem_append.mp hw with hw | hw
    · exact layerDrops_from hraw w hw
    · exact spanDrops_from hraw.limitRun.mergeRuns w hw
  · exact chargeRuns_drops (hraw.limitRun.mergeRuns.limitSpans width) _ _ w hw

/-! ### The first PENDING segment of a walk (R102) -/

/-- R102: the walk has one order, so its first PENDING segment is one. -/
theorem FirstPending.unique {spans : List Span} {among : Nat → Nat → Prop} {p q : Pos}
    (hp : FirstPending spans among p) (hq : FirstPending spans among q) : p = q := by
  obtain ⟨hp0, hpa, ⟨l, hl, hlp⟩, hpfirst⟩ := hp
  obtain ⟨hq0, hqa, ⟨m, hm, hmp⟩, hqfirst⟩ := hq
  have hpq : ¬ WalkBefore p.span p.layer q.span q.layer := fun hb => hqfirst _ _ l hpa hb hl hlp
  have hqp : ¬ WalkBefore q.span q.layer p.span p.layer := fun hb => hpfirst _ _ m hqa hb hm hmp
  cases p
  cases q
  simp only [WalkBefore] at hpq hqp hp0 hq0
  rw [Pos.mk.injEq]
  omega

/-- The place `i`, `j` of a walk comes not before a position. -/
def NotBefore (from_ : Pos) (i j : Nat) : Prop := ¬ WalkBefore i j from_.span from_.layer

/-- What `firstPendingFrom` tests of the segment at place `i`, `j`. -/
theorem pendingTest_iff {from_ : Pos} {i j : Nat} {l : Layer} :
    (l.status = .pending && (from_.span < i || (from_.span == i && from_.layer ≤ j)) : Bool) = true ↔
      l.status = .pending ∧ NotBefore from_ i j := by
  have hplace : (from_.span < i ∨ from_.span = i ∧ from_.layer ≤ j) ↔ NotBefore from_ i j := by
    simp only [NotBefore, WalkBefore]
    omega
  simp only [Bool.and_eq_true, Bool.or_eq_true, decide_eq_true_eq, beq_iff_eq, hplace]

/-- What is found in a list with its indices is the first there. -/
theorem find?_zipIdx_eq_some {α : Type} {l : List α} {p : α × Nat → Bool} {e : α × Nat}
    (h : l.zipIdx.find? p = some e) :
    l[e.2]? = some e.1 ∧ p e = true ∧ ∀ j x, j < e.2 → l[j]? = some x → p (x, j) = false := by
  obtain ⟨hp, i, hi, rfl, hfirst⟩ := List.find?_eq_some_iff_getElem.mp h
  rw [List.length_zipIdx] at hi
  simp only [List.getElem_zipIdx, Nat.zero_add] at hp hfirst ⊢
  refine ⟨List.getElem?_eq_getElem hi, hp, fun j x hj hx => ?_⟩
  obtain ⟨-, rfl⟩ := List.getElem?_eq_some_iff.mp hx
  simpa using hfirst j hj

/-- R102: `firstPendingFrom` stops at the first PENDING segment not before its position, and passes none. -/
theorem firstPendingFrom_spec {from_ : Pos} (hf : from_.offset = 0) (spans : List Span) (i : Nat) :
    (∀ q, firstPendingFrom from_ i spans = some q →
      ∃ a, q.span = i + a ∧ FirstPending spans (fun x y => NotBefore from_ (i + x) y) { q with span := a }) ∧
    (firstPendingFrom from_ i spans = none →
      ∀ x y l, NotBefore from_ (i + x) y → layerAt spans x y = some l → l.status ≠ .pending) := by
  induction spans generalizing i with
  | nil => exact ⟨nofun, fun _ x y l _ hl => by simp [layerAt] at hl⟩
  | cons sp rest ih =>
    obtain ⟨hsome, hnone⟩ := ih (i + 1)
    have hcomm : ∀ x, i + 1 + x = i + (x + 1) := fun x => by omega
    simp only [hcomm] at hsome hnone
    unfold firstPendingFrom
    simp only []
    split
    · next e he =>
      obtain ⟨hl, htest, hfirst⟩ := find?_zipIdx_eq_some he
      obtain ⟨hpending, hnot⟩ := pendingTest_iff.mp htest
      refine ⟨fun q hq => ?_, nofun⟩
      obtain rfl := Option.some.inj hq
      refine ⟨0, rfl, by simp only [hf, ite_self], hnot, ⟨e.1, hl, hpending⟩, fun x y l hxy hbefore hxl hp => ?_⟩
      obtain ⟨rfl, hy⟩ : x = 0 ∧ y < e.2 := by
        rcases hbefore with hx | ⟨hx, hy⟩
        · exact absurd hx (Nat.not_lt_zero x)
        · exact ⟨hx, hy⟩
      exact Bool.false_ne_true ((hfirst y l hy hxl).symm.trans (pendingTest_iff.mpr ⟨hp, hxy⟩))
    · next he =>
      have hhere : ∀ y l, NotBefore from_ i y → sp.layers[y]? = some l → l.status ≠ .pending := fun y l hy hl hp =>
        List.find?_eq_none.mp he (l, y) (List.mem_zipIdx_iff_getElem?.mpr hl) (pendingTest_iff.mpr ⟨hp, hy⟩)
      refine ⟨fun q hq => ?_, fun hq x y l hxy hl => ?_⟩
      · obtain ⟨a, ha, h0, hamong, hpending, hfirst⟩ := hsome q hq
        refine ⟨a + 1, by omega, h0, hamong, hpending, fun x y l hxy hbefore hl => ?_⟩
        cases x with
        | zero => exact hhere y l hxy hl
        | succ x =>
          have hbefore' : WalkBefore x y a q.layer := by
            simp only [WalkBefore] at hbefore ⊢
            omega
          exact hfirst x y l hxy hbefore' hl
      · cases x with
        | zero => exact hhere y l hxy hl
        | succ x => exact hnone hq x y l hxy hl

/-- R102: the next piece of a walk from the beginning of a segment on. -/
theorem nextPending_eq_some_iff {from_ : Pos} (hf : from_.offset = 0) {spans : List Span} {q : Pos} :
    nextPending spans from_ = some q ↔ FirstPending spans (NotBefore from_) q := by
  obtain ⟨hsome, hnone⟩ := firstPendingFrom_spec hf spans 0
  simp only [Nat.zero_add] at hsome hnone
  have hfound : ∀ p, nextPending spans from_ = some p → FirstPending spans (NotBefore from_) p := fun p hp => by
    obtain ⟨a, ha, hfirst⟩ := hsome p hp
    rwa [← ha] at hfirst
  refine ⟨hfound q, fun hq => ?_⟩
  cases hp : nextPending spans from_ with
  | some p => rw [(hfound p hp).unique hq]
  | none =>
    obtain ⟨-, hamong, ⟨l, hl, hpending⟩, -⟩ := hq
    exact absurd hpending (hnone hp _ _ l hamong hl)

/-- R101, R102: the walk of a new line begins at its first PENDING segment. -/
theorem nextPending_walkStart {spans : List Span} {q : Pos} :
    nextPending spans walkStart = some q ↔ FirstPending spans (fun _ _ => True) q := by
  have hall : NotBefore walkStart = fun _ _ => True := by
    funext i j
    simp [NotBefore, WalkBefore, walkStart]
  rw [nextPending_eq_some_iff rfl, hall]

end Sys2Proof.Machine
end

section
/-! A slot that goes on from the line that ended to a later one (R83): its references released, the later line resolved
into it. -/

namespace Sys2Proof.Machine

/-! ### LAYER_DROPPED (R91, R93, R95) -/

theorem notifyOwner_layerDropped_notice (s : State) (w : WindowId) (c : ClientId) :
    (notifyOwner w (.layerDropped w) s).notice c =
      { s.notice c with
        layerDropped := keepFirst (s.notice c).layerDropped
          (if (s.window w).owner? = some c then some w else none) } := by
  unfold notifyOwner
  split
  · next d hd =>
    rw [notify_notice, hd]
    split
    · next e => subst e; rw [if_pos rfl, NoticeRecord.set, firstSubject_eq]
    · next e => rw [if_neg fun h => e (Option.some.inj h), keepFirst_none]
  · next hd => rw [hd, if_neg nofun, keepFirst_none]

/-- R152: of the windows dropped, a client is told of its first. -/
theorem notifyOwners_layerDropped_eq (ws : List WindowId) (s : State) (c : ClientId) :
    (notifyOwners .layerDropped ws s).notice c =
      { s.notice c with
        layerDropped := keepFirst (s.notice c).layerDropped (ws.find? fun w => (s.window w).owner? = some c) } := by
  induction ws generalizing s with
  | nil =>
    show s.notice c = { s.notice c with layerDropped := keepFirst (s.notice c).layerDropped none }
    rw [keepFirst_none]
  | cons w ws ih =>
    show (notifyOwners .layerDropped ws (notifyOwner w (.layerDropped w) s)).notice c = _
    rw [ih, notifyOwner_layerDropped_notice, keepFirst_keepFirst]
    simp only [notifyOwner_window]
    by_cases hw : (s.window w).owner? = some c
    · rw [if_pos hw, List.find?_cons_of_pos (by simpa using hw)]
      rfl
    · rw [if_neg hw, List.find?_cons_of_neg (by simpa using hw)]
      rfl

/-- R85 to R96: what a resolution of a line that shows windows writes, and whom it tells. -/
theorem resolveInto_active (h : HeadId) (k : SlotNo) (n : Nat) (s : State) {t : TimingSet}
    (ht : (s.head h).timing = some t) (hn : t.isActive n = true) (hs : (s.head h).state ≠ .seeking) {r : Resolved}
    (hr : r = resolveLine (n - t.activeFirstLine) t.activeWidth (coversOf (n - t.activeFirstLine) t.activeWidth h s)) :
    ((resolveInto h k n s).head h).slots[k] = .active
        { phase := if pendingWindows r.spans = [] then .complete else .fetching
          line := n, spans := r.spans, budget := r.budget } ∧
      ((resolveInto h k n s).head h).cursor[k] = nextPending r.spans walkStart ∧
      ∀ c, (resolveInto h k n s).notice c = { s.notice c with
        layerDropped := keepFirst (s.notice c).layerDropped
          (r.drops.find? fun w => (s.window w).owner? = some c) } := by
  rcases resolveInto_cases h k n s ht with ⟨hb, -⟩ | ⟨-, q, hq, e⟩
  · exact absurd hb (not_or.mpr ⟨hs, by rw [hn]; decide⟩)
  · obtain rfl := hr.trans hq.symm
    rw [e, notifyOwners_head, addRefs_head, setSlot_head, if_pos rfl]
    refine ⟨by simp, by simp, fun c => ?_⟩
    rw [notifyOwners_layerDropped_eq, addRefs_notice]
    simp only [Window.owner?, addRefs_life]
    rfl

/-! ### What releases leave of LIVE windows -/

/-- From `s` to `u` windows have changed their life only from RETIRING to FREE. -/
def RetiringFreed (s u : State) : Prop := ∀ w, (u.window w).life = (s.window w).life ∨
  ((s.window w).life.isRetiring = true ∧ (u.window w).life = .free)

theorem releaseRefs_retiringFreed (ws : List WindowId) (s : State) : RetiringFreed s (releaseRefs ws s) := by
  induction ws generalizing s with
  | nil => exact fun w => .inl rfl
  | cons v vs ih =>
    intro w
    have hone : ((releaseRef v s).window w).life = (s.window w).life ∨
        ((s.window w).life.isRetiring = true ∧ ((releaseRef v s).window w).life = .free) := by
      rw [releaseRef_window]
      split
      · next e =>
        subst e
        split
        · next hr => exact .inr ⟨hr.1, rfl⟩
        · exact .inl rfl
      · exact .inl rfl
    rcases ih (releaseRef v s) w with e | ⟨hr, e⟩
    · rcases hone with f | ⟨hr, f⟩
      · exact .inl (e.trans f)
      · exact .inr ⟨hr, e.trans f⟩
    · rcases hone with f | ⟨-, f⟩
      · exact .inr ⟨f ▸ hr, e⟩
      · rw [f] at hr; cases hr

section
variable {s u : State} (a : RetiringFreed s u)
include a

/-- What is read of the life of a window as if a RETIRING one were FREE is the same. -/
theorem RetiringFreed.read {β : Type} (f : Life → β) (hf : ∀ l, l.isRetiring = true → f l = f .free) (w : WindowId) :
    f (u.window w).life = f (s.window w).life := by
  rcases a w with e | ⟨hr, e⟩ <;> rw [e]
  exact (hf _ hr).symm

theorem RetiringFreed.live_iff {w : WindowId} {hd : Held} {img : Image} {f : Option Nat} :
    (u.window w).life = .live hd img f ↔ (s.window w).life = .live hd img f :=
  Iff.of_eq (a.read (· = .live hd img f) (fun l hl => by cases l <;> simp_all [Life.isRetiring]) w)

/-- R87: RETIRING windows are no covers. -/
theorem RetiringFreed.coverOf (row width : Nat) (w : WindowId) :
    coverOf row width w (u.window w) = coverOf row width w (s.window w) :=
  Option.ext fun c => by simp only [coverOf_eq_some, a.live_iff]

theorem RetiringFreed.coversOf {h : HeadId} (hl : (u.head h).depthList = (s.head h).depthList) (row width : Nat) :
    coversOf row width h u = coversOf row width h s := by
  simp only [Machine.coversOf, hl, a.coverOf]
end

theorem RetiringFreed.of_sameTables {s u v : State} (a : RetiringFreed s u) (b : SameTables u v) : RetiringFreed s v :=
  fun w => by rw [b.window]; exact a w

/-- The owner of a cover is that of its window before the releases. -/
theorem RetiringFreed.owner_of_cover {s u : State} (a : RetiringFreed s u) {h : HeadId} {row width : Nat} {c : Cover}
    (hc : c ∈ Machine.coversOf row width h s) : (u.window c.window).owner? = (s.window c.window).owner? := by
  obtain ⟨hd, img, hl⟩ := life_of_mem_coversOf hc
  rw [Window.owner?, Window.owner?, hl, a.live_iff.mpr hl]

/-! ### The slot that goes on -/

/-- R83: release the content of slot `k` and resolve line `n` into it. -/
def advanceSlot (h : HeadId) (k : SlotNo) (n : Nat) (s : State) : State := resolveInto h k n (emptySlot h k s)

section
variable (h : HeadId) (k : SlotNo) (n : Nat) (s : State)

theorem emptySlot_retiringFreed : RetiringFreed s (emptySlot h k s) :=
  (releaseRefs_retiringFreed _ s).of_sameTables (emptySlot_sameTables h k s)

theorem emptySlot_timing : ((emptySlot h k s).head h).timing = (s.head h).timing :=
  timing_of_timer (emptySlot_timer h s k)

theorem emptySlot_state : ((emptySlot h k s).head h).state = (s.head h).state :=
  (congrArg Head.state (emptySlot_timer h s k) : ((emptySlot h k s).head h).timer.state = _)

theorem emptySlot_depthList : ((emptySlot h k s).head h).depthList = (s.head h).depthList :=
  (emptySlot_quiet (fun _ r => r) h s k).list

/-- R86: emptying a slot changes no cover. -/
theorem emptySlot_coversOf (row width : Nat) : coversOf row width h (emptySlot h k s) = coversOf row width h s :=
  (emptySlot_retiringFreed h k s).coversOf (emptySlot_depthList h k s) row width

theorem advanceSlot_head_self : ∃ v p q, (advanceSlot h k n s).head h =
    { s.head h with slots := (s.head h).slots.set k v, cursor := (s.head h).cursor.set k p, commitQueue := q } := by
  obtain ⟨v, p, e⟩ := resolveInto_head_self h k n (emptySlot h k s)
  obtain ⟨q, -, f⟩ := emptySlot_head_self s h k
  refine ⟨v, p, q, ?_⟩
  rw [advanceSlot, e, f]
  simp only [Vector.set_set]

theorem advanceSlot_of_ne {j : SlotNo} (hne : j ≠ k) :
    ((advanceSlot h k n s).head h).slots[j] = (s.head h).slots[j] ∧
      ((advanceSlot h k n s).head h).cursor[j] = (s.head h).cursor[j] := by
  obtain ⟨v, p, q, e⟩ := advanceSlot_head_self h k n s
  have hval : k.val ≠ j.val := fun e => hne (Fin.ext e.symm)
  rw [e]
  exact ⟨Vector.getElem_set_ne k.isLt j.isLt hval, Vector.getElem_set_ne k.isLt j.isLt hval⟩

variable {t : TimingSet} (ht : (s.head h).timing = some t)
include ht

theorem advanceSlot_line : ((advanceSlot h k n s).head h).slots[k].line? = some n := by
  rw [advanceSlot, resolveInto_line h _ k k n ((emptySlot_timing h k s).trans ht), if_pos rfl]

/-- R15, R16: the references of the old content are released, those of the new one added. -/
theorem advanceSlot_refs (w : WindowId) : ((advanceSlot h k n s).window w).refs =
    (s.window w).refs - (s.head h).slots[k].references.count w +
      ((advanceSlot h k n s).head h).slots[k].references.count w := by
  rw [advanceSlot, resolveInto_refs h _ ((emptySlot_timing h k s).trans ht), (emptySlot_sameTables h k s).window,
    releaseRefs_refs]

/-- R96: a line that shows no window. -/
theorem advanceSlot_blank (hb : t.isActive n = false ∨ (s.head h).state = .seeking) :
    ((advanceSlot h k n s).head h).slots[k] = .blank n ∧ ((advanceSlot h k n s).head h).cursor[k] = none ∧
      SameTables (releaseRefs (s.head h).slots[k].references s) (advanceSlot h k n s) := by
  have hset : advanceSlot h k n s = setSlot h k (.blank n) none (emptySlot h k s) := by
    rcases resolveInto_cases h k n (emptySlot h k s) ((emptySlot_timing h k s).trans ht) with ⟨-, e⟩ | ⟨hc, -⟩
    · exact e
    · rw [emptySlot_state] at hc
      exact absurd hb.symm hc
  have htables := emptySlot_sameTables h k s
  rw [hset, setSlot_head, if_pos rfl]
  exact ⟨by simp, by simp, htables.windows, htables.clients, htables.notices⟩

/-- R85 to R96: a line that shows windows, as its resolution from the windows as they stood. -/
theorem advanceSlot_active (hn : t.isActive n = true) (hs : (s.head h).state ≠ .seeking) {r : Resolved}
    (hr : r = resolveLine (n - t.activeFirstLine) t.activeWidth
      (coversOf (n - t.activeFirstLine) t.activeWidth h s)) :
    ((advanceSlot h k n s).head h).slots[k] = .active
        { phase := if pendingWindows r.spans = [] then .complete else .fetching
          line := n, spans := r.spans, budget := r.budget } ∧
      ((advanceSlot h k n s).head h).cursor[k] = nextPending r.spans walkStart ∧
      ∀ c, (advanceSlot h k n s).notice c = { (emptySlot h k s).notice c with
        layerDropped := keepFirst ((emptySlot h k s).notice c).layerDropped
          (r.drops.find? fun w => (s.window w).owner? = some c) } := by
  obtain ⟨hslot, hcursor, hnotice⟩ := resolveInto_active h k n (emptySlot h k s) (r := r)
    ((emptySlot_timing h k s).trans ht) hn (by rwa [emptySlot_state]) (by rwa [emptySlot_coversOf])
  have howner : ∀ w ∈ r.drops, ((emptySlot h k s).window w).owner? = (s.window w).owner? := fun w hw => by
    obtain ⟨d, hd, rfl⟩ := resolveLine_drops _ _ _ w (hr ▸ hw)
    exact (emptySlot_retiringFreed h k s).owner_of_cover hd
  have hfind : ∀ c : ClientId, r.drops.find? (fun w => ((emptySlot h k s).window w).owner? = some c) =
      r.drops.find? (fun w => (s.window w).owner? = some c) :=
    fun c => List.find?_congr fun w hw => by rw [howner w hw]
  simp only [hfind] at hnotice
  exact ⟨hslot, hcursor, hnotice⟩
end

/-! ### What the release frees (R13, R11) -/

/-- R18, R13: the releases free all windows of a client when they free as many as it owns. -/
theorem isRetiring_of_all_freed {s : State} (hs : RetiringHeld s) {c : ClientId} {ws : List WindowId}
    (hall : (freedOwn s c ws).length = (s.ownedBy c).length) {w : WindowId} (hw : (s.window w).owner? = some c) :
    (s.window w).life.isRetiring = true := by
  have hown : freedOwn s c ws ⊆ s.ownedBy c := fun v hv =>
    List.mem_filter.mpr ⟨List.mem_finRange v, (List.mem_filter.mp hv).2⟩
  have hperm : (freedOwn s c ws).Perm (s.ownedBy c) :=
    (List.subperm_of_subset ((freedBy_nodup hs ws).filter _) hown).perm_of_length_le hall.ge
  have hmem : w ∈ freedOwn s c ws :=
    hperm.mem_iff.mpr (List.mem_filter.mpr ⟨List.mem_finRange w, by simpa using hw⟩)
  exact isRetiring_of_mem_freedBy (List.mem_filter.mp hmem).1

section
variable (h : HeadId) (k : SlotNo) (n : Nat) (s : State)

/-- R91: a resolution tells nothing to a client that owns no cover. -/
theorem resolveInto_notice_of_no_cover {c : ClientId}
    (hc : ∀ w hd img, (s.window w).life = .live hd img none → hd.owner ≠ c) :
    (resolveInto h k n s).notice c = s.notice c := by
  cases ht : (s.head h).timing with
  | none => unfold resolveInto; rw [ht]
  | some t =>
    by_cases hb : (s.head h).state = .seeking ∨ t.isActive n = false
    · rcases resolveInto_cases h k n s ht with ⟨-, e⟩ | ⟨hno, -⟩
      · rw [e]; rfl
      · exact absurd hb hno
    · obtain ⟨hs, hn⟩ := not_or.mp hb
      obtain ⟨-, -, hnotice⟩ := resolveInto_active h k n s ht (Bool.not_eq_false _ ▸ hn) hs rfl
      rw [hnotice, List.find?_eq_none.mpr, keepFirst_none]
      intro w hw
      obtain ⟨d, hd, rfl⟩ := resolveLine_drops _ _ _ w hw
      obtain ⟨hd, img, hl⟩ := life_of_mem_coversOf hd
      simpa [Window.owner?, hl, Life.held?] using hc _ _ _ hl

/-- R13, R11: going on frees what the releases of the old content free; the resolution after them frees nothing, and
tells nothing to a client that they close. -/
theorem advanceSlot_freesReleased : FreesReleased s (advanceSlot h k n s) (s.head h).slots[k].references := by
  have hfrees := (releaseRefs_freesReleased s (s.head h).slots[k].references).of_sameTables (emptySlot_sameTables h k s)
  refine ⟨fun w hr hpos => ?_, fun hs c mine hmine => ?_⟩
  · rw [advanceSlot, resolveInto_life]
    exact hfrees.lives w hr hpos
  · obtain ⟨hopen, hclosing⟩ := hfrees.reports hs c mine hmine
    have hretired : ((advanceSlot h k n s).notice c).retired = ((emptySlot h k s).notice c).retired := by
      obtain ⟨x, e⟩ := resolveInto_notice h (emptySlot h k s) k n c
      rw [advanceSlot, e]
    have hclient : (advanceSlot h k n s).client c = (emptySlot h k s).client c := resolveInto_client h k n _ c
    rw [hclient, hretired]
    refine ⟨hopen, fun hc h0 hheld => ⟨(hclosing hc h0 hheld).1, fun hne hall => ?_⟩⟩
    obtain ⟨hclosed, hcleared⟩ := (hclosing hc h0 hheld).2 hne hall
    have hall' : (freedOwn s c (s.head h).slots[k].references).length = (s.ownedBy c).length := by
      rw [← hheld, ← hall, hmine]
      rfl
    refine ⟨hclosed, (resolveInto_notice_of_no_cover h k n (emptySlot h k s) fun w hd img hl ho => ?_).trans hcleared⟩
    have hlive := (emptySlot_retiringFreed h k s).live_iff.mp hl
    have hr := isRetiring_of_all_freed hs hall' (w := w) (by rw [Window.owner?, hlive]; exact congrArg some ho)
    rw [hlive] at hr
    cases hr
end

end Sys2Proof.Machine
end

section
/-! Held counts over releases (R18), and what an apply makes of the windows, the Depth List and COMMITTED (R35 to
R39). -/

namespace Sys2Proof.Machine

/-! ### Held counts over releases (R18, R136) -/

theorem State.mem_ownedBy {s : State} {c : ClientId} {w : WindowId} :
    w ∈ s.ownedBy c ↔ (s.window w).owner? = some c := by
  simp [State.ownedBy, allWindows]

/-- When one window has lost its owner, its owner has one window less. -/
theorem ownedBy_erase {s u : State} {w : WindowId}
    (hw : ∀ x, (u.window x).owner? = if w = x then none else (s.window x).owner?) (c : ClientId) :
    u.ownedBy c = (s.ownedBy c).erase w := by
  have hnd : (s.ownedBy c).Nodup := (List.nodup_finRange 48).filter _
  rw [hnd.erase_eq_filter, State.ownedBy, State.ownedBy, List.filter_filter]
  refine List.filter_congr fun x _ => ?_
  rw [hw]
  by_cases hx : w = x
  · simp [hx]
  · simp [hx, Ne.symm hx]

/-- R18, R136: a client that owns a window is not CLOSED. -/
theorem HeldLaw.not_closed {s : State} (hs : HeldLaw s) {c : ClientId} {w : WindowId}
    (hw : (s.window w).owner? = some c) : (s.client c).state ≠ .closed := by
  intro hc
  obtain ⟨hheld, -, hrecord⟩ := hs c
  have hpos : 0 < (s.ownedBy c).length := List.length_pos_of_mem (State.mem_ownedBy.mpr hw)
  rw [hrecord hc] at hheld
  exact absurd hheld (Nat.ne_of_lt hpos)

theorem HeldLaw.of_owners {s u : State} (hs : HeldLaw s) (hc : ∀ c, u.client c = s.client c)
    (hw : ∀ w, (u.window w).owner? = (s.window w).owner?) : HeldLaw u := by
  intro c
  have howned : u.ownedBy c = s.ownedBy c := List.filter_congr fun w _ => by rw [hw]
  rw [hc, howned]
  exact hs c

/-- R11, R18, R144: the held count of an owner falls with the loss of its window. -/
theorem HeldLaw.dropHeld {s v : State} (hs : HeldLaw s) {w : WindowId} {o : ClientId}
    (ho : (s.window w).owner? = some o) (hc : ∀ c, v.client c = s.client c)
    (hw : ∀ x, (v.window x).owner? = if w = x then none else (s.window x).owner?) : HeldLaw (dropHeld o v) := by
  intro c
  have howned : (Machine.dropHeld o v).ownedBy c = (s.ownedBy c).erase w :=
    ownedBy_erase (fun x => by rw [dropHeld_window, hw]) c
  obtain ⟨hheld, hquota, hrecord⟩ := hs c
  rw [howned]
  by_cases hco : o = c
  · subst hco
    rw [List.length_erase_of_mem (State.mem_ownedBy.mpr ho)]
    rcases dropHeld_cases v o with ⟨-, hlast, e⟩ | ⟨-, e⟩ <;> rw [e]
    · rw [enterClosed_client, if_pos rfl]
      rw [hc] at hlast
      exact ⟨by rw [← hheld, hlast]; rfl, Nat.le_refl _, fun _ => rfl⟩
    · rw [State.client_setClient_self, hc]
      exact ⟨by rw [hheld], (Nat.sub_le _ _).trans hquota, fun hclosed => absurd hclosed (hs.not_closed ho)⟩
  · have hnot : w ∉ s.ownedBy c := fun hmem =>
      hco (Option.some.inj (ho.symm.trans (State.mem_ownedBy.mp hmem)))
    rw [dropHeld_client_of_ne v o hco, hc, List.erase_of_not_mem hnot]
    exact ⟨hheld, hquota, hrecord⟩

theorem HeldLaw.freeWindow {s : State} (hs : HeldLaw s) (w : WindowId) : HeldLaw (freeWindow w s) := by
  have hfreed : ∀ x, ((s.setWindow w { s.window w with life := .free }).window x).owner? =
      if w = x then none else (s.window x).owner? := fun x => by
    rw [State.window_setWindow]
    split <;> rfl
  rcases freeWindow_cases s w with ⟨-, e⟩ | ⟨hd, hl, e⟩ | ⟨hd, hl, -, e⟩ <;> rw [e]
  · exact hs
  · exact hs.dropHeld (by rw [Window.owner?, hl]; rfl) (fun _ => rfl) hfreed
  · exact hs.dropHeld (by rw [Window.owner?, hl]; rfl) (fun _ => rfl) hfreed

theorem HeldLaw.releaseRef {s : State} (hs : HeldLaw s) (w : WindowId) : HeldLaw (releaseRef w s) := by
  have hset : HeldLaw (s.setWindow w { s.window w with refs := (s.window w).refs - 1 }) :=
    hs.of_owners (fun _ => rfl) fun x => by
      rw [State.window_setWindow]
      split
      · next e => subst e; rfl
      · rfl
  rcases releaseRef_cases s w with ⟨-, -, e⟩ | ⟨-, e⟩ <;> rw [e]
  · exact hset.freeWindow w
  · exact hset

/-- R18: held counts stay right over the releases of one step. -/
theorem HeldLaw.releaseRefs {s : State} (hs : HeldLaw s) (ws : List WindowId) : HeldLaw (releaseRefs ws s) := by
  induction ws generalizing s with
  | nil => exact hs
  | cons w ws ih => exact ih (hs.releaseRef w)

/-! ### What an apply makes of the windows (R35 to R37) -/

/-- R36, R37: the life that processing a window leaves it. -/
def Window.processed (v : Window) : Life :=
  match v.life with
  | .free => .free
  | .reserved hd => .live hd hd.staged.image none
  | .live hd img fault =>
    if hd.staged.retirePending then if v.refs = 0 then .free else .retiring hd img fault
    else .live hd hd.staged.image none
  | .retiring hd img fault => .retiring hd img fault

theorem Window.processed_reserved {v : Window} {hd : Held} (hl : v.life = .reserved hd) :
    v.processed = .live hd hd.staged.image none := by
  rw [Window.processed, hl]

theorem Window.processed_live {v : Window} {hd : Held} {img : Image} {f : Option Nat} (hl : v.life = .live hd img f) :
    v.processed = if hd.staged.retirePending then if v.refs = 0 then .free else .retiring hd img f
      else .live hd hd.staged.image none := by
  rw [Window.processed, hl]

theorem Window.ext_fields {v v' : Window} (hl : v'.life = v.life) (hr : v'.refs = v.refs) : v' = v := by
  cases v
  cases v'
  exact congrArg₂ Window.mk hl hr

theorem processWindow_life (s : State) (w : WindowId) :
    ((processWindow w s).window w).life = (s.window w).processed := by
  rcases processWindow_cases s w with ⟨hd, hl, e⟩ | ⟨hd, img, f, hl, hp, e⟩ | ⟨hd, img, f, hl, hp, hr, e⟩ |
    ⟨hd, img, f, hl, hp, hr, e⟩ | ⟨hl, e⟩ <;> rw [e, Window.processed]
  · rw [hl, State.window_setWindow_self]
  · simp only [hl, hp, Bool.false_eq_true, if_false, State.window_setWindow_self]
  · simp only [hl, hp, hr, if_true, if_false, State.window_setWindow_self]
  · simp only [hl, hp, hr, if_true, freeWindow_window]
  · rcases hl with hl | ⟨hd, img, f, hl⟩ <;> rw [hl]

/-- R35: a window that an apply processes is RESERVED or LIVE, and its owner's. -/
theorem Window.owner_of_appliedFor {v : Window} {c : ClientId} {h : HeadId} (ha : v.life.appliedFor c h = true) :
    v.owner? = some c ∧ v.life.isRetiring = false := by
  obtain ⟨hd, rfl, -, hl | ⟨img, f, hl⟩⟩ := Life.appliedFor_iff.mp ha <;> rw [Window.owner?, hl] <;> exact ⟨rfl, rfl⟩

/-- R35: a window is of one client. -/
theorem Window.appliedFor_unique {v : Window} {c d : ClientId} {h : HeadId} (hc : v.life.appliedFor c h = true)
    (hd : v.life.appliedFor d h = true) : c = d :=
  Option.some.inj ((Window.owner_of_appliedFor hc).1.symm.trans (Window.owner_of_appliedFor hd).1)

theorem Window.appliedFor_of_processed {v : Window} {c : ClientId} {h : HeadId}
    (hc : v.processed.appliedFor c h = true) : v.life.appliedFor c h = true := by
  unfold Window.processed at hc
  split at hc
  · cases hc
  · next e => rw [e]; exact hc
  · next e =>
    rw [e]
    split at hc
    · split at hc <;> cases hc
    · exact hc
  · cases hc

section
variable (h : HeadId) (s : State)

/-- R35: an apply of a client processes each of its windows on the head. -/
theorem applyClient_life (c : ClientId) (w : WindowId) : ((applyClient h s c).window w).life =
    if (s.window w).life.appliedFor c h then (s.window w).processed else (s.window w).life := by
  have hfold : ∀ (ws : List WindowId) (u : State), ws.Nodup →
      ((ws.foldl (fun u v => if (u.window v).life.appliedFor c h then processWindow v u else u) u).window w).life =
        if w ∈ ws ∧ (u.window w).life.appliedFor c h then (u.window w).processed else (u.window w).life := by
    intro ws
    induction ws with
    | nil => exact fun u _ => (if_neg fun hw => nomatch hw.1).symm
    | cons v vs ih =>
      intro u hnd
      obtain ⟨hv, hvs⟩ := List.nodup_cons.mp hnd
      rw [List.foldl_cons, ih _ hvs]
      by_cases hvw : v = w
      · subst hvw
        rw [if_neg fun hw => hv hw.1]
        by_cases ha : (u.window v).life.appliedFor c h
        · rw [if_pos ha, processWindow_life, if_pos ⟨List.mem_cons_self .., ha⟩]
        · rw [if_neg ha, if_neg fun hw => ha hw.2]
      · have hsame : (if (u.window v).life.appliedFor c h then processWindow v u else u).window w = u.window w := by
          split
          · exact processWindow_window_of_ne u hvw
          · rfl
        rw [hsame]
        simp only [List.mem_cons, Ne.symm hvw, false_or]
  have hall := hfold allWindows s (List.nodup_finRange 48)
  rw [applyClient, hall]
  simp only [allWindows, List.mem_finRange, true_and]

/-- The life that an apply of some clients on a head leaves a window. -/
def appliedLife (cs : List ClientId) (v : Window) : Life :=
  if cs.any fun c => v.life.appliedFor c h then v.processed else v.life

theorem foldl_applyClient_life {cs : List ClientId} (hcs : cs.Nodup) (w : WindowId) :
    ((cs.foldl (applyClient h) s).window w).life = appliedLife h cs (s.window w) := by
  induction cs generalizing s with
  | nil => rfl
  | cons c cs ih =>
    obtain ⟨hc, hcs⟩ := List.nodup_cons.mp hcs
    rw [List.foldl_cons, ih _ hcs]
    have hlife := applyClient_life h s c w
    by_cases ha : (s.window w).life.appliedFor c h = true
    · rw [if_pos ha] at hlife
      have hothers : (cs.any fun d => ((applyClient h s c).window w).life.appliedFor d h) = false := by
        refine List.any_eq_false.mpr fun d hd hfor => hc ?_
        rw [hlife] at hfor
        rwa [Window.appliedFor_unique ha (Window.appliedFor_of_processed hfor)]
      rw [appliedLife, hothers, if_neg Bool.false_ne_true, appliedLife, List.any_cons, ha, Bool.true_or, if_pos rfl,
        hlife]
    · rw [if_neg ha] at hlife
      rw [Window.ext_fields hlife (applyClient_refs s h c w), appliedLife, appliedLife, List.any_cons,
        Bool.eq_false_iff.mpr ha, Bool.false_or]

/-- R38, R39: what follows the processing of the windows leaves them. -/
theorem applyClients_window (cs : List ClientId) (w : WindowId) :
    (applyClients h cs s).window w = (cs.foldl (applyClient h) s).window w := by
  unfold applyClients
  simp only []
  rw [foldl_keeps (fun u => u.window w) fun u c => setCommitted_window u h c w]
  split
  · exact rebuildDepthList_window _ h w
  · rfl

theorem applyQueue_window (w : WindowId) :
    (applyQueue h s).window w = ((s.head h).commitQueue.foldl (applyClient h) s).window w := by
  rw [applyQueue_eq, State.window_setHead, applyClients_window]

theorem applyQueue_life (hq : (s.head h).commitQueue.Nodup) (w : WindowId) :
    ((applyQueue h s).window w).life = appliedLife h (s.head h).commitQueue (s.window w) := by
  rw [applyQueue_window, foldl_applyClient_life h s hq]

theorem applyQueue_refs (w : WindowId) : ((applyQueue h s).window w).refs = (s.window w).refs := by
  rw [applyQueue_window]
  exact foldl_keeps (fun u => (u.window w).refs) (fun u c => applyClient_refs u h c w) _ s
end

/-! ### The Depth List (R38) -/

/-- R38: a Depth List is built from what its windows tell of their depth. -/
theorem builtDepthList_congr {h : HeadId} {s u : State}
    (hw : ∀ w, listedDepth h (u.window w) = listedDepth h (s.window w)) : builtDepthList h u = builtDepthList h s := by
  simp only [builtDepthList, hw]

theorem applyQueue_depthList {h : HeadId} {s : State} (hc : (s.head h).commitQueue.any (s.holdsOn · h) = true) :
    ((applyQueue h s).head h).depthList = builtDepthList h (applyQueue h s) := by
  have hlist : ((applyClients h (s.head h).commitQueue s).head h).depthList =
      builtDepthList h ((s.head h).commitQueue.foldl (applyClient h) s) := by
    unfold applyClients
    simp only [hc, if_true]
    rw [foldl_keeps (fun u => u.head h) fun u c => setCommitted_head u h h c, rebuildDepthList, State.head_setHead_self]
  rw [applyQueue_eq, State.head_setHead_self]
  exact hlist.trans (builtDepthList_congr fun w => by rw [State.window_setHead, applyClients_window])

/-! ### COMMITTED (R39) -/

/-- From `s` to `u` no client is opened, and one that is not CLOSED keeps COMMITTED as it was. -/
def CommittedKept (s u : State) : Prop := ∀ c, (u.client c).state ≠ .closed →
  (s.client c).state ≠ .closed ∧ (u.notice c).committed = (s.notice c).committed

section
variable {s u v : State}

theorem CommittedKept.trans (a : CommittedKept s u) (b : CommittedKept u v) : CommittedKept s v := fun c hc => by
  obtain ⟨hu, hcommitted⟩ := b c hc
  obtain ⟨hs, hcommitted'⟩ := a c hu
  exact ⟨hs, hcommitted.trans hcommitted'⟩

theorem CommittedKept.of_same (hc : ∀ c, u.client c = s.client c)
    (hn : ∀ c, (u.notice c).committed = (s.notice c).committed) : CommittedKept s u :=
  fun c hopen => ⟨hc c ▸ hopen, hn c⟩

theorem CommittedKept.refl (s : State) : CommittedKept s s := .of_same (fun _ => rfl) fun _ => rfl

theorem CommittedKept.foldl {α : Type} (f : State → α → State) (hf : ∀ s a, CommittedKept s (f s a)) (l : List α)
    (s : State) : CommittedKept s (l.foldl f s) := by
  induction l generalizing s with
  | nil => exact .refl s
  | cons a l ih => exact (hf s a).trans (ih (f s a))

theorem CommittedKept.of_sameTables (a : CommittedKept s u) (b : SameTables u v) : CommittedKept s v :=
  a.trans (.of_same b.client fun c => by rw [b.notice])
end

section
variable (s : State)

theorem setWindow_committedKept (w : WindowId) (v : Window) : CommittedKept s (s.setWindow w v) :=
  .of_same (fun _ => rfl) fun _ => rfl

/-- R144: a client that becomes CLOSED, and no other, loses its notices. -/
theorem dropHeld_committedKept (d : ClientId) : CommittedKept s (dropHeld d s) := by
  intro c hc
  by_cases hdc : d = c
  · subst hdc
    rcases dropHeld_cases s d with ⟨-, -, e⟩ | ⟨-, e⟩ <;> rw [e] at hc ⊢
    · rw [enterClosed_client, if_pos rfl] at hc
      exact absurd rfl hc
    · rw [State.client_setClient_self] at hc
      exact ⟨hc, rfl⟩
  · obtain ⟨hclient, hnotice, -⟩ := dropHeld_aside (s := s) hdc
    rw [hclient] at hc
    exact ⟨hc, by rw [hnotice]⟩

theorem notify_retired_committedKept (c : ClientId) (w : WindowId) : CommittedKept s (notify c (.retired w) s) :=
  .of_same (fun _ => rfl) fun x => by
    rw [notify_notice]
    split
    · next e => subst e; rfl
    · rfl

theorem freeWindow_committedKept (w : WindowId) : CommittedKept s (freeWindow w s) := by
  rcases freeWindow_cases s w with ⟨-, e⟩ | ⟨hd, -, e⟩ | ⟨hd, -, -, e⟩ <;> rw [e]
  · exact .refl s
  · exact (setWindow_committedKept s w _).trans (dropHeld_committedKept _ _)
  · exact (setWindow_committedKept s w _).trans
      ((notify_retired_committedKept _ _ _).trans (dropHeld_committedKept _ _))

theorem releaseRef_committedKept (w : WindowId) : CommittedKept s (releaseRef w s) := by
  rcases releaseRef_cases s w with ⟨-, -, e⟩ | ⟨-, e⟩ <;> rw [e]
  · exact (setWindow_committedKept s w _).trans (freeWindow_committedKept _ w)
  · exact setWindow_committedKept s w _

theorem releaseRefs_committedKept (ws : List WindowId) : CommittedKept s (releaseRefs ws s) :=
  .foldl _ (fun s w => releaseRef_committedKept s w) ws s

theorem processWindow_committedKept (w : WindowId) : CommittedKept s (processWindow w s) := by
  rcases processWindow_cases s w with ⟨_, -, e⟩ | ⟨_, _, _, -, -, e⟩ | ⟨_, _, _, -, -, -, e⟩ | ⟨_, _, _, -, -, -, e⟩ |
    ⟨-, e⟩ <;> rw [e]
  · exact setWindow_committedKept s w _
  · exact setWindow_committedKept s w _
  · exact setWindow_committedKept s w _
  · exact freeWindow_committedKept s w
  · exact .refl s

theorem applyClient_committedKept (h : HeadId) (c : ClientId) : CommittedKept s (applyClient h s c) :=
  .foldl _ (fun s w => by
    split
    · exact processWindow_committedKept s w
    · exact .refl s) allWindows s
end

section
variable (h : HeadId) (s : State)

@[simp] theorem setCommitted_client (c x : ClientId) : (setCommitted h s c).client x = s.client x := by
  unfold setCommitted; split <;> rfl

theorem setCommitted_notice_of_ne {c x : ClientId} (hne : c ≠ x) : (setCommitted h s c).notice x = s.notice x := by
  unfold setCommitted
  split
  · rfl
  · rw [notify_notice, if_neg hne]

/-- R39: each applied client that is not CLOSED is told once. -/
theorem foldl_setCommitted {cs : List ClientId} (hcs : cs.Nodup) {c : ClientId} (hc : c ∈ cs)
    (hopen : (s.client c).state ≠ .closed) : ((cs.foldl (setCommitted h) s).notice c).committed =
      some (((s.notice c).committed.getD ⟨false, false⟩).add h) := by
  have hothers : ∀ (ds : List ClientId) (u : State), c ∉ ds → (ds.foldl (setCommitted h) u).notice c = u.notice c := by
    intro ds
    induction ds with
    | nil => exact fun _ _ => rfl
    | cons d ds ih =>
      intro u hd
      rw [List.foldl_cons, ih _ fun hmem => hd (List.mem_cons_of_mem d hmem),
        setCommitted_notice_of_ne h u (Ne.symm (List.ne_of_not_mem_cons hd))]
  induction cs generalizing s with
  | nil => cases hc
  | cons d ds ih =>
    obtain ⟨hd, hds⟩ := List.nodup_cons.mp hcs
    rw [List.foldl_cons]
    by_cases hdc : d = c
    · subst hdc
      rw [hothers ds _ hd, setCommitted, if_neg hopen, notify_notice, if_pos rfl]
      rfl
    · have hmem : c ∈ ds := (List.mem_cons.mp hc).resolve_left (Ne.symm hdc)
      rw [ih _ hds hmem (by rwa [setCommitted_client]), setCommitted_notice_of_ne h s hdc]

/-- R39: COMMITTED is the last part of an apply, and the parts before it leave COMMITTED. -/
theorem applyClients_committed (cs : List ClientId) :
    ∃ w, CommittedKept s w ∧ applyClients h cs s = cs.foldl (setCommitted h) w := by
  have hprocessed : CommittedKept s (cs.foldl (applyClient h) s) :=
    .foldl _ (fun u c => applyClient_committedKept u h c) cs s
  refine ⟨_, hprocessed.trans ?_, rfl⟩
  split
  · exact .of_same (fun _ => rfl) fun _ => rfl
  · exact .refl _

theorem applyQueue_committed (hq : (s.head h).commitQueue.Nodup) {c : ClientId} (hc : c ∈ (s.head h).commitQueue)
    (hopen : ((applyQueue h s).client c).state ≠ .closed) : ((applyQueue h s).notice c).committed =
      some (((s.notice c).committed.getD ⟨false, false⟩).add h) := by
  obtain ⟨w, hkept, e⟩ := applyClients_committed h s (s.head h).commitQueue
  rw [applyQueue_eq, State.client_setHead, e,
    foldl_keeps (fun u => u.client c) fun u d => setCommitted_client h u d c] at hopen
  rw [applyQueue_eq, State.notice_setHead, e, foldl_setCommitted h w hq hc hopen, (hkept c hopen).2]
end

end Sys2Proof.Machine
end

section
/-! A line start that goes on by one line (R83), and the two orders of release and apply at a commit point (R17). -/

namespace Sys2Proof.Machine

/-! ### Release and apply in either order (R17) -/

/-- R38: neither RETIRING windows nor FREE ones are listed. -/
theorem RetiringFreed.listedDepth {s u : State} (a : RetiringFreed s u) {h : HeadId} (w : WindowId) :
    listedDepth h (u.window w) = listedDepth h (s.window w) := by
  have hlife : ∀ v : Window, Machine.listedDepth h v = Machine.listedDepth h ⟨v.life, 0⟩ := fun _ => rfl
  rw [hlife, hlife (s.window w)]
  refine a.read (fun l => Machine.listedDepth h ⟨l, 0⟩) (fun l hl => ?_) w
  cases l with
  | retiring hd img f => rfl
  | _ => cases hl

/-- What the releases of some references and the apply of a head's Commit Queue make of a state together, in either
order: a window that is not RETIRING has the life that the apply gives it with its last references. -/
structure AppliesReleasing (h : HeadId) (ws : List WindowId) (s u : State) : Prop where
  queue     : (u.head h).commitQueue = []
  refs      : ∀ w, (u.window w).refs = (s.window w).refs - ws.count w
  lives     : ∀ w, (s.window w).life.isRetiring = false → (u.window w).life =
    appliedLife h (s.head h).commitQueue ⟨(s.window w).life, (s.window w).refs - ws.count w⟩
  list      : (s.head h).commitQueue.any (s.holdsOn · h) = true → (u.head h).depthList = builtDepthList h u
  committed : ∀ c ∈ (s.head h).commitQueue, (u.client c).state ≠ .closed →
    (u.notice c).committed = some (((s.notice c).committed.getD ⟨false, false⟩).add h)

section
variable {h : HeadId} {ws : List WindowId} {s v u : State}

/-- R17: the release first. A client of the queue that still holds a window has not left it. -/
theorem appliesReleasing_releaseFirst (hheld : HeldLaw s) (hnd : (s.head h).commitQueue.Nodup)
    (hv : SameTables (releaseRefs ws s) v)
    (hq : (v.head h).commitQueue = queueLeft s v h) : AppliesReleasing h ws s (applyQueue h v) := by
  have hvheld : HeldLaw v := (hheld.releaseRefs ws).of_owners hv.client fun w => by rw [hv.window]
  have hlife : ∀ w, (s.window w).life.isRetiring = false → (v.window w).life = (s.window w).life := fun w hw => by
    rw [hv.window]
    exact releaseRefs_life s ws w hw
  have hrefs : ∀ w, (v.window w).refs = (s.window w).refs - ws.count w := fun w => by
    rw [hv.window]
    exact releaseRefs_refs s ws w
  have hnd' : (v.head h).commitQueue.Nodup := hq ▸ hnd.filter _
  have hstays : ∀ c ∈ (s.head h).commitQueue, (v.client c).state ≠ .closed → c ∈ (v.head h).commitQueue :=
    fun c hc hopen => by
      rw [hq]
      exact List.mem_filter.mpr ⟨hc, decide_eq_true fun hcl => hopen hcl.2⟩
  have hwas : ∀ c ∈ (v.head h).commitQueue, c ∈ (s.head h).commitQueue := fun c hc => by
    rw [hq] at hc
    exact List.mem_of_mem_filter hc
  have happlied : ∀ w c, c ∈ (s.head h).commitQueue → (s.window w).life.appliedFor c h = true →
      (v.window w).life.appliedFor c h = true ∧ c ∈ (v.head h).commitQueue := fun w c hc ha => by
    obtain ⟨ho, hr⟩ := Window.owner_of_appliedFor ha
    have hsame := hlife w hr
    rw [Window.owner?, ← hsame] at ho
    exact ⟨hsame ▸ ha, hstays c hc (hvheld.not_closed ho)⟩
  refine ⟨applyQueue_queue v h, fun w => (applyQueue_refs h v w).trans (hrefs w), fun w hw => ?_, fun hany => ?_,
    fun c hc hopen => ?_⟩
  · have hwindow : v.window w = ⟨(s.window w).life, (s.window w).refs - ws.count w⟩ :=
      Window.ext_fields (hlife w hw) (hrefs w)
    have hqueues : ((v.head h).commitQueue.any fun c => (s.window w).life.appliedFor c h) =
        (s.head h).commitQueue.any fun c => (s.window w).life.appliedFor c h := by
      rw [Bool.eq_iff_iff, List.any_eq_true, List.any_eq_true]
      exact ⟨fun ⟨c, hc, ha⟩ => ⟨c, hwas c hc, ha⟩, fun ⟨c, hc, ha⟩ => ⟨c, (happlied w c hc ha).2, ha⟩⟩
    rw [applyQueue_life h v hnd', hwindow, appliedLife, appliedLife, hqueues]
  · refine applyQueue_depthList (List.any_eq_true.mpr ?_)
    obtain ⟨c, hc, hholds⟩ := List.any_eq_true.mp hany
    obtain ⟨w, hw, ha⟩ := List.any_eq_true.mp hholds
    obtain ⟨ha', hc'⟩ := happlied w c hc ha
    exact ⟨c, hc', List.any_eq_true.mpr ⟨w, hw, ha'⟩⟩
  · have hvopen : (v.client c).state ≠ .closed := fun hclosed => by
      rcases (applyQueue_part h v).states c with e | ⟨hclosing, -⟩
      · exact hopen (e.trans hclosed)
      · rw [hclosed] at hclosing; cases hclosing
    obtain ⟨-, hkept⟩ := ((releaseRefs_committedKept s ws).of_sameTables hv) c hvopen
    rw [applyQueue_committed h v hnd' (hstays c hc hvopen) hopen, hkept]

/-- R36, R13: an apply with the references as they stand, and then their release, is the apply with the references
left. -/
theorem releaseRefs_appliedLife {w : WindowId} (hw : (s.window w).life.isRetiring = false)
    (hl : (v.window w).life = appliedLife h (s.head h).commitQueue (s.window w))
    (hr : (v.window w).refs = (s.window w).refs) : ((releaseRefs ws v).window w).life =
      appliedLife h (s.head h).commitQueue ⟨(s.window w).life, (s.window w).refs - ws.count w⟩ := by
  by_cases ha : ((s.head h).commitQueue.any fun c => (s.window w).life.appliedFor c h) = true
  · rw [appliedLife, if_pos ha] at hl
    rw [appliedLife, if_pos ha]
    have hkeep : ∀ l, (s.window w).processed = l → l.isRetiring = false → ((releaseRefs ws v).window w).life = l :=
      fun l e hnot => by rw [releaseRefs_life _ _ _ (by rw [hl, e]; exact hnot), hl, e]
    obtain ⟨c, -, hc⟩ := List.any_eq_true.mp ha
    obtain ⟨hd, -, -, hlife | ⟨img, f, hlife⟩⟩ := Life.appliedFor_iff.mp hc
    · rw [Window.processed_reserved (v := ⟨(s.window w).life, (s.window w).refs - ws.count w⟩) hlife]
      exact hkeep _ (Window.processed_reserved hlife) rfl
    · have hbefore := Window.processed_live hlife
      rw [Window.processed_live (v := ⟨(s.window w).life, (s.window w).refs - ws.count w⟩) hlife]
      cases hp : hd.staged.retirePending with
      | false =>
        rw [hp, if_neg Bool.false_ne_true] at hbefore
        exact hkeep _ hbefore rfl
      | true =>
        rw [hp, if_pos rfl] at hbefore
        rw [if_pos rfl]
        by_cases h0 : (s.window w).refs = 0
        · rw [if_pos h0] at hbefore
          rw [h0, Nat.zero_sub, if_pos rfl]
          exact hkeep _ hbefore rfl
        · rw [hbefore, if_neg h0] at hl
          rw [releaseRefs_life_of_retiring (by rw [hl]; rfl) (by omega), hl, hr]
          simp only [Nat.sub_eq_zero_iff_le]
  · rw [appliedLife, if_neg ha] at hl
    rw [appliedLife, if_neg ha, releaseRefs_life _ _ _ (by rwa [hl]), hl]

/-- R17: the apply first. -/
theorem appliesReleasing_applyFirst (hnd : (s.head h).commitQueue.Nodup)
    (hu : SameTables (releaseRefs ws (applyQueue h s)) u) (hq : (u.head h).commitQueue = queueLeft (applyQueue h s) u h)
    (hlist : (u.head h).depthList = ((applyQueue h s).head h).depthList) : AppliesReleasing h ws s u := by
  have hfreed : RetiringFreed (applyQueue h s) u := (releaseRefs_retiringFreed ws _).of_sameTables hu
  refine ⟨?_, fun w => ?_, fun w hw => ?_, fun hany => ?_, fun c hc hopen => ?_⟩
  · rw [hq, queueLeft, applyQueue_queue, List.filter_nil]
  · rw [hu.window, releaseRefs_refs, applyQueue_refs]
  · rw [hu.window]
    exact releaseRefs_appliedLife hw (applyQueue_life h s hnd w) (applyQueue_refs h s w)
  · rw [hlist, applyQueue_depthList hany]
    exact (builtDepthList_congr hfreed.listedDepth).symm
  · obtain ⟨hopen', hkept⟩ := ((releaseRefs_committedKept _ ws).of_sameTables hu) c hopen
    rw [hkept, applyQueue_committed h s hnd hc hopen']
end

end Sys2Proof.Machine
end

section
/-! A line start that takes its line by the counter's advance or by a natural wrap (R83). -/

namespace Sys2Proof.Machine

/-! ### The kind of such a line start -/

section
variable {hd : Head} {t : TimingSet}

/-- R50, R73: the line that begins. -/
theorem lineKind_advance (hp : hd.startPending = false) (hn : hd.pendingWrap = false ∨ hd.line + 1 = t.frameTotal) :
    (lineKind hd t).line = (if hd.line + 1 = t.frameTotal then 0 else hd.line + 1) ∧
      (lineKind hd t).corrected = false := by
  rcases hn with hn | hn
  · simp [lineKind, hp, hn]
  · simp [lineKind, hp, hn]

/-- R71, R76: a head that does not lose its lock is SEEKING after a line start when it was and no wrap was pending. -/
theorem stateAfter_seeking_iff (hp : hd.startPending = false) (hl : losesLock hd (lineKind hd t) = false) :
    stateAfter hd (lineKind hd t) = .seeking ↔ hd.state = .seeking ∧ hd.pendingWrap = false := by
  have hlocks : (lineKind hd t).locks = (hd.state == .seeking && hd.pendingWrap) := by simp only [lineKind, hp]; rfl
  have hjudged : (lineKind hd t).judged = true → hd.state ≠ .seeking := fun hj hs => by
    simp [lineKind, hp, hs, HeadState.judged] at hj
  unfold stateAfter
  rw [hlocks, hl, if_neg Bool.false_ne_true]
  by_cases hs : hd.state = .seeking
  · cases hw : hd.pendingWrap with
    | true => simp [hs]
    | false => simp [hs, Bool.eq_false_iff.mpr (mt hjudged (not_not.mpr hs))]
  · simp only [hs, false_and, iff_false, Bool.and_eq_true, beq_iff_eq, if_false]
    split
    · split <;> exact nofun
    · exact hs
end

/-- R47: with a valid timing set the line two after the commit line is not active. -/
theorem isActive_after_commitLine {t : TimingSet} (hv : t.valid = true) :
    t.isActive ((t.commitLine + 2) % t.frameTotal) = false := by
  simp only [TimingSet.valid, TimingSet.isQuiet, Bool.and_eq_true, Bool.not_eq_true', Bool.or_eq_false_iff,
    Bool.and_eq_false_iff, decide_eq_true_eq, decide_eq_false_iff_not] at hv
  obtain ⟨⟨⟨⟨⟨⟨⟨-, hfits⟩, hcommit⟩, hinactive⟩, hlead⟩, hfirst⟩, -⟩, -, hband⟩ := hv
  have hroom : t.commitLine + 2 ≤ t.frameTotal := by omega
  rw [Bool.eq_false_iff, ne_eq, TimingSet.isActive_iff] at hinactive ⊢
  have hahead : t.commitLine ≤ t.activeFirstLine → t.commitLine + 3 ≤ t.activeFirstLine := fun hle => by
    have hmod : t.activeFirstLine + t.frameTotal - t.commitLine = t.activeFirstLine - t.commitLine + t.frameTotal := by
      omega
    rw [hmod, Nat.add_mod_right] at hlead
    have := Nat.mod_le (t.activeFirstLine - t.commitLine) t.frameTotal
    omega
  rcases Nat.lt_or_eq_of_le hroom with hlt | heq
  · rw [Nat.mod_eq_of_lt hlt]
    omega
  · rw [heq, Nat.mod_self]
    omega

/-! ### Its beginning, its work and its end -/

/-- A line start up to its work, with the rest of what it leaves: cursor, Depth List, Commit Queue, and the notices
that its work may set. -/
structure BeginsWork (h : HeadId) (t : TimingSet) (s b : State) : Prop extends BeginsLine h t s b where
  cursor    : (b.head h).cursor = (s.head h).cursor
  list      : (b.head h).depthList = (s.head h).depthList
  queue     : (b.head h).commitQueue = (s.head h).commitQueue
  dropped   : ∀ c, (b.notice c).layerDropped = (s.notice c).layerDropped
  committed : ∀ c, (b.notice c).committed = (s.notice c).committed

/-- A line start from its work to its end: only tags and TAG_ABANDONED change. -/
structure EndsWork (h : HeadId) (v u : State) : Prop where
  same      : SameForReleases v u
  head      : u.head h = v.head h
  dropped   : ∀ c, (u.notice c).layerDropped = (v.notice c).layerDropped
  committed : ∀ c, (u.notice c).committed = (v.notice c).committed

section
variable (h : HeadId) (s : State) {t : TimingSet}

/-- R71, R77: of the notices, the kinds that are not of the follow record. -/
theorem followNotices_kind {β : Type} (kind : NoticeRecord → β)
    (hlocked : ∀ r, kind (NoticeRecord.set r (.followLocked h)) = kind r)
    (hlost : ∀ r, kind (NoticeRecord.set r (.followLost h)) = kind r) (k : LineKind) (lost : Bool) (c : ClientId) :
    kind ((followNotices h k lost s).notice c) = kind (s.notice c) := by
  have hnotify : ∀ (n : Notice) (u : State), (∀ r, kind (NoticeRecord.set r n) = kind r) →
      kind ((notify 0 n u).notice c) = kind (u.notice c) := fun n u hn => by
    rw [notify_notice]
    split
    · next e => subst e; exact hn _
    · rfl
  unfold followNotices
  split <;> split <;> simp only [hnotify _ _ hlocked, hnotify _ _ hlost]

theorem lineBegun_beginsWork (sh : Option Showing) :
    BeginsWork h t s (lineBegun h t (s.setHead h { s.head h with showing := sh })) := by
  have hhead : (lineBegun h t (s.setHead h { s.head h with showing := sh })).head h = _ := lineBegun_head h _
  rw [State.head_setHead_self] at hhead
  refine
    { toBeginsLine := lineBegun_begins h s sh, cursor := by rw [hhead]; rfl, list := by rw [hhead]; rfl
      queue := by rw [hhead]; rfl, dropped := fun c => ?_, committed := fun c => ?_ }
  · exact followNotices_kind h _ NoticeRecord.layerDropped (fun _ => rfl) (fun _ => rfl) _ _ c
  · exact followNotices_kind h _ NoticeRecord.committed (fun _ => rfl) (fun _ => rfl) _ _ c

theorem lineFinished_endsWork (draws : Nat) : EndsWork h s (lineFinished h false { s with raceDraws := draws }) where
  same := (raceDraws_sameTables s draws).sameForReleases.trans (lineFinished_sameForReleases h _ _)
  head := lineFinished_head h _ false h
  dropped := ageTags_kind h _ NoticeRecord.layerDropped fun _ _ => rfl
  committed := ageTags_kind h _ NoticeRecord.committed fun _ _ => rfl

/-- R83: a line start that is no first one, no corrected wrap and no loss of lock releases one slot. -/
theorem resolverStep_advance {ended : Nat} {kd : LineKind} {k : SlotNo} (hc : kd.corrected = false)
    (hk : slotOfLine (s.head h) ended = some k) :
    resolverStep h t false ended kd false s = advanceSlot h k ((kd.line + 2) % t.frameTotal) s := by
  rw [resolverStep, if_neg Bool.false_ne_true, hc, Bool.or_self, if_neg Bool.false_ne_true, releaseAndResolve, hk]
  rfl

/-- R17: the work of such a line start, the release first or the apply first. -/
def AdvanceWork (h : HeadId) (t : TimingSet) (kd : LineKind) (k : SlotNo) (n : Nat) (b v : State) : Prop :=
  v = commitStep h t kd (advanceSlot h k n b) ∨ v = advanceSlot h k n (commitStep h t kd b)

theorem lineWork_advance (releaseFirst : Bool) {ended : Nat} {kd : LineKind} {k : SlotNo} (hc : kd.corrected = false)
    (hk : slotOfLine (s.head h) ended = some k) :
    AdvanceWork h t kd k ((kd.line + 2) % t.frameTotal) s (lineWork releaseFirst h t false ended kd false s) := by
  cases releaseFirst with
  | true =>
    left
    rw [← resolverStep_advance h s hc hk]
    rfl
  | false =>
    right
    have hslots : slotOfLine ((commitStep h t kd s).head h) ended = some k := by
      obtain ⟨q, l, e⟩ := commitStep_head h s t kd
      rw [e]
      exact hk
    rw [← resolverStep_advance h _ hc hslots]
    rfl

/-- 3.2.1, R83: the line start, whole. -/
theorem endLine_advance (ht : (s.head h).timing = some t) (hp : (s.head h).startPending = false)
    (hc : (lineKind (s.head h) t).corrected = false) (hl : losesLock (s.head h) (lineKind (s.head h) t) = false)
    {k : SlotNo} (hk : slotOfLine (s.head h) (s.head h).line = some k) :
    ∃ b v, BeginsWork h t s b ∧
      AdvanceWork h t (lineKind (s.head h) t) k (((lineKind (s.head h) t).line + 2) % t.frameTotal) b v ∧
      EndsWork h v (endLine h s) := by
  obtain ⟨sh, e⟩ := endLine_eq h s
  have hhead : (s.setHead h { s.head h with showing := sh }).head h = { s.head h with showing := sh } :=
    State.head_setHead_self ..
  obtain ⟨releaseFirst, draws, f⟩ := takeLineStart_stages h (s.setHead h { s.head h with showing := sh }) (t := t)
    (by rw [hhead]; exact ht)
  have hb := lineBegun_beginsWork h s (t := t) sh
  have hslot : slotOfLine ((lineBegun h t (s.setHead h { s.head h with showing := sh })).head h) (s.head h).line =
      some k := by
    rw [slotOfLine, hb.slots]
    exact hk
  have hlost : losesLock { s.head h with showing := sh } (lineKind { s.head h with showing := sh } t) = false := hl
  have hstart : ({ s.head h with showing := sh } : Head).startPending = false := hp
  rw [hhead, hlost, hstart] at f
  rw [e, f]
  exact ⟨_, _, hb, lineWork_advance h _ releaseFirst hc hslot, lineFinished_endsWork h _ draws⟩
end

section
variable {h : HeadId} {t : TimingSet} {kd : LineKind} {k : SlotNo} {n : Nat} {b v : State}

/-- R17: in either order the slots and the cursor are those of a slot that goes on in a state with the same head, but
for the Commit Queue and the Depth List. -/
theorem AdvanceWork.head (a : AdvanceWork h t kd k n b v) : ∃ w q l q' l',
    w.head h = { b.head h with commitQueue := q, depthList := l } ∧
      v.head h = { (advanceSlot h k n w).head h with commitQueue := q', depthList := l' } := by
  rcases a with rfl | rfl
  · obtain ⟨q, l, e⟩ := commitStep_head h (advanceSlot h k n b) t kd
    exact ⟨b, _, _, q, l, rfl, e⟩
  · obtain ⟨q, l, e⟩ := commitStep_head h b t kd
    exact ⟨_, q, l, _, _, e, rfl⟩

/-- Away from the commit line there is one order. -/
theorem AdvanceWork.eq_advanceSlot (a : AdvanceWork h t kd k n b v) (hk : kd.line ≠ t.commitLine) :
    v = advanceSlot h k n b := by
  rcases a with rfl | rfl <;> rw [commitStep_of_ne h _ hk]

theorem advanceSlot_queue : ((advanceSlot h k n b).head h).commitQueue = queueLeft b (advanceSlot h k n b) h :=
  ((emptySlot_quiet lineBlank h b k).trans (resolveInto_quiet h _ k n)).queue

theorem advanceSlot_list : ((advanceSlot h k n b).head h).depthList = (b.head h).depthList :=
  ((emptySlot_quiet lineBlank h b k).trans (resolveInto_quiet h _ k n)).list

/-- R35, R52, R17: at the commit line, with a line two ahead that shows no window. -/
theorem AdvanceWork.appliesReleasing (a : AdvanceWork h t kd k n b v) (hk : kd.line = t.commitLine)
    (ht : (b.head h).timing = some t) (hn : t.isActive n = false) (hheld : HeldLaw b)
    (hnd : (b.head h).commitQueue.Nodup) : AppliesReleasing h (b.head h).slots[k].references b v := by
  have happly : ∀ s, commitStep h t kd s = applyQueue h s := fun s => by rw [commitStep, if_pos hk]
  rcases a with rfl | rfl <;> rw [happly]
  · obtain ⟨-, -, htables⟩ := advanceSlot_blank h k n b ht (.inl hn)
    exact appliesReleasing_releaseFirst hheld hnd htables advanceSlot_queue
  · obtain ⟨l, e⟩ := applyQueue_head h b
    obtain ⟨-, -, htables⟩ := advanceSlot_blank h k n (applyQueue h b) (t := t) (by rw [e]; exact ht) (.inl hn)
    rw [e] at htables
    exact appliesReleasing_applyFirst hnd htables advanceSlot_queue advanceSlot_list
end

/-- What release and apply make of a state may be said of the states before and after them. -/
theorem AppliesReleasing.congr {h : HeadId} {t : TimingSet} {ws : List WindowId} {s b v u : State}
    (a : AppliesReleasing h ws b v) (hb : BeginsWork h t s b) (hu : EndsWork h v u) : AppliesReleasing h ws s u := by
  have hholds : ∀ c, b.holdsOn c h = s.holdsOn c h := fun c => by simp only [State.holdsOn, hb.same.window]
  refine ⟨by rw [hu.head]; exact a.queue, fun w => ?_, fun w hw => ?_, fun hany => ?_, fun c hc hopen => ?_⟩
  · rw [hu.same.window, a.refs, hb.same.window]
  · have hlife := a.lives w (by rwa [hb.same.window])
    rw [hb.queue, hb.same.window] at hlife
    rw [hu.same.window, hlife]
  · rw [hu.head, a.list (by simpa only [hb.queue, hholds] using hany)]
    exact (builtDepthList_congr fun w => by rw [hu.same.window]).symm
  · rw [hu.same.client] at hopen
    rw [hu.committed, a.committed c (by rwa [hb.queue]) hopen, hb.committed]

section
variable {h : HeadId} {ws : List WindowId} {s u : State} (a : AppliesReleasing h ws s u)
include a

/-- R36, R37: the windows of a queued client. -/
theorem AppliesReleasing.queued {w : WindowId} {hd : Held} (hq : hd.owner ∈ (s.head h).commitQueue) (hh : hd.head = h) :
    ((s.window w).life = .reserved hd → (u.window w).life = .live hd hd.staged.image none) ∧
      ∀ img fault, (s.window w).life = .live hd img fault →
        (hd.staged.retirePending = false → (u.window w).life = .live hd hd.staged.image none) ∧
        (hd.staged.retirePending = true → (u.window w).life =
          if (s.window w).refs - ws.count w = 0 then .free else .retiring hd img fault) := by
  have hlife : (s.window w).life = .reserved hd ∨ (∃ img f, (s.window w).life = .live hd img f) →
      (u.window w).life = Window.processed ⟨(s.window w).life, (s.window w).refs - ws.count w⟩ := fun hl => by
    have hfor : (s.window w).life.appliedFor hd.owner h = true := Life.appliedFor_iff.mpr ⟨hd, rfl, hh, hl⟩
    rw [a.lives w (Window.owner_of_appliedFor hfor).2, appliedLife, if_pos (List.any_eq_true.mpr ⟨_, hq, hfor⟩)]
  refine ⟨fun hl => ?_, fun img f hl => ?_⟩
  · rw [hlife (.inl hl), hl]
    rfl
  · rw [hlife (.inr ⟨img, f, hl⟩), hl, Window.processed_live rfl]
    exact ⟨fun hp => by rw [hp, if_neg Bool.false_ne_true], fun hp => by rw [hp, if_pos rfl]⟩

/-- The windows of no queued client. -/
theorem AppliesReleasing.others {w : WindowId} (hw : (s.window w).life.isRetiring = false)
    (hq : ∀ hd, (s.window w).life.held? = some hd → hd.owner ∉ (s.head h).commitQueue ∨ hd.head ≠ h) :
    (u.window w).life = (s.window w).life := by
  have hnone : ((s.head h).commitQueue.any fun c => (s.window w).life.appliedFor c h) = false := by
    refine List.any_eq_false.mpr fun c hc hfor => ?_
    obtain ⟨hd, rfl, hh, hl⟩ := Life.appliedFor_iff.mp hfor
    have hheld : (s.window w).life.held? = some hd := by
      rcases hl with hl | ⟨img, f, hl⟩ <;> rw [hl] <;> rfl
    exact (hq hd hheld).elim (fun hnot => hnot hc) fun hne => hne hh
  rw [a.lives w hw, appliedLife, hnone, if_neg Bool.false_ne_true]
end

/-- The release of the line that ended and the resolution two ahead, away from the commit line (R83, R85, R13). -/
theorem endsWork_advanceSlot {h : HeadId} {t : TimingSet} {k : SlotNo} {n : Nat} {s b u : State}
    (hb : BeginsWork h t s b) (hu : EndsWork h (advanceSlot h k n b) u) (ht : (s.head h).timing = some t) :
    (t.isActive n = true → (u.head h).state ≠ .seeking →
      ∀ r, r = resolveLine (n - t.activeFirstLine) t.activeWidth
        (coversOf (n - t.activeFirstLine) t.activeWidth h s) →
      (u.head h).slots[k] = .active
        { phase := if pendingWindows r.spans = [] then .complete else .fetching
          line := n, spans := r.spans, budget := r.budget } ∧
      (∀ p, (u.head h).cursor[k] = some p ↔ FirstPending r.spans (fun _ _ => True) p) ∧
      ∀ c, (s.client c).state = .opened → (u.notice c).layerDropped =
        keepFirst (s.notice c).layerDropped (r.drops.find? (fun w => (s.window w).owner? = some c))) ∧
    FreesReleased s u (s.head h).slots[k].references ∧
    ∀ w, (u.window w).refs = (s.window w).refs - (s.head h).slots[k].references.count w
      + (u.head h).slots[k].references.count w := by
  have hbt : (b.head h).timing = some t := hb.timing.trans ht
  have hcovers : ∀ row width, coversOf row width h b = coversOf row width h s := fun row width => by
    simp only [coversOf, hb.list, hb.same.window]
  have hstate : (u.head h).state = (b.head h).state := by
    obtain ⟨x, p, q, e⟩ := advanceSlot_head_self h k n b
    rw [hu.head, e]
  refine ⟨fun hn hs r hr => ?_, ?_, fun w => ?_⟩
  · obtain ⟨hslot, hcursor, hnotice⟩ := advanceSlot_active h k n b hbt hn (hstate ▸ hs) (r := r) (by rwa [hcovers])
    refine ⟨by rw [hu.head, hslot], fun p => by rw [hu.head, hcursor, nextPending_walkStart], fun c hc => ?_⟩
    have hbc : (b.client c).state ≠ .closing := by rw [hb.same.client, hc]; decide
    have hkinds := congrArg NoticeRecord.layerDropped ((emptySlot_quiet (fun _ r => r) h b k).kinds c hbc)
    have hquiet : ((emptySlot h k b).notice c).layerDropped = (b.notice c).layerDropped := hkinds
    rw [hu.dropped, hnotice, hquiet, hb.dropped]
    simp only [hb.same.window]
  · have hback : SameForReleases b s :=
      ⟨hb.same.windows.symm, hb.same.clients.symm, fun c => (hb.same.retired c).symm,
        fun c h0 => (hb.same.tenants c h0).symm⟩
    have hfrees := (advanceSlot_freesReleased h k n b).congr hback hu.same
    rwa [hb.slots] at hfrees
  · rw [hu.same.window, advanceSlot_refs h k n b hbt, hb.same.window, hb.slots, hu.head]

/-- Settles O31: the slot of the line that ended goes on two lines; away from the commit line that is all of the line
start's work, and at the commit line `AppliesReleasing` says in either order what release and apply do together. -/
theorem lineStartResolvesTwoAhead : Obligations.LineStartResolvesTwoAhead := by
  intro s h ts k begun n hend hnatural hloss hk hbegun hn
  have hdue := hend
  obtain ⟨ht, hrun, hp, hpixel⟩ := hend
  obtain ⟨hline, hcorrected⟩ := lineKind_advance (t := ts) hp hnatural
  rw [← hbegun] at hline
  have hlost : losesLock (s.head h) (lineKind (s.head h) ts) = false := by
    simpa only [Head.lossDue, Head.lineStartDue, ht, HeadState.running_iff.mpr hrun, hpixel, beq_self_eq_true,
      Bool.or_true, Bool.true_and] using hloss
  obtain ⟨b, v, hb, hwork, hu⟩ := endLine_advance h s ht hp hcorrected hlost hk
  rw [hline, ← hn] at hwork
  obtain ⟨hstate, -⟩ := Head.fields_of_counters (endLine_counters h s ht)
  obtain ⟨w, q, l, q', l', hw, hv⟩ := hwork.head
  have hwt : (w.head h).timing = some ts := by rw [hw]; exact hb.timing.trans ht
  have hwstate : (w.head h).state = ((endLine h s).head h).state := by rw [hw, hstate]; exact hb.state
  have hslots : (w.head h).slots = (s.head h).slots := by rw [hw]; exact hb.slots
  have hcursor : (w.head h).cursor = (s.head h).cursor := by rw [hw]; exact hb.cursor
  refine ⟨endLine h s, exec_lineStart ht hrun (.inr hdue), ?_, fun j hj => ?_, fun hblank => ?_, fun hne => ?_, ?_,
    fun hcommit hvalid hheld hqueue => ?_⟩
  · rw [hu.head, hv]
    exact advanceSlot_line h k n w hwt
  · obtain ⟨hslot, hcur⟩ := advanceSlot_of_ne h k n w hj
    rw [hslots] at hslot
    rw [hcursor] at hcur
    rw [hu.head, hv]
    exact ⟨hslot, hcur⟩
  · obtain ⟨hslot, hcur, -⟩ := advanceSlot_blank h k n w hwt (hwstate ▸ hblank)
    rw [hu.head, hv]
    exact ⟨hslot, hcur⟩
  · have hnot : (lineKind (s.head h) ts).line ≠ ts.commitLine := hline ▸ hne
    rw [hwork.eq_advanceSlot hnot] at hu
    obtain ⟨hactive, hfrees, hrefs⟩ := endsWork_advanceSlot hb hu ht
    exact ⟨hactive, (endLine_quiet h s ht hnot).kept, hfrees, hrefs⟩
  · rw [hstate]
    exact stateAfter_seeking_iff hp hlost
  · have hinactive : ts.isActive n = false := by rw [hn, hcommit]; exact isActive_after_commitLine hvalid
    have hbheld : HeldLaw b := hheld.of_owners hb.same.client fun w => by rw [hb.same.window]
    have hbnd : (b.head h).commitQueue.Nodup := by rw [hb.queue]; exact (hqueue h).1
    have hboth := hwork.appliesReleasing (hline.trans hcommit) (hb.timing.trans ht) hinactive hbheld hbnd
    have happlies := hboth.congr hb hu
    rw [hb.slots] at happlies
    exact ⟨happlies.queue, happlies.refs, fun w hd hq hh => happlies.queued hq hh, fun w => happlies.others,
      fun ⟨c, hc, hholds⟩ => happlies.list (List.any_eq_true.mpr ⟨c, hc, hholds⟩), happlies.committed⟩

end Sys2Proof.Machine
end

section
/-! The requests of the Memory Request Port (06): pieces, the next request of a head, the Port Arbiter and the issue. -/

namespace Sys2Proof.Machine

/-! ### Pieces and the walk (R102, R103) -/

/-- R103: a piece is not empty, stays in its block and its segment, and ends at the end of one of them. -/
theorem pieceBytes_spec {first len o : Nat} (ho : o < len) :
    1 ≤ pieceBytes first len o ∧ pieceBytes first len o ≤ 256 ∧ o + pieceBytes first len o ≤ len ∧
      (first + o) / 256 = (first + o + pieceBytes first len o - 1) / 256 ∧
      (o + pieceBytes first len o < len → (first + o + pieceBytes first len o) % 256 = 0) := by
  unfold pieceBytes blockBytes
  omega

/-- R102: not before the next layer of a span is behind the layer. -/
theorem notBefore_next (i j o : Nat) : NotBefore { span := i, layer := j + 1, offset := o } = WalkBefore i j := by
  funext x y
  simp only [NotBefore, WalkBefore, eq_iff_iff]
  omega

section
variable {h : HeadId} {k : SlotNo} {a : ActiveLine} {p : Pos}

/-- R102, R103: the request at a PENDING segment. -/
theorem requestAt_of_pending {sp : Span} {l : Layer} (hsp : a.spans[p.span]? = some sp)
    (hl : sp.layers[p.layer]? = some l) (hp : l.status = .pending) :
    requestAt h k a p = some
      { head := h, slot := k, pos := p, line := a.line, window := l.window, address := l.firstByte + p.offset
        byteCount := pieceBytes l.firstByte (segmentLength sp l) p.offset
        after := if p.offset + pieceBytes l.firstByte (segmentLength sp l) p.offset < segmentLength sp l then
            some { p with offset := p.offset + pieceBytes l.firstByte (segmentLength sp l) p.offset }
          else nextPending a.spans { span := p.span, layer := p.layer + 1, offset := 0 } } := by
  simp only [requestAt, hsp, hl, hp, if_true]

theorem requestAt_of_not_pending (hp : ¬ PendingAt a.spans p.span p.layer) : requestAt h k a p = none := by
  cases hsp : a.spans[p.span]? with
  | none => simp only [requestAt, hsp]
  | some sp =>
    cases hl : sp.layers[p.layer]? with
    | none => simp only [requestAt, hsp, hl]
    | some l =>
      have hne : l.status ≠ .pending := fun e => hp ⟨l, by simp only [layerAt, hsp, hl], e⟩
      simp only [requestAt, hsp, hl, if_neg hne]

/-- R106: a request carries its head. -/
theorem requestAt_head {r : Request} (hr : requestAt h k a p = some r) : r.head = h := by
  by_cases hp : PendingAt a.spans p.span p.layer
  · obtain ⟨l, hl, hpending⟩ := hp
    unfold layerAt at hl
    split at hl
    · next sp hsp =>
      rw [requestAt_of_pending hsp hl hpending] at hr
      obtain rfl := Option.some.inj hr
      rfl
    · cases hl
  · rw [requestAt_of_not_pending hp] at hr
    cases hr
end

/-- Settles O40: the size of a piece is arithmetic, and what follows its segment is `nextPending`'s first segment. -/
theorem pieceStaysInItsBlock : Obligations.PieceStaysInItsBlock := by
  refine ⟨fun first len o ho => pieceBytes_spec ho, fun h k a p sp l hsp hl hp => ?_, fun h k a p hno => ?_⟩
  · refine ⟨_, requestAt_of_pending hsp hl hp, rfl, rfl, rfl, rfl, fun hmore => if_pos hmore, fun hlast q => ?_⟩
    dsimp only at hlast ⊢
    rw [if_neg (Nat.not_lt.mpr hlast), nextPending_eq_some_iff rfl, notBefore_next]
  · exact requestAt_of_not_pending fun ⟨l, hl, hp⟩ => hno l hl hp

/-! ### The next request of a head (R102) -/

/-- The first of the numbers below `n` for which there is something. -/
theorem findSome?_finRange {β : Type} {n : Nat} {f : Fin n → Option β} {b : β} {d : Fin n} (hd : f d = some b)
    (hbefore : ∀ e, e < d → f e = none) : (List.finRange n).findSome? f = some b := by
  induction n with
  | zero => exact d.elim0
  | succ n ih =>
    rw [List.finRange_succ, List.findSome?_cons, List.findSome?_map]
    cases d using Fin.cases with
    | zero => rw [hd]
    | succ d =>
      rw [hbefore 0 (Fin.succ_pos d)]
      exact ih (f := f ∘ Fin.succ) hd fun e he => hbefore e.succ (Fin.succ_lt_succ_iff.mpr he)

section
variable {h : HeadId} {hd : Head} {n : Nat}

theorem requestOfLine_some {r : Request} (hr : requestOfLine h hd n = some r) : r.head = h := by
  unfold requestOfLine at hr
  split at hr
  · cases hr
  · split at hr
    · exact requestAt_head hr
    · cases hr

/-- R101: a slot that the cursor does not hold has no request. -/
theorem requestOfLine_none (hc : ∀ k : SlotNo, hd.slots[k].line? = some n → hd.cursor[k] = none) :
    requestOfLine h hd n = none := by
  unfold requestOfLine
  split
  · rfl
  · next k hk =>
    rw [hc k (slotOfLine_some hk)]
    split
    · next he => cases he
    · rfl

/-- A line that one slot holds is found in that slot. -/
theorem slotOfLine_eq_some {k : SlotNo} (hk : hd.slots[k].line? = some n)
    (hone : ∀ j : SlotNo, hd.slots[j].line? = some n → j = k) : slotOfLine hd n = some k := by
  cases hf : slotOfLine hd n with
  | some j => rw [hone j (slotOfLine_some hf)]
  | none =>
    have hnot := List.find?_eq_none.mp hf k (List.mem_finRange k)
    exact absurd (beq_iff_eq.mpr hk) hnot

theorem requestOfLine_of_slot {k : SlotNo} {a : ActiveLine} {p : Pos} (hk : slotOfLine hd n = some k)
    (ha : hd.slots[k] = .active a) (hp : hd.cursor[k] = some p) : requestOfLine h hd n = requestAt h k a p := by
  simp only [requestOfLine, hk, ha, hp]
end

section
variable {s : State} {h : HeadId} {ts : TimingSet}

theorem nextRequest_eq (ht : (s.head h).timing = some ts) : nextRequest h s =
    [(s.head h).line, ((s.head h).line + 1) % ts.frameTotal, ((s.head h).line + 2) % ts.frameTotal].findSome?
      (requestOfLine h (s.head h)) := by
  simp only [nextRequest, ht]

/-- The three lines that may have requests, counted from the line in progress. -/
theorem shownLines_eq (hl : (s.head h).line < ts.frameTotal) :
    [(s.head h).line, ((s.head h).line + 1) % ts.frameTotal, ((s.head h).line + 2) % ts.frameTotal] =
      (List.finRange 3).map fun d => ((s.head h).line + d.val) % ts.frameTotal := by
  simp [List.finRange_succ, Nat.mod_eq_of_lt hl]

theorem nextRequest_head {r : Request} (hr : nextRequest h s = some r) : r.head = h := by
  unfold nextRequest at hr
  dsimp only at hr
  split at hr
  · cases hr
  · obtain ⟨n, -, hn⟩ := List.exists_of_findSome?_eq_some hr
    exact requestOfLine_some hn

/-- R101: a head whose cursor holds no slot has no request. -/
theorem nextRequest_none (hc : ∀ k : SlotNo, (s.head h).cursor[k] = none) : nextRequest h s = none := by
  unfold nextRequest
  dsimp only
  split
  · rfl
  · exact List.findSome?_eq_none_iff.mpr fun n _ => requestOfLine_none fun k _ => hc k

/-- R102: the request of the first line with one, in the order of showing. -/
theorem nextRequest_of_first (ht : (s.head h).timing = some ts) (hl : (s.head h).line < ts.frameTotal) {r : Request}
    {d : Fin 3} (hr : requestOfLine h (s.head h) (((s.head h).line + d.val) % ts.frameTotal) = some r)
    (hbefore : ∀ e : Fin 3, e < d →
      requestOfLine h (s.head h) (((s.head h).line + e.val) % ts.frameTotal) = none) :
    nextRequest h s = some r := by
  rw [nextRequest_eq ht, shownLines_eq hl, List.findSome?_map]
  exact findSome?_finRange hr hbefore
end

/-! ### The Port Arbiter and the issue (R106 to R108, R123) -/

section
variable {s : State}

theorem urgent_iff {r : Request} {ts : TimingSet} (ht : (s.head r.head).timing = some ts) :
    urgent s r = true ↔
      r.line = (s.head r.head).line ∨ r.line = ((s.head r.head).line + 1) % ts.frameTotal := by
  simp only [urgent, ht, Bool.or_eq_true, beq_iff_eq]

theorem heads_of_ne {h x : HeadId} (hne : x ≠ h) : (x = 0 ∧ h = 1) ∨ (x = 1 ∧ h = 0) := by
  revert h x
  decide

/-- R107: the only request is offered. -/
theorem arbitrated_of_none {h x : HeadId} (hne : x ≠ h) (hx : nextRequest x s = none) :
    arbitrated s = nextRequest h s := by
  obtain ⟨rfl, rfl⟩ | ⟨rfl, rfl⟩ := heads_of_ne hne
  · simp only [arbitrated, hx]
  · simp only [arbitrated, hx]
    cases nextRequest 0 s <;> rfl

/-- R107, R108: of two requests, the urgent one, and between equals that of the head not served last. -/
theorem arbitrated_of_both {h x : HeadId} {r q : Request} (hne : h ≠ x) (hr : nextRequest h s = some r)
    (hq : nextRequest x s = some q)
    (hwins : (urgent s r = true ∧ urgent s q = false) ∨ (urgent s r = urgent s q ∧ s.lastServed = x)) :
    arbitrated s = some r := by
  obtain ⟨rfl, rfl⟩ | ⟨rfl, rfl⟩ := heads_of_ne hne
  · simp only [arbitrated, hr, hq]
    rcases hwins with ⟨hur, huq⟩ | ⟨hu, hl⟩
    · simp [hur, huq]
    · simp [hu, hl]
  · simp only [arbitrated, hr, hq]
    rcases hwins with ⟨hur, huq⟩ | ⟨hu, hl⟩
    · simp [hur, huq]
    · simp [hu, hl]

theorem freeTag?_eq_none (ht : ∀ t, (s.tag t).state ≠ .free) : freeTag? s = none :=
  List.find?_eq_none.mpr fun t _ => by simpa using ht t

theorem freeTag?_eq_some {t : TagNo} (ht : (s.tag t).state = .free) (hlow : ∀ v, v < t → (s.tag v).state ≠ .free) :
    freeTag? s = some t := by
  unfold freeTag? allTags
  rw [← Fin.find?_eq_find?_finRange, Fin.find?_eq_some_iff]
  exact ⟨decide_eq_true ht, fun v hv => decide_eq_false (hlow v hv)⟩

/-- R106, R123: REQUEST_ISSUE is the acceptance of what is offered. -/
theorem exec_requestIssue_of_none (ho : offered s = none) : exec .requestIssue s = .next s := by
  show execRequestIssue s = _
  rw [execRequestIssue, ho]

theorem exec_requestIssue_of_some {t : TagNo} {r : Request} (ho : offered s = some (t, r)) :
    exec .requestIssue s = .next (issue t r s) := by
  show execRequestIssue s = _
  rw [execRequestIssue, ho]

theorem offered_eq_none (h : (∀ t, (s.tag t).state ≠ .free) ∨ arbitrated s = none) : offered s = none := by
  unfold offered
  rcases h with ht | hr
  · rw [freeTag?_eq_none ht]
  · rw [hr]
    cases freeTag? s <;> rfl

theorem offered_eq_some {t : TagNo} {r : Request} (ht : freeTag? s = some t) (hr : arbitrated s = some r) :
    offered s = some (t, r) := by
  simp only [offered, ht, hr]
end

/-- Settles O39: what is offered is the arbiter's choice of the heads' next requests, and its acceptance is `issue`. -/
theorem requestIssueServesTheArbitersChoice : Obligations.RequestIssueServesTheArbitersChoice := by
  refine ⟨fun s => ⟨fun hno => exec_requestIssue_of_none (offered_eq_none hno), fun t r ht hlow hr => ?_⟩,
    fun s => ⟨fun h x hne hx => arbitrated_of_none hne hx,
      fun h x r q hne hr hq => ⟨fun hur huq => ?_, fun hu hl => ?_⟩, fun h r ts ht hr => ?_⟩,
    fun s h hc => nextRequest_none hc, fun s h ts k a p r d ht hl ha hp hr hline hone hbefore => ?_⟩
  · rw [exec_requestIssue_of_some (offered_eq_some (freeTag?_eq_some ht hlow) hr)]
    rfl
  · exact arbitrated_of_both hne hr hq (.inl ⟨hur, huq⟩)
  · exact arbitrated_of_both hne hr hq (.inr ⟨hu, hl⟩)
  · obtain rfl := nextRequest_head hr
    exact ⟨rfl, urgent_iff ht⟩
  · have hslot : slotOfLine (s.head h) a.line = some k := slotOfLine_eq_some (by rw [ha]; rfl) hone
    refine nextRequest_of_first ht hl (d := d) ?_ fun e he => requestOfLine_none (hbefore e he)
    rw [← hline, requestOfLine_of_slot hslot ha hp, hr]

end Sys2Proof.Machine
end

section
/-! Tags that become FREE (06): the release of the reference each holds, for RECLAIM_TAGS (R122) and for a response that
comes too late (R115, R116). -/

namespace Sys2Proof.Machine

/-! ### Releases and the tag table -/

/-- The state with another tag table. -/
def State.withTags (s : State) (ts : Vector Tag 16) : State := { s with tags := ts }

section
variable (s : State) (ts : Vector Tag 16)

/-- The tag table is not on the host side. -/
theorem State.withTags_side : HostSideKept s (s.withTags ts) :=
  ⟨rfl, rfl, rfl, rfl, rfl, fun _ _ => ⟨rfl, rfl⟩⟩

theorem dropHeld_withTags (c : ClientId) : dropHeld c (s.withTags ts) = (dropHeld c s).withTags ts := by
  unfold dropHeld
  dsimp only
  rw [apply_ite (State.withTags · ts)]
  rfl

theorem freeWindow_withTags (w : WindowId) : freeWindow w (s.withTags ts) = (freeWindow w s).withTags ts := by
  have hwindow : (s.withTags ts).window w = s.window w := rfl
  unfold freeWindow
  rw [hwindow]
  cases (s.window w).life with
  | free => rfl
  | reserved hd => exact dropHeld_withTags (s.setWindow w _) ts hd.owner
  | live hd img f => exact dropHeld_withTags (notify hd.owner (.retired w) (s.setWindow w _)) ts hd.owner
  | retiring hd img f => exact dropHeld_withTags (notify hd.owner (.retired w) (s.setWindow w _)) ts hd.owner

/-- R16: a release neither reads nor writes the tag table. -/
theorem releaseRef_withTags (w : WindowId) : releaseRef w (s.withTags ts) = (releaseRef w s).withTags ts := by
  unfold releaseRef
  dsimp only
  rw [apply_ite (State.withTags · ts), ← freeWindow_withTags]
  rfl
end

/-- The state with the tags of a list FREE, the references they hold not yet released. -/
def State.tagsFreed (s : State) (ts : List TagNo) : State :=
  s.withTags (Vector.ofFn fun i => if i ∈ ts then { s.tag i with state := .free } else s.tag i)

theorem State.tagsFreed_tag (s : State) (ts : List TagNo) (i : TagNo) :
    (s.tagsFreed ts).tag i = if i ∈ ts then { s.tag i with state := .free } else s.tag i := by
  simp [State.tagsFreed, State.withTags, State.tag]

theorem State.tagsFreed_nil (s : State) : s.tagsFreed [] = s := by
  have htags : (s.tagsFreed []).tags = s.tags := Vector.ext fun i hi => by
    have htag := s.tagsFreed_tag [] ⟨i, hi⟩
    rwa [if_neg List.not_mem_nil] at htag
  calc s.tagsFreed [] = s.withTags (s.tagsFreed []).tags := rfl
    _ = s := by rw [htags]; rfl

/-- A tag freed before its release is one of those freed. -/
theorem State.tagsFreed_cons (s : State) (t : TagNo) (ts : List TagNo) :
    (freeTag t s).tagsFreed ts = releaseRef (s.tag t).window (s.tagsFreed (t :: ts)) := by
  have htags : ∀ i, ((freeTag t s).tagsFreed ts).tag i = (s.tagsFreed (t :: ts)).tag i := fun i => by
    rw [State.tagsFreed_tag, State.tagsFreed_tag, freeTag_tag]
    by_cases ht : t = i
    · subst ht; simp
    · simp [ht, Ne.symm ht]
  have hvec : ((freeTag t s).tagsFreed ts).tags = (s.tagsFreed (t :: ts)).tags :=
    Vector.ext fun i hi => htags ⟨i, hi⟩
  calc (freeTag t s).tagsFreed ts = (freeTag t s).withTags (s.tagsFreed (t :: ts)).tags := by rw [← hvec]; rfl
    _ = releaseRef (s.tag t).window (s.tagsFreed (t :: ts)) := (releaseRef_withTags _ _ _).symm

/-- R16, R84: freeing tags one by one is freeing them all and releasing their references in the same order. -/
theorem foldl_freeTag (ts : List TagNo) (s : State) :
    ts.foldl (fun s t => freeTag t s) s = releaseRefs (ts.map fun t => (s.tag t).window) (s.tagsFreed ts) := by
  induction ts generalizing s with
  | nil => exact s.tagsFreed_nil.symm
  | cons t ts ih =>
    have hwindow : ∀ i, ((freeTag t s).tag i).window = (s.tag i).window := fun i => by
      rw [freeTag_tag]
      split
      · next e => subst e; rfl
      · rfl
    rw [List.foldl_cons, ih, State.tagsFreed_cons, List.map_cons]
    simp only [hwindow]
    rfl

/-! ### What is freed, said of an earlier state -/

section
variable {s s' u : State} {ws : List WindowId}

/-- R11: what is reported may be said of a state with the same clients, owners and RETIRED. -/
theorem ReportsFreed.of_start (h : ReportsFreed s u ws) (hc : ∀ c, s'.client c = s.client c)
    (ho : ∀ w, (s'.window w).owner? = (s.window w).owner?)
    (hr : ∀ c, (s'.notice c).retired = (s.notice c).retired) : ReportsFreed s' u ws := by
  intro c mine hmine
  have hreport := h c mine (by simpa only [ho] using hmine)
  simpa only [hc, hr, State.ownedBy, ho] using hreport

theorem FreesReleased.of_start (h : FreesReleased s u ws) (hw : ∀ w, s'.window w = s.window w)
    (hc : ∀ c, s'.client c = s.client c) (hr : ∀ c, (s'.notice c).retired = (s.notice c).retired) :
    FreesReleased s' u ws where
  lives w := by simpa only [hw] using h.lives w
  reports hs := by
    have hreport := h.reports (by simpa only [hw] using hs)
    simp only [freedBy, hw]
    exact hreport.of_start hc (fun w => by rw [hw]) hr
end

/-- Settles O27: the ABANDONED tags become FREE, and the rest is the releases of the references they hold. -/
theorem reclaimFreesAbandonedTags : Obligations.ReclaimFreesAbandonedTags := by
  intro s t ht
  rw [exec_reclaimTags ht]
  refine ⟨fun hc => by rw [takeMessage_not_supervisor hc], fun hc => ?_⟩
  let ts := allTags.filter fun i => (s.tag i).state = .abandoned
  let ws := ts.map fun i => (s.tag i).window
  let v := releaseRefs ws ((consume t s).tagsFreed ts)
  have hquiet : ∀ h, QuietFrame (fun _ r => r) h ((consume t s).tagsFreed ts) v := fun h => releaseRefs_quiet _ h _ ws
  have hbody : bodyReclaimTags t.client t.message.args (consume t s) =
      (v, accepted [BitVec.ofNat 32 (allTags.countP fun i => (s.tag i).state = .abandoned)]) := by
    rw [bodyReclaimTags, List.countP_eq_length_filter, foldl_freeTag]
    rfl
  refine ⟨v, ?_, fun i => ?_, fun w => ?_, (hquiet 0).kept, ?_, ?_, ?_, (hquiet 0).served,
    (releaseRefs_queuesFollow _ ws).heads⟩
  · rw [takeMessage_supervisorOnly hc, takeMessage, hbody, hc]
  · have htag : v.tag i = _ := (releaseRefs_tag _ ws i).trans (State.tagsFreed_tag _ ts i)
    rw [htag]
    simp [ts, allTags]
  · have hcount : ws.count w = allTags.countP fun i => (s.tag i).state = .abandoned ∧ (s.tag i).window = w := by
      simp only [ws, ts, List.count, List.countP_map, List.countP_filter]
      exact List.countP_congr fun i _ => by simp [and_comm]
    rw [← hcount]
    exact releaseRefs_refs _ ws w
  · exact (releaseRefs_freesReleased _ ws).of_start (fun _ => rfl) (fun _ => rfl) fun _ => rfl
  · have hkept := (hquiet 0).noticesKept (f := id) fun _ _ _ e => e
    exact ⟨hkept.kinds, hkept.tenants, hkept.told⟩
  · exact ((consume t s).withTags_side _).trans (hquiet 0).side

/-! ### The release of a RETIRING window's last reference (R13, R11, R18, R144) -/

section
variable {s : State} {w : WindowId}

theorem Life.eq_retiring {l : Life} (hr : l.isRetiring = true) : ∃ hd img f, l = .retiring hd img f := by
  cases l with
  | retiring hd img f => exact ⟨hd, img, f, rfl⟩
  | _ => cases hr

/-- R11, R18, R144: what the owner is told, whatever the references of other windows. -/
theorem releaseRef_reportsFreed (hr : (s.window w).life.isRetiring = true) (h1 : (s.window w).refs = 1) :
    ReportsFreed s (releaseRef w s) [w] := by
  obtain ⟨hd, img, f, hl⟩ := Life.eq_retiring hr
  have howner : (s.window w).owner? = some hd.owner := by rw [Window.owner?, hl]; rfl
  have hown : FreesOwn s hd.owner w := ⟨hr, h1, howner⟩
  intro c mine hmine counted
  by_cases hc : hd.owner = c
  · subst hc
    obtain rfl : mine = [w] := by
      rw [hmine, List.filter_cons_of_pos (by simpa using howner), List.filter_nil]
    have hcounted (h : (s.client hd.owner).state = .closing → 1 < (s.client hd.owner).held) : counted := by
      obtain ⟨hclient, hnotice⟩ := releaseRef_own hown h
      exact ⟨hclient, by rw [hnotice, NoticeRecord.set, firstSubject_eq]; rfl⟩
    refine ⟨fun hopen => hcounted fun hclosing => (nomatch hopen.symm.trans hclosing),
      fun hclosing h0 hheld => ⟨fun hsome => hcounted fun _ => ?_,
        fun _ hall => releaseRef_own_last hown hclosing hall.symm h0⟩⟩
    have hpos : 0 < (s.ownedBy hd.owner).length := List.length_pos_of_mem (State.mem_ownedBy.mpr howner)
    have hne : 1 ≠ (s.client hd.owner).held := hsome.resolve_left (List.cons_ne_nil w [])
    omega
  · obtain rfl : mine = [] := by
      rw [hmine, List.filter_cons_of_neg (by simpa [howner] using hc), List.filter_nil]
    obtain ⟨r, e⟩ := releaseRef_of_freesOwn hown
    obtain ⟨hclient, hnotice, -⟩ := dropHeld_aside (s := notify hd.owner (.retired w) (s.setWindow w r)) hc
    have hcounted : counted := by
      refine ⟨by rw [e, hclient]; rfl, ?_⟩
      rw [e, hnotice, notify_notice, if_neg hc]
      exact (keepFirst_none _).symm
    exact ⟨fun _ => hcounted, fun _ _ _ => ⟨fun _ => hcounted, fun hne => absurd rfl hne⟩⟩

/-- R144, R45: a CLOSING owner that held one window becomes CLOSED. -/
theorem releaseRef_becomesClosed {c : ClientId} (h : FreesOwn s c w) (hc : (s.client c).state = .closing)
    (h1 : (s.client c).held = 1) (h0 : c ≠ 0) : BecomesClosed s (releaseRef w s) c := by
  obtain ⟨hclient, hnotice⟩ := releaseRef_own_last h hc h1 h0
  have hcloses : Closes s (releaseRef w s) c := ⟨by rw [hc]; decide, by rw [hclient]; rfl⟩
  refine ⟨hclient, fun x hx => ?_, hnotice, ?_⟩
  · rw [(releaseRef_queuesFollow s w).heads x] at hx
    exact of_decide_eq_true (List.mem_filter.mp hx).2 hcloses
  · obtain ⟨r, e⟩ := releaseRef_of_freesOwn h
    rw [e]
    rcases dropHeld_cases (notify c (.retired w) (s.setWindow w r)) c with ⟨-, -, e⟩ | ⟨hno, -⟩
    · rw [e, enterClosed_notice, if_pos rfl, if_neg h0, State.notice_setClient, notify_notice, if_neg h0,
        NoticeRecord.set, firstSubject_eq]
      rfl
    · have hone : (s.client c).held - 1 = 0 := by omega
      exact absurd ⟨hc, hone⟩ hno
end

/-! ### A response that comes too late (R115, R116) -/

section
variable {s : State} {t : TagNo}

theorem freeTag_window (x : WindowId) : (freeTag t s).window x = (releaseRef (s.tag t).window s).window x := by
  rw [freeTag, releaseRef_window, releaseRef_window]
  rfl

/-- R13: a release that leaves its window's state. -/
theorem freeTag_of_kept
    (h : (s.window (s.tag t).window).life.isRetiring = false ∨ 1 < (s.window (s.tag t).window).refs) :
    freeTag t s = (s.setTag t { s.tag t with state := .free }).setWindow (s.tag t).window
      { s.window (s.tag t).window with refs := (s.window (s.tag t).window).refs - 1 } := by
  rcases releaseRef_cases (s.setTag t { s.tag t with state := .free }) (s.tag t).window with ⟨hr, hrefs, -⟩ | ⟨-, e⟩
  · rw [State.window_setTag] at hr hrefs
    rcases h with hno | hmore
    · rw [hno] at hr; cases hr
    · omega
  · exact e

theorem setTag_quiet (blank : ClientId → NoticeRecord → NoticeRecord) (v : Tag) :
    QuietFrame blank (s.tag t).head s (s.setTag t v) :=
  .of_states_kept (setTag_keepsHost s t v) (fun _ => rfl) (fun _ _ => rfl) rfl rfl
    (fun _ hi => State.tag_setTag_of_ne s (fun e => hi (by rw [e])) v) (fun _ _ => rfl) (fun _ => .refl _ _)

theorem freeTag_quiet (blank : ClientId → NoticeRecord → NoticeRecord) :
    QuietFrame blank (s.tag t).head s (freeTag t s) :=
  (setTag_quiet blank _).trans (releaseRef_quiet blank _ _ _)

theorem freeTag_queuesFollow : QueuesFollow s (freeTag t s) :=
  (releaseRef_queuesFollow _ _).after (fun _ => rfl) fun _ => rfl

/-- R110: a response, by its tag. -/
theorem exec_responseArrival (hr : s.resetHeld = false) (earlier : List Beat) (final : Beat) :
    exec (.responseArrival earlier final) s =
      .next (respondTag final.tag final.status ((earlier ++ [final]).flatMap Beat.data) s) := by
  show execResponseArrival earlier final s = _
  rw [execResponseArrival, hr]
  rfl

theorem respondTag_of_free (ht : (s.tag t).state = .free) (st : RespStatus) (data : List Byte) :
    respondTag t st data s = notify 0 (.strayResponse t) s := by
  unfold respondTag
  rw [ht]

theorem respondTag_of_late (ht : (s.tag t).state = .stale ∨ (s.tag t).state = .abandoned) (st : RespStatus)
    (data : List Byte) : respondTag t st data s = freeTag t s := by
  unfold respondTag
  rcases ht with ht | ht <;> rw [ht]
end

/-- Settles O43: a late response is `freeTag` and nothing else, a stray one its notice. -/
theorem lateAndStrayResponsesAreDiscarded : Obligations.LateAndStrayResponsesAreDiscarded := by
  rintro s earlier final _ hreset rfl
  rw [exec_responseArrival hreset]
  refine ⟨fun hfree => ?_, fun hlate => ?_⟩
  · rw [respondTag_of_free hfree, notify, NoticeRecord.set, firstSubject_eq]
    rfl
  rw [respondTag_of_late hlate]
  refine ⟨fun hkept => by rw [freeTag_of_kept hkept]; rfl, fun hr h1 => ⟨freeTag final.tag s, rfl, ?_⟩⟩
  have hwindow := releaseRef_window s (s.tag final.tag).window
  have hquiet := freeTag_quiet (s := s) (t := final.tag) fun _ r => r
  refine ⟨by rw [freeTag_tag, if_pos rfl], ?_, ?_, fun w hw => ?_, ?_, hquiet.noticesKept fun _ _ _ e => e,
    fun c ho h0 hc hheld => ?_, fun i hi => by rw [freeTag_tag, if_neg (Ne.symm hi)], hquiet.side, hquiet.served,
    freeTag_queuesFollow.heads⟩
  · rw [freeTag_window, hwindow, if_pos rfl, if_pos ⟨hr, by omega⟩]
  · rw [freeTag_window, hwindow, if_pos rfl, h1]
  · rw [freeTag_window, hwindow, if_neg (Ne.symm hw)]
  · have hreport := releaseRef_reportsFreed
      (s := s.setTag final.tag { s.tag final.tag with state := .free }) (w := (s.tag final.tag).window) hr h1
    exact hreport.of_start (fun _ => rfl) (fun _ => rfl) fun _ => rfl
  · have hfrees : FreesOwn (s.setTag final.tag { s.tag final.tag with state := .free }) c (s.tag final.tag).window :=
      ⟨hr, h1, ho⟩
    obtain ⟨hclient, hqueues, hnotice, htold⟩ := releaseRef_becomesClosed hfrees hc hheld h0
    exact ⟨hclient, hqueues, hnotice, htold⟩

end Sys2Proof.Machine
end

section
/-! The ageing of tags at a line start (R120). -/

namespace Sys2Proof.Machine

/-! ### TAG_ABANDONED -/

/-- R152: of the windows reported one after the other, the first is kept. -/
theorem foldl_tagAbandoned {α : Type} (g : α → WindowId) (l : List α) (u : State) :
    ((l.foldl (fun u a => notify 0 (.tagAbandoned (g a)) u) u).notice 0).tagAbandoned =
      keepFirst (u.notice 0).tagAbandoned (l.head?.map g) := by
  induction l generalizing u with
  | nil => exact (keepFirst_none _).symm
  | cons a l ih =>
    rw [List.foldl_cons, ih, notify_notice, if_pos rfl, NoticeRecord.set, firstSubject_eq, keepFirst_keepFirst]
    rfl

/-- R120: the tag becomes ABANDONED at the next line start of head `h`. -/
def Tag.Expires (t : Tag) (h : HeadId) : Prop :=
  t.head = h ∧ (t.state = .active ∨ t.state = .stale) ∧ t.age = 3

theorem Tag.agesWith_iff {t : Tag} {h : HeadId} :
    t.agesWith h = true ↔ t.head = h ∧ (t.state = .active ∨ t.state = .stale) := by
  simp [Tag.agesWith]

theorem Tag.aged_of_ages {t : Tag} {h : HeadId} (hh : t.head = h) (hst : t.state = .active ∨ t.state = .stale) :
    t.aged h = { t with age := t.age + 1, state := if t.age = 3 then .abandoned else t.state } := by
  rw [Tag.aged, if_pos (Tag.agesWith_iff.mpr ⟨hh, hst⟩)]
  simp [expiryAge]

theorem Tag.expiresWith_iff {t : Tag} {h : HeadId} : t.expiresWith h = true ↔ t.Expires h := by
  simp [Tag.expiresWith, Tag.agesWith_iff, Tag.Expires, expiryAge, and_assoc]

section
variable {h : HeadId} {s : State}

theorem ageTags_tagAbandoned : ((ageTags h s).notice 0).tagAbandoned = keepFirst (s.notice 0).tagAbandoned
    ((allTags.find? fun i => (s.tag i).expiresWith h).map fun i => (s.tag i).window) := by
  rw [ageTags, foldl_tagAbandoned, List.head?_filter]
  rfl

theorem ageTags_tagAbandoned_of_none (hno : ∀ i, ¬ (s.tag i).Expires h) :
    ((ageTags h s).notice 0).tagAbandoned = (s.notice 0).tagAbandoned := by
  rw [ageTags_tagAbandoned, List.find?_eq_none.mpr fun i _ hi => hno i (Tag.expiresWith_iff.mp hi)]
  exact keepFirst_none _

theorem ageTags_tagAbandoned_of_first {i : TagNo} (hi : (s.tag i).Expires h)
    (hlow : ∀ j, j < i → ¬ (s.tag j).Expires h) :
    ((ageTags h s).notice 0).tagAbandoned = keepFirst (s.notice 0).tagAbandoned (some (s.tag i).window) := by
  have hfirst : allTags.find? (fun j => (s.tag j).expiresWith h) = some i := by
    unfold allTags
    rw [← Fin.find?_eq_find?_finRange, Fin.find?_eq_some_iff]
    exact ⟨Tag.expiresWith_iff.mpr hi, fun j hj => Bool.eq_false_iff.mpr fun e => hlow j hj (Tag.expiresWith_iff.mp e)⟩
  rw [ageTags_tagAbandoned, hfirst]
  rfl
end

/-! ### The line start up to the ageing -/

/-- From `s` to `u` tags of head `h` are left or made STALE, and client 0's TAG_ABANDONED is left. -/
structure BeforeAgeing (h : HeadId) (s u : State) : Prop where
  tags      : ∀ i, KeptOrStale h i s u
  abandoned : (u.notice 0).tagAbandoned = (s.notice 0).tagAbandoned

section
variable {h : HeadId} {s u v : State}

theorem KeptOrStale.trans {i : TagNo} (a : KeptOrStale h i s u) (b : KeptOrStale h i u v) : KeptOrStale h i s v := by
  rcases a with e | ⟨ha, hh, e⟩
  · rw [KeptOrStale, e] at b
    exact b
  · rcases b with f | ⟨hb, -, -⟩
    · exact .inr ⟨ha, hh, f.trans e⟩
    · rw [e] at hb; cases hb

theorem staleHead_tag (i : TagNo) : KeptOrStale h i s (staleHead h s) := by
  unfold KeptOrStale
  rw [staleHead, staleTags_tag]
  split
  · next hc => exact .inr ⟨hc.1, beq_iff_eq.mp hc.2, rfl⟩
  · exact .inl rfl

theorem KeptOrStale.expires_iff {i : TagNo} (a : KeptOrStale h i s u) : (u.tag i).Expires h ↔ (s.tag i).Expires h := by
  rcases a with e | ⟨ha, -, e⟩ <;> rw [e]
  simp [Tag.Expires, ha]

theorem KeptOrStale.window {i : TagNo} (a : KeptOrStale h i s u) : (u.tag i).window = (s.tag i).window := by
  rcases a with e | ⟨-, -, e⟩ <;> rw [e]

/-- R120: a tag that does not age is left by the line start. -/
theorem KeptOrStale.aged_of_kept {i : TagNo} (a : KeptOrStale h i s u)
    (hk : (s.tag i).head ≠ h ∨ (s.tag i).state = .free ∨ (s.tag i).state = .abandoned) :
    (u.tag i).aged h = s.tag i := by
  have hno : ¬ ((s.tag i).head = h ∧ ((s.tag i).state = .active ∨ (s.tag i).state = .stale)) := by
    rintro ⟨hh, hst⟩
    rcases hk with hne | hf | hab
    · exact hne hh
    · rw [hf] at hst; simp at hst
    · rw [hab] at hst; simp at hst
  rcases a with e | ⟨ha, hh, -⟩
  · rw [e, Tag.aged, if_neg fun hc => hno (Tag.agesWith_iff.mp hc)]
  · exact absurd ⟨hh, .inl ha⟩ hno

/-- R120: a tag that ages is one older, and ABANDONED when that makes it 4. -/
theorem KeptOrStale.aged_of_ages {i : TagNo} (a : KeptOrStale h i s u) (hh : (s.tag i).head = h)
    (hst : (s.tag i).state = .active ∨ (s.tag i).state = .stale) :
    (u.tag i).aged h = { s.tag i with age := (s.tag i).age + 1, state := ((u.tag i).aged h).state } ∧
      ((s.tag i).age = 3 → ((u.tag i).aged h).state = .abandoned) ∧
      ((s.tag i).age ≠ 3 → ((u.tag i).aged h).state = (s.tag i).state ∨ ((u.tag i).aged h).state = .stale) := by
  rcases a with e | ⟨-, -, e⟩ <;> rw [e]
  · rw [Tag.aged_of_ages hh hst]
    exact ⟨rfl, fun h3 => if_pos h3, fun h3 => .inl (if_neg h3)⟩
  · rw [Tag.aged_of_ages (t := { s.tag i with state := .stale }) hh (.inr rfl)]
    exact ⟨rfl, fun h3 => if_pos h3, fun h3 => .inr (if_neg h3)⟩
end

section
variable {h : HeadId} {s u v : State}

theorem BeforeAgeing.trans (a : BeforeAgeing h s u) (b : BeforeAgeing h u v) : BeforeAgeing h s v :=
  ⟨fun i => (a.tags i).trans (b.tags i), b.abandoned.trans a.abandoned⟩

theorem staleHead_beforeAgeing : BeforeAgeing h s (staleHead h s) := ⟨staleHead_tag, rfl⟩

theorem lineBegun_beforeAgeing (t : TimingSet) : BeforeAgeing h s (lineBegun h t s) where
  tags i := by
    refine .inl ?_
    unfold lineBegun followNotices
    split <;> split <;> rfl
  abandoned := followNotices_kind h _ NoticeRecord.tagAbandoned (fun _ => rfl) (fun _ => rfl) _ _ 0

theorem tagAbandoned_of_workBlank {c : ClientId} {r r' : NoticeRecord} (e : workBlank c r = workBlank c r') :
    r.tagAbandoned = r'.tagAbandoned :=
  (congrArg NoticeRecord.tagAbandoned e : (workBlank c r).tagAbandoned = _)

/-- The work of a line start may close CLOSING clients, of which client 0 is none. -/
theorem lineWork_beforeAgeing (h0 : (s.client 0).state ≠ .closing) (releaseFirst : Bool) (t : TimingSet)
    (first : Bool) (ended : Nat) (k : LineKind) (lost : Bool) (draws : Nat) :
    BeforeAgeing h s { lineWork releaseFirst h t first ended k lost s with raceDraws := draws } := by
  have hkept := tagAbandoned_of_workBlank ((lineWork_work h s releaseFirst t first ended k lost).kinds 0 h0)
  exact ⟨lineWork_tag h s releaseFirst t first ended k lost, hkept⟩

theorem lineFinished_eq (lost : Bool) (s : State) :
    ∃ v, lineFinished h lost s = ageTags h v ∧ BeforeAgeing h s v := by
  cases lost with
  | true => exact ⟨staleHead h s, rfl, staleHead_beforeAgeing⟩
  | false => exact ⟨s, rfl, fun _ => .inl rfl, rfl⟩

/-- A line start ends with the ageing of the head's tags; client 0, which is OPEN (R137), keeps TAG_ABANDONED till
then. -/
theorem takeLineStart_ages {t : TimingSet} (hs : (s.client 0).state = .opened) (ht : (s.head h).timing = some t) :
    ∃ v, takeLineStart h s = ageTags h v ∧ BeforeAgeing h s v := by
  obtain ⟨releaseFirst, draws, e⟩ := takeLineStart_stages h s ht
  have h0 : ((lineBegun h t s).client 0).state ≠ .closing :=
    (lineBegun_quiet h s).states.not_closing (by rw [hs]; decide)
  obtain ⟨v, ev, hv⟩ := lineFinished_eq (h := h) (losesLock (s.head h) (lineKind (s.head h) t)) _
  exact ⟨v, e.trans ev, (lineBegun_beforeAgeing t).trans ((lineWork_beforeAgeing h0 _ _ _ _ _ _ _).trans hv)⟩

theorem endLine_ages {t : TimingSet} (hs : SupervisorLaw s) (ht : (s.head h).timing = some t) :
    ∃ v, endLine h s = ageTags h v ∧ BeforeAgeing h s v := by
  have hopen : (s.client 0).state = .opened := congrArg Client.state (hs : s.client 0 = _)
  obtain ⟨sh, e⟩ := endLine_eq h s
  obtain ⟨v, e', hv⟩ := takeLineStart_ages (h := h) (s := s.setHead h { s.head h with showing := sh }) hopen
    (by rw [State.head_setHead_self]; exact ht)
  exact ⟨v, e.trans e', hv.tags, hv.abandoned⟩
end

theorem exec_lineStart_of_due {s : State} {h : HeadId} (hdue : (s.head h).lineStartDue = true) :
    exec (.lineStart h) s = .next (endLine h s) := by
  show execLineStart h s = _
  rw [execLineStart, if_pos hdue]

/-- Log 5: TAG_EXPIRY of a tag that the line start due makes ABANDONED is that line start. -/
theorem exec_tagExpiry {s : State} {i : TagNo} {h : HeadId} (hdue : (s.head h).lineStartDue = true)
    (hi : (s.tag i).Expires h) : exec (.tagExpiry i) s = .next (endLine h s) := by
  obtain rfl := hi.1
  show execTagExpiry i s = _
  rw [execTagExpiry, if_pos (by rw [hdue, Tag.expiresWith_iff.mpr hi]; rfl)]

theorem Head.timing_of_lineStartDue {hd : Head} (h : hd.lineStartDue = true) : ∃ t, hd.timing = some t := by
  unfold Head.lineStartDue at h
  split at h
  · cases h
  · next t ht => exact ⟨t, ht⟩

/-- Settles O35: a line start is its work, which leaves the ages, and then `ageTags`. -/
theorem lineStartAgesTags : Obligations.LineStartAgesTags := by
  intro s h hs hdue expires aged
  obtain ⟨t, ht⟩ := Head.timing_of_lineStartDue hdue
  obtain ⟨v, e, hv⟩ := endLine_ages hs ht
  have hexpires : ∀ i, (v.tag i).Expires h ↔ expires i := fun i => (hv.tags i).expires_iff
  have haged : aged (endLine h s) := by
    rw [e]
    refine ⟨fun i => ?_, fun hno => ?_, fun i hi hlow => ?_⟩
    · rw [ageTags_tag]
      exact ⟨(hv.tags i).aged_of_kept, (hv.tags i).aged_of_ages⟩
    · rw [ageTags_tagAbandoned_of_none fun i hi => hno i ((hexpires i).mp hi), hv.abandoned]
    · rw [ageTags_tagAbandoned_of_first ((hexpires i).mpr hi) fun j hj hx => hlow j hj ((hexpires j).mp hx),
        hv.abandoned, (hv.tags i).window]
  exact ⟨⟨_, exec_lineStart_of_due hdue, haged⟩, fun i hi => ⟨_, exec_tagExpiry hdue hi, haged⟩⟩

end Sys2Proof.Machine
end

section
/-! The active start (R117, R118, R125). -/

namespace Sys2Proof.Machine

/-- The head at the active start whose slot `k` the Line Assembler takes with content `a`. -/
def Head.shows (hd : Head) (k : SlotNo) (a : ActiveLine) : Head :=
  { hd with
    pixel := hd.pixel + 1
    slots := hd.slots.set k (.active { a with phase := .showing })
    cursor := hd.cursor.set k none
    showing := some { slot := k, position := 0 } }

/-- R117, R119: the deadline up to its releases. -/
def deadlineMet (h : HeadId) (k : SlotNo) (a : ActiveLine) (s : State) : State :=
  notifyOwners .underrun (pendingWindows a.spans) (staleTags (fun u => u.head == h && u.slot == k)
    (s.setHead h ((s.head h).shows k { a with spans := missDeadlines a.spans })))

/-! ### What an active start does, by the slot of the line -/

section
variable {h : HeadId} {s : State}

theorem exec_activeStart (hdue : (s.head h).activeStartDue = true) :
    exec (.activeStart h) s = .next (takeActiveStart h s) := by
  show execActiveStart h s = _
  rw [execActiveStart, if_pos hdue]

/-- R118: in SEEKING only the pixel counter moves. -/
theorem takeActiveStart_of_not_displaying (hd : (s.head h).state.displaying = false) :
    takeActiveStart h s = s.setHead h { s.head h with pixel := (s.head h).pixel + 1 } := by
  unfold takeActiveStart takeDeadline
  simp only [State.head_setHead_self, hd, Bool.false_eq_true, if_false]

/-- The pixel counter is not what finds the slot of a line. -/
theorem slotOfLine_with_pixel (hd : Head) (p n : Nat) : slotOfLine { hd with pixel := p } n = slotOfLine hd n := rfl

section
variable {k : SlotNo} {a : ActiveLine}
variable (hd : (s.head h).state.displaying = true) (hk : slotOfLine (s.head h) (s.head h).line = some k)
include hd hk

theorem takeActiveStart_of_blank {n : Nat} (hs : (s.head h).slots[k] = .blank n) :
    takeActiveStart h s = s.setHead h { s.head h with pixel := (s.head h).pixel + 1 } := by
  unfold takeActiveStart takeDeadline
  simp only [State.head_setHead_self, hd, if_true, slotOfLine_with_pixel, hk, hs]

theorem takeActiveStart_of_complete (hs : (s.head h).slots[k] = .active a) (hp : a.phase = .complete) :
    takeActiveStart h s = s.setHead h ((s.head h).shows k a) := by
  unfold takeActiveStart takeDeadline
  simp only [State.head_setHead_self, hd, if_true, slotOfLine_with_pixel, hk, hs, hp, State.setHead_setHead]
  rfl

theorem takeActiveStart_of_fetching (hs : (s.head h).slots[k] = .active a) (hp : a.phase = .fetching) :
    takeActiveStart h s = releaseRefs (pendingWindows a.spans) (deadlineMet h k a s) := by
  unfold takeActiveStart takeDeadline
  simp only [State.head_setHead_self, hd, if_true, slotOfLine_with_pixel, hk, hs, hp, State.setHead_setHead]
  rfl
end
end

/-! ### UNDERRUN (R119) -/

section
variable (s : State)

theorem notifyOwner_underrun (w : WindowId) (c : ClientId) :
    ((notifyOwner w (.underrun w) s).notice c).underrun =
        keepFirst (s.notice c).underrun (if (s.window w).owner? = some c then some w else none) ∧
      ((notifyOwner w (.underrun w) s).notice c).retired = (s.notice c).retired := by
  unfold notifyOwner
  split
  · next d hd =>
    rw [notify_notice, hd]
    split
    · next e => subst e; rw [if_pos rfl, NoticeRecord.set, firstSubject_eq]; exact ⟨rfl, rfl⟩
    · next e => rw [if_neg fun h => e (Option.some.inj h), keepFirst_none]; exact ⟨rfl, rfl⟩
  · next hd => rw [hd, if_neg nofun, keepFirst_none]; exact ⟨rfl, rfl⟩

/-- R152: of the windows whose segments miss the deadline, a client is told of its first. -/
theorem notifyOwners_underrun (ws : List WindowId) (c : ClientId) :
    ((notifyOwners .underrun ws s).notice c).underrun =
        keepFirst (s.notice c).underrun (ws.find? fun w => (s.window w).owner? = some c) ∧
      ((notifyOwners .underrun ws s).notice c).retired = (s.notice c).retired := by
  induction ws generalizing s with
  | nil => exact ⟨(keepFirst_none _).symm, rfl⟩
  | cons w ws ih =>
    obtain ⟨hu, hr⟩ := ih (notifyOwner w (.underrun w) s)
    obtain ⟨hu', hr'⟩ := notifyOwner_underrun s w c
    refine ⟨hu.trans ?_, hr.trans hr'⟩
    rw [hu', keepFirst_keepFirst]
    simp only [notifyOwner_window]
    by_cases hw : (s.window w).owner? = some c
    · rw [if_pos hw, List.find?_cons_of_pos (by simpa using hw)]
      rfl
    · rw [if_neg hw, List.find?_cons_of_neg (by simpa using hw)]
      rfl

/-- The kind that the deadline may set. -/
def underrunBlank (_ : ClientId) (r : NoticeRecord) : NoticeRecord := { r with underrun := none }

theorem notifyOwners_underrun_quiet (h : HeadId) (ws : List WindowId) :
    QuietFrame underrunBlank h s (notifyOwners .underrun ws s) :=
  .foldl _ (fun s w => by
    unfold notifyOwner
    split
    · exact notify_quiet underrunBlank h s ⟨rfl, rfl, rfl⟩
    · exact .refl) ws s
end

/-! ### The deadline (R117) -/

section
variable (h : HeadId) (k : SlotNo) (a : ActiveLine) (s : State)

theorem deadlineMet_quiet : QuietFrame underrunBlank h s (deadlineMet h k a s) := by
  have hset : QuietFrame underrunBlank h s
      (s.setHead h ((s.head h).shows k { a with spans := missDeadlines a.spans })) :=
    setHead_quiet underrunBlank h s rfl rfl
  exact hset.trans ((staleTags_quiet underrunBlank h _ fun t ht => by simp_all).trans
    (notifyOwners_underrun_quiet _ h _))

@[simp] theorem deadlineMet_window (w : WindowId) : (deadlineMet h k a s).window w = s.window w :=
  notifyOwners_window _ _ _ w

@[simp] theorem deadlineMet_client (c : ClientId) : (deadlineMet h k a s).client c = s.client c :=
  notifyOwners_client _ _ _ c

theorem deadlineMet_head :
    (deadlineMet h k a s).head h = (s.head h).shows k { a with spans := missDeadlines a.spans } := by
  rw [deadlineMet, notifyOwners_head, staleTags_head, State.head_setHead_self]

theorem deadlineMet_tag (i : TagNo) : (deadlineMet h k a s).tag i =
    if (s.tag i).state = .active ∧ (s.tag i).head = h ∧ (s.tag i).slot = k then { s.tag i with state := .stale }
    else s.tag i := by
  rw [deadlineMet, notifyOwners_tag, staleTags_tag]
  simp only [State.tag_setHead, Bool.and_eq_true, beq_iff_eq]

theorem deadlineMet_notice (c : ClientId) : ((deadlineMet h k a s).notice c).underrun =
      keepFirst (s.notice c).underrun ((pendingWindows a.spans).find? fun w => (s.window w).owner? = some c) ∧
    ((deadlineMet h k a s).notice c).retired = (s.notice c).retired :=
  notifyOwners_underrun _ (pendingWindows a.spans) c
end

/-- Settles O38: a FETCHING slot is `deadlineMet` and the releases of its PENDING segments, the other cases leave all
but the head. -/
theorem activeStartSettlesAndShowsTheSlot : Obligations.ActiveStartSettlesAndShowsTheSlot := by
  refine ⟨fun s h k a hdue hd hk hs hp => ?_, fun s h hdue => ?_⟩
  · let ws := pendingWindows a.spans
    let v := deadlineMet h k a s
    let u := releaseRefs ws v
    have hmet : QuietFrame underrunBlank h s v := deadlineMet_quiet h k a s
    have hquiet : QuietFrame underrunBlank h s u := hmet.trans (releaseRefs_quiet _ h v ws)
    have hhead : u.head h = { (s.head h).shows k { a with spans := missDeadlines a.spans } with
        commitQueue := queueLeft s u h } := by
      obtain ⟨q, -, e⟩ := releaseRefs_head v ws h
      rw [← hquiet.queue, show u.head h = _ from e, deadlineMet_head]
    have hkept := hquiet.noticesKept (f := fun r => { r with underrun := none }) fun _ _ _ e => e
    refine ⟨u, by rw [exec_activeStart hdue, takeActiveStart_of_fetching hd hk hs hp],
      ⟨{ a with phase := .showing, spans := missDeadlines a.spans }, ?_, rfl, rfl, rfl, rfl⟩, ?_, ?_, fun j hj => ?_,
      fun i => ?_, fun w => ?_, fun c hc => ?_, hquiet.kept, ?_, hkept, hquiet.side, hquiet.served, hquiet.others, ?_⟩
    · rw [hhead]; simp [Head.shows]
    · rw [hhead]; simp [Head.shows]
    · rw [hhead]; rfl
    · have hval : k.val ≠ j.val := fun e => hj (Fin.ext e.symm)
      rw [hhead]
      exact ⟨Vector.getElem_set_ne k.isLt j.isLt hval, Vector.getElem_set_ne k.isLt j.isLt hval⟩
    · exact (releaseRefs_tag v ws i).trans (deadlineMet_tag h k a s i)
    · exact (releaseRefs_refs v ws w).trans (by rw [deadlineMet_window])
    · have hrel : QuietFrame (fun _ r => r) h v u := releaseRefs_quiet _ h v ws
      have hkinds := hrel.kinds c (by rw [deadlineMet_client, hc]; decide)
      have hunderrun : (u.notice c).underrun = (v.notice c).underrun := (NoticeRecord.mk.inj hkinds).2.1
      exact hunderrun.trans (deadlineMet_notice h k a s c).1
    · exact (releaseRefs_freesReleased v ws).of_start (fun w => (deadlineMet_window h k a s w).symm)
        (fun c => (deadlineMet_client h k a s c).symm) fun c => (deadlineMet_notice h k a s c).2.symm
    · rw [hhead]; rfl
  · rw [exec_activeStart hdue]
    refine ⟨fun hd => by rw [takeActiveStart_of_not_displaying hd]; rfl,
      fun hd k hk => ⟨fun n hs => ?_, fun a hs hp => ?_⟩⟩
    · rw [takeActiveStart_of_blank hd hk hs]; rfl
    · rw [takeActiveStart_of_complete hd hk hs hp]; rfl

end Sys2Proof.Machine
end

section
/-! A response with status OK for an ACTIVE tag (R110 to R112): the changed segment, the place in the cursor, the
bytes. -/

namespace Sys2Proof.Machine

/-! ### One segment of a line changed -/

section
variable (f : Layer → Layer) (spans : List Span) (i j : Nat)

theorem modifyLayer_getElem? (x : Nat) : (modifyLayer f spans i j)[x]? =
    spans[x]?.map fun sp => if i = x then { sp with layers := sp.layers.modify j f } else sp :=
  List.getElem?_modify _ _ _ _

theorem layerAt_modifyLayer_self : layerAt (modifyLayer f spans i j) i j = (layerAt spans i j).map f := by
  unfold layerAt
  rw [modifyLayer_getElem?]
  cases spans[i]? with
  | none => rfl
  | some sp => simp

theorem layerAt_modifyLayer_of_ne {x y : Nat} (hne : (x, y) ≠ (i, j)) :
    layerAt (modifyLayer f spans i j) x y = layerAt spans x y := by
  unfold layerAt
  rw [modifyLayer_getElem?]
  cases spans[x]? with
  | none => rfl
  | some sp =>
    by_cases hi : i = x
    · subst hi
      have hj : j ≠ y := fun e => hne (by rw [e])
      simp [hj]
    · simp [hi]

/-- R98: the ends of the spans do not change with a segment. -/
theorem modifyLayer_ends : (modifyLayer f spans i j).map (fun sp => (sp.xStart, sp.xEnd)) =
    spans.map fun sp => (sp.xStart, sp.xEnd) := by
  apply List.ext_getElem?
  intro x
  rw [List.getElem?_map, modifyLayer_getElem?, List.getElem?_map, Option.map_map]
  congr 1
  funext sp
  simp only [Function.comp_apply]
  split <;> rfl
end

/-- R112: what settling changes. -/
theorem ActiveLine.settle_eq (a : ActiveLine) : a.settle =
    { a with phase := if a.phase = .fetching ∧ pendingWindows a.spans = [] then .complete else a.phase } := by
  unfold ActiveLine.settle
  split <;> rfl

/-- R98, R112: a line with one segment changed, settled. -/
theorem lineKept_modifyLayer (f : Layer → Layer) (a : ActiveLine) (i j : Nat) :
    LineKept a { a with spans := modifyLayer f a.spans i j }.settle := by
  rw [ActiveLine.settle_eq]
  exact ⟨rfl, rfl, modifyLayer_ends f a.spans i j, rfl⟩

/-! ### The place in the cursor (R101, R113) -/

/-- The place of a position that is met on the walk keeps its byte offset. -/
def Pos.inPlace (from_ q : Pos) : Pos :=
  if from_.span = q.span ∧ from_.layer = q.layer then { q with offset := from_.offset } else q

theorem firstPendingFrom_offset (from_ : Pos) (spans : List Span) (i : Nat) :
    firstPendingFrom from_ i spans = (firstPendingFrom { from_ with offset := 0 } i spans).map from_.inPlace := by
  induction spans generalizing i with
  | nil => rfl
  | cons sp rest ih =>
    unfold firstPendingFrom
    dsimp only
    split
    · next e he =>
      rw [he]
      dsimp only [Option.map_some, Pos.inPlace]
      split <;> rfl
    · next he => rw [he]; exact ih (i + 1)

theorem nextPending_offset (spans : List Span) (from_ : Pos) :
    nextPending spans from_ = (nextPending spans { from_ with offset := 0 }).map from_.inPlace :=
  firstPendingFrom_offset from_ spans 0

section
variable {spans : List Span} {p : Pos}

theorem notBefore_iff {i j : Nat} : NotBefore p i j ↔ (i = p.span ∧ j = p.layer) ∨ WalkBefore p.span p.layer i j := by
  simp only [NotBefore, WalkBefore]
  omega

/-- R101: a position in a PENDING segment is the next piece from there. -/
theorem nextPending_of_pending (hp : PendingAt spans p.span p.layer) : nextPending spans p = some p := by
  have hstart : nextPending spans { p with offset := 0 } = some { p with offset := 0 } :=
    (nextPending_eq_some_iff rfl).mpr
      ⟨rfl, notBefore_iff.mpr (.inl ⟨rfl, rfl⟩), hp, fun i j l hno hbefore _ => absurd hbefore hno⟩
  rw [nextPending_offset, hstart]
  simp [Pos.inPlace]

/-- R113: from a segment that is PENDING no more the walk goes on behind it. -/
theorem firstPending_behind (hp : ¬ PendingAt spans p.span p.layer) {q : Pos} :
    FirstPending spans (NotBefore p) q ↔ FirstPending spans (WalkBefore p.span p.layer) q := by
  refine ⟨fun ⟨h0, hamong, hpending, hfirst⟩ => ⟨h0, ?_, hpending, fun i j l hij => ?_⟩,
    fun ⟨h0, hamong, hpending, hfirst⟩ => 
      ⟨h0, notBefore_iff.mpr (.inr hamong), hpending, fun i j l hij hbefore hl => ?_⟩⟩
  · rcases notBefore_iff.mp hamong with ⟨hi, hj⟩ | hbehind
    · rw [hi, hj] at hpending
      exact absurd hpending hp
    · exact hbehind
  · exact hfirst i j l (notBefore_iff.mpr (.inr hij))
  · rcases notBefore_iff.mp hij with ⟨rfl, rfl⟩ | hbehind
    · exact fun e => hp ⟨l, hl, e⟩
    · exact hfirst i j l hbehind hbefore hl

theorem nextPending_of_not_pending (hp : ¬ PendingAt spans p.span p.layer) {q : Pos} :
    nextPending spans p = some q ↔ FirstPending spans (WalkBefore p.span p.layer) q := by
  have hstart : ∀ r, nextPending spans { p with offset := 0 } = some r ↔
      FirstPending spans (WalkBefore p.span p.layer) r := fun r =>
    (nextPending_eq_some_iff rfl).trans (firstPending_behind (p := { p with offset := 0 }) hp)
  have hplace : ∀ r, FirstPending spans (WalkBefore p.span p.layer) r → p.inPlace r = r := by
    rintro r ⟨-, hbehind, -⟩
    refine if_neg fun hsame => ?_
    simp only [WalkBefore] at hbehind
    omega
  rw [nextPending_offset, Option.map_eq_some_iff]
  constructor
  · rintro ⟨r, hr, rfl⟩
    rw [hplace r ((hstart r).mp hr)]
    exact (hstart r).mp hr
  · exact fun hq => ⟨q, (hstart q).mpr hq, hplace q hq⟩
end

/-- R101, R113: moving a place in the cursor to the next PENDING segment at or after it. -/
theorem cursorKept_bind (spans : List Span) (before : Option Pos) :
    CursorKept spans before (before.bind (nextPending spans)) := by
  refine ⟨fun h => by rw [h]; rfl, fun p hp => ⟨fun hpending => ?_, fun hno q => ?_⟩⟩ <;> rw [hp, Option.bind_some]
  · exact nextPending_of_pending hpending
  · exact nextPending_of_not_pending hno

/-! ### The bytes of a segment (R110, R111) -/

/-- Of the cells a write brings, the one at an offset holds the byte of that place. -/
theorem written_find (data : List Byte) {o i : Nat} (hi : o ≤ i) :
    (((data.zipIdx o).map fun e => (e.2, e.1)).find? (fun c : Host.Cell => c.1 == i)).map Prod.snd = data[i - o]? := by
  induction data generalizing o with
  | nil => rfl
  | cons b bs ih =>
    rw [List.zipIdx_cons, List.map_cons]
    by_cases h : o = i
    · subst h
      rw [List.find?_cons_of_pos (by simp), Nat.sub_self]
      rfl
    · rw [List.find?_cons_of_neg (by simpa using h), ih (by omega), show i - o = i - (o + 1) + 1 by omega]
      rfl

/-- R111: an offset in the range written reads the byte written there. -/
theorem writeBytes_inside (bytes : List Host.Cell) {o i : Nat} (data : List Byte) (hi : o ≤ i)
    (hi' : i < o + data.length) :
    ((writeBytes bytes o data).find? (fun c => c.1 == i)).map Prod.snd = data[i - o]? := by
  have hbelow : (bytes.filter fun c => decide (c.1 < o)).find? (fun c => c.1 == i) = none := by
    rw [List.find?_eq_none]
    intro c hc
    have := (List.mem_filter.mp hc).2
    simp only [decide_eq_true_eq] at this
    simp only [beq_iff_eq]
    omega
  have hmid := written_find data hi
  have hsome : data[i - o]? = some data[i - o] := List.getElem?_eq_getElem (by omega)
  unfold writeBytes
  rw [List.find?_append, List.find?_append, hbelow, Option.none_or]
  rw [hsome] at hmid ⊢
  obtain ⟨c, hc, e⟩ := Option.map_eq_some_iff.mp hmid
  rw [hc, Option.some_or, Option.map_some, e]

/-- R110: the bytes taken are those that came, further ones discarded, missing ones 0. -/
theorem takenBytes_getElem? {count j : Nat} (data : List Byte) (hj : j < count) :
    (takenBytes count data)[j]? = some (data.getD j 0) := by
  unfold takenBytes
  rw [List.getElem?_append, List.length_take, List.getD_eq_getElem?_getD]
  split
  · next h => rw [List.getElem?_take_of_lt hj, List.getElem?_eq_getElem (by omega), Option.getD_some]
  · next h =>
    rw [List.getElem?_replicate, if_pos (by omega), List.getElem?_eq_none (by omega), Option.getD_none]

section
variable {sp : Span} {l : Layer} {address : Nat}

/-- R111: the fields of a PENDING segment after its bytes have come. -/
theorem Layer.receive_of_pending (hp : l.status = .pending) (data : List Byte) : l.receive sp address data =
    { l with
      bytes := (l.receive sp address data).bytes
      arrived := l.arrived + data.length
      status := if l.arrived + data.length = segmentLength sp l then .filled else .pending } := by
  simp only [Layer.receive, hp, true_and]

/-- R110, R111: the bytes that stand in it. -/
theorem Layer.receive_byteAt? (ha : l.firstByte ≤ address) (count : Nat) (data : List Byte) (i : Nat) :
    (l.receive sp address (takenBytes count data)).byteAt? i =
      if address ≤ l.firstByte + i ∧ l.firstByte + i < address + count then
        some (data.getD (l.firstByte + i - address) 0)
      else l.byteAt? i := by
  unfold Layer.byteAt? Layer.receive
  dsimp only
  split
  · next h =>
    have hplace : i - (address - l.firstByte) = l.firstByte + i - address := by omega
    rw [writeBytes_inside _ _ (by omega) (by rw [takenBytes_length]; omega), hplace]
    exact takenBytes_getElem? data (by omega)
  · next h => rw [writeBytes_outside _ _ _ _ (by rw [takenBytes_length]; omega)]
end

/-! ### The slot with its segment changed -/

section
variable (h : HeadId) (k : SlotNo) (a : ActiveLine) (s : State)

theorem putContent_head : (putContent h k a s).head h =
    { s.head h with
      slots := (s.head h).slots.set k (.active a.settle)
      cursor := (s.head h).cursor.set k ((s.head h).cursor[k].bind (nextPending a.spans)) } := by
  rw [putContent, setSlot_head, if_pos rfl]

@[simp] theorem putContent_window (w : WindowId) : (putContent h k a s).window w = s.window w := rfl

theorem putContent_quiet (blank : ClientId → NoticeRecord → NoticeRecord) :
    QuietFrame blank h s (putContent h k a s) := setSlot_quiet blank h s _ _ _

/-- Of its head, the other slots keep their content and their places in the cursor. -/
theorem putContent_slots : ((putContent h k a s).head h).slots[k] = .active a.settle ∧
    ((putContent h k a s).head h).cursor[k] = (s.head h).cursor[k].bind (nextPending a.spans) ∧
    ∀ j : SlotNo, j ≠ k → ((putContent h k a s).head h).slots[j] = (s.head h).slots[j] ∧
      ((putContent h k a s).head h).cursor[j] = (s.head h).cursor[j] := by
  rw [putContent_head]
  refine ⟨by simp, by simp, fun j hj => ?_⟩
  have hval : k.val ≠ j.val := fun e => hj (Fin.ext e.symm)
  exact ⟨Vector.getElem_set_ne k.isLt j.isLt hval, Vector.getElem_set_ne k.isLt j.isLt hval⟩
end

/-! ### The OK response -/

theorem releaseRef_refs (s : State) (w x : WindowId) :
    ((releaseRef w s).window x).refs = (s.window x).refs - if x = w then 1 else 0 := by
  rw [releaseRef_window]
  by_cases hx : w = x
  · subst hx; rw [if_pos rfl, if_pos rfl]
  · rw [if_neg hx, if_neg (Ne.symm hx), Nat.sub_zero]

section
variable {s : State} {t : TagNo} {tg : Tag} {a : ActiveLine} {sp : Span}

theorem respondTag_ok (htag : s.tag t = tg) (ht : tg.state = .active)
    (ha : (s.head tg.head).slots[tg.slot] = .active a) (hsp : a.spans[tg.span]? = some sp) (data : List Byte) :
    respondTag t .ok data s = freeTag t (putContent tg.head tg.slot
      { a with spans :=
          modifyLayer (Layer.receive sp tg.address (takenBytes tg.byteCount data)) a.spans tg.span tg.layer } s) := by
  simp only [respondTag, okResponse, htag, ht, ha, hsp]
end

/-- Settles O41: the slot has its segment changed by `Layer.receive`, and then the tag is freed. -/
theorem okResponseFillsTheSegment : Obligations.OkResponseFillsTheSegment := by
  intro s earlier final tg a sp l hreset hok htag ht ha hsp hl hp haddr
  let data := (earlier ++ [final]).flatMap Beat.data
  let f := Layer.receive sp tg.address (takenBytes tg.byteCount data)
  let a' : ActiveLine := { a with spans := modifyLayer f a.spans tg.span tg.layer }
  let v := putContent tg.head tg.slot a' s
  let u := freeTag final.tag v
  have hwin : (v.tag final.tag).window = tg.window := by rw [← htag]; rfl
  have hput : QuietFrame (fun _ r => r) tg.head s v := putContent_quiet _ _ _ _ _
  have hquiet : QuietFrame (fun _ r => r) tg.head s u := hput.trans (htag ▸ freeTag_quiet (s := v) (t := final.tag) _)
  have hhead : u.head tg.head = { v.head tg.head with commitQueue := queueLeft s u tg.head } := by
    have hfollow : HeadKept v u tg.head := freeTag_queuesFollow.heads tg.head
    rw [HeadKept] at hfollow
    rw [← hquiet.queue, hfollow]
  obtain ⟨hslot, hcursor, hothers⟩ := putContent_slots tg.head tg.slot a' s
  refine ⟨u, a'.settle, { sp with layers := sp.layers.modify tg.layer f }, f l, ?_, fun i => ?_, fun w => ?_, ?_, ?_,
    ?_, ?_, fun i => Layer.receive_byteAt? haddr _ _ i, fun i j hne => ?_, lineKept_modifyLayer f a _ _, ?_,
    hquiet.kept, ?_, hquiet.noticesKept fun _ _ _ e => e, hquiet.side, hquiet.served, hquiet.others, fun j hj => ?_, ?_⟩
  · rw [exec_responseArrival hreset, hok, respondTag_ok htag ht ha hsp]
  · rw [freeTag_tag, show v.tag final.tag = tg from htag]
    exact if_congr eq_comm rfl rfl
  · rw [freeTag_window, hwin]
    exact releaseRef_refs v tg.window w
  · rw [hhead]; exact hslot
  · rw [ActiveLine.settle_eq]
    exact (modifyLayer_getElem? f a.spans _ _ _).trans (by rw [hsp]; simp)
  · simp [hl]
  · have hfields := Layer.receive_of_pending (sp := sp) (address := tg.address) hp (takenBytes tg.byteCount data)
    rwa [takenBytes_length] at hfields
  · rw [ActiveLine.settle_eq]
    exact layerAt_modifyLayer_of_ne f a.spans _ _ hne
  · rw [hhead, ActiveLine.settle_eq]
    exact hcursor ▸ cursorKept_bind a'.spans _
  · have hfrees := releaseRefs_freesReleased (v.setTag final.tag { v.tag final.tag with state := .free }) [tg.window]
    rw [show u = releaseRefs [tg.window] _ by rw [← hwin]; rfl]
    exact hfrees.of_start (fun _ => rfl) (fun _ => rfl) fun _ => rfl
  · rw [hhead]; exact hothers j hj
  · rw [hhead, show v.head tg.head = _ from putContent_head tg.head tg.slot a' s]

end Sys2Proof.Machine
end

section
/-! A response with status ERROR for an ACTIVE tag (R113, R4). -/

namespace Sys2Proof.Machine

/-! ### The fault of a window (R4) -/

/-- R4: the life of a window after a request of it fails: its first fault is kept. -/
def Life.failAt (address : Nat) : Life → Life
  | .live hd img fault => .live hd img (some (fault.getD address))
  | .retiring hd img fault => .retiring hd img (some (fault.getD address))
  | l => l

@[simp] theorem Life.held?_failAt (address : Nat) (l : Life) : (l.failAt address).held? = l.held? := by
  cases l <;> rfl

@[simp] theorem Life.isRetiring_failAt (address : Nat) (l : Life) : (l.failAt address).isRetiring = l.isRetiring := by
  cases l <;> rfl

@[simp] theorem Life.failAt_eq_free (address : Nat) (l : Life) : l.failAt address = .free ↔ l = .free := by
  cases l <;> simp [Life.failAt]

/-- The two things a failed request can do to its window: it is told of as the first, or it leaves all. -/
theorem setFault_cases (w : WindowId) (address : Nat) (s : State) :
    (∃ hd, (s.window w).life.held? = some hd ∧ (s.window w).life.fault? = none ∧ setFault w address s =
      notify hd.owner (.fetchFault w) (s.setWindow w { s.window w with life := (s.window w).life.failAt address })) ∨
    (((s.window w).life.liveImage? = none ∨ (s.window w).life.fault? ≠ none) ∧ setFault w address s = s ∧
      (s.window w).life.failAt address = (s.window w).life) := by
  unfold setFault
  dsimp only
  cases (s.window w).life with
  | free => exact .inr ⟨.inl rfl, rfl, rfl⟩
  | reserved hd => exact .inr ⟨.inl rfl, rfl, rfl⟩
  | live hd img fault =>
    cases fault with
    | none => exact .inl ⟨hd, rfl, rfl, rfl⟩
    | some f => exact .inr ⟨.inr nofun, rfl, rfl⟩
  | retiring hd img fault =>
    cases fault with
    | none => exact .inl ⟨hd, rfl, rfl, rfl⟩
    | some f => exact .inr ⟨.inr nofun, rfl, rfl⟩

section
variable (w : WindowId) (address : Nat) (s : State)

theorem setFault_window (x : WindowId) : (setFault w address s).window x =
    if w = x then { s.window w with life := (s.window w).life.failAt address } else s.window x := by
  rcases setFault_cases w address s with ⟨hd, -, -, e⟩ | ⟨-, e, hl⟩ <;> rw [e]
  · rw [notify_window, State.window_setWindow]
  · split
    · next hx => subst hx; rw [hl]
    · rfl

@[simp] theorem setFault_client (c : ClientId) : (setFault w address s).client c = s.client c := by
  rcases setFault_cases w address s with ⟨hd, -, -, e⟩ | ⟨-, e, -⟩ <;> rw [e]; rfl
@[simp] theorem setFault_head (h : HeadId) : (setFault w address s).head h = s.head h := by
  rcases setFault_cases w address s with ⟨hd, -, -, e⟩ | ⟨-, e, -⟩ <;> rw [e]; rfl
@[simp] theorem setFault_tag (t : TagNo) : (setFault w address s).tag t = s.tag t := by
  rcases setFault_cases w address s with ⟨hd, -, -, e⟩ | ⟨-, e, -⟩ <;> rw [e]; rfl

theorem setFault_keepsHost : KeepsHost s (setFault w address s) := by
  rcases setFault_cases w address s with ⟨hd, -, -, e⟩ | ⟨-, e, -⟩ <;> rw [e]
  · exact (setWindow_keepsHost s _ _).trans (notify_keepsHost _ _ _)
  · exact .refl s

/-- R4, R152: FETCH_FAULT for the owner, when the fault was absent. -/
theorem setFault_notice {hd : Held} {img : Image} {fault : Option Nat}
    (hl : (s.window w).life = .live hd img fault ∨ (s.window w).life = .retiring hd img fault) (c : ClientId) :
    (setFault w address s).notice c = { s.notice c with
      fetchFault := if c = hd.owner ∧ fault = none then keepFirst (s.notice c).fetchFault (some w)
        else (s.notice c).fetchFault } := by
  have hfields : (s.window w).life.held? = some hd ∧ (s.window w).life.fault? = fault ∧
      (s.window w).life.liveImage? = some img := by
    rcases hl with e | e <;> rw [e] <;> exact ⟨rfl, rfl, rfl⟩
  obtain ⟨hheld, hfault, himg⟩ := hfields
  rcases setFault_cases w address s with ⟨hd', hh, hnone, e⟩ | ⟨hno, e, -⟩ <;> rw [e]
  · obtain rfl : hd' = hd := Option.some.inj (hh.symm.trans hheld)
    rw [notify_notice, State.notice_setWindow, State.notice_setWindow, ← hfault]
    by_cases hc : hd'.owner = c
    · subst hc
      rw [if_pos rfl, if_pos ⟨rfl, hnone⟩, NoticeRecord.set, firstSubject_eq]
    · rw [if_neg hc, if_neg fun h => hc h.1.symm]
  · rw [if_neg]
    rintro ⟨-, hnone⟩
    rcases hno with h | h
    · rw [himg] at h; cases h
    · exact h (hfault.trans hnone)
end

/-! ### The segment that fails (R113) -/

/-- Tag `u` serves the same segment as tag `t`. -/
def Tag.sameSegment (t u : Tag) : Bool :=
  u.head == t.head && u.slot == t.slot && u.span == t.span && u.layer == t.layer

/-- R113: the segment of tag `t`, in the slot with content `a`, ABSENT, and its reference released. -/
def segmentAbsent (t : TagNo) (a : ActiveLine) (s : State) : State :=
  let tg := s.tag t
  (putContent tg.head tg.slot
      { a with spans := modifyLayer (fun l => { l with status := .absent }) a.spans tg.span tg.layer } s).setWindow
    tg.window { s.window tg.window with refs := (s.window tg.window).refs - 1 }

/-- R113: an ERROR response for a tag of a PENDING segment, up to the release of the tag's own reference: the
segment's tags are STALE and this one FREE, and the fault is set. -/
def segmentFailed (t : TagNo) (a : ActiveLine) (s : State) : State :=
  let tg := s.tag t
  (setFault tg.window tg.address (staleTags tg.sameSegment (segmentAbsent t a s))).setTag t { tg with state := .free }

section
variable {t : TagNo} {a : ActiveLine} {s : State} {l : Layer}

/-- R16: a release that does not bring the references to 0. -/
theorem releaseRef_of_refs {w : WindowId} (h : 2 ≤ (s.window w).refs) :
    releaseRef w s = s.setWindow w { s.window w with refs := (s.window w).refs - 1 } := by
  rcases releaseRef_cases s w with ⟨-, h0, -⟩ | ⟨-, e⟩
  · omega
  · exact e

theorem dropSegment_of_pending {h : HeadId} {k : SlotNo} {i j : Nat} (ha : (s.head h).slots[k] = .active a)
    (hl : layerAt a.spans i j = some l) (hp : l.status = .pending) :
    dropSegment h k i j s = releaseRef l.window
      (putContent h k { a with spans := modifyLayer (fun l => { l with status := .absent }) a.spans i j } s) := by
  simp only [dropSegment, ha, hl, hp, if_neg (show ¬ SegStatus.pending = .absent by decide)]

theorem errorResponse_eq (t : TagNo) (s : State) : errorResponse t s =
    freeTag t (setFault (s.tag t).window (s.tag t).address (staleTags (s.tag t).sameSegment
      (dropSegment (s.tag t).head (s.tag t).slot (s.tag t).span (s.tag t).layer s))) := rfl

theorem segmentAbsent_eq (ha : (s.head (s.tag t).head).slots[(s.tag t).slot] = .active a)
    (hl : layerAt a.spans (s.tag t).span (s.tag t).layer = some l) (hp : l.status = .pending)
    (hw : l.window = (s.tag t).window) (hrefs : 2 ≤ (s.window (s.tag t).window).refs) :
    dropSegment (s.tag t).head (s.tag t).slot (s.tag t).span (s.tag t).layer s = segmentAbsent t a s := by
  rw [dropSegment_of_pending ha hl hp, hw, releaseRef_of_refs (by rwa [putContent_window]), putContent_window]
  rfl

@[simp] theorem segmentAbsent_tag (i : TagNo) : (segmentAbsent t a s).tag i = s.tag i := rfl
@[simp] theorem segmentAbsent_client (c : ClientId) : (segmentAbsent t a s).client c = s.client c := rfl
@[simp] theorem segmentAbsent_notice (c : ClientId) : (segmentAbsent t a s).notice c = s.notice c := rfl
theorem segmentAbsent_head (x : HeadId) : (segmentAbsent t a s).head x = (putContent (s.tag t).head (s.tag t).slot
    { a with spans := modifyLayer (fun l => { l with status := .absent }) a.spans (s.tag t).span (s.tag t).layer }
    s).head x := rfl
theorem segmentAbsent_window (x : WindowId) : (segmentAbsent t a s).window x =
    if (s.tag t).window = x then { s.window x with refs := (s.window x).refs - 1 } else s.window x := by
  refine (State.window_setWindow _ _ _ _).trans ?_
  split
  · next e => rw [e]
  · rfl

/-- R113: an ERROR response is `segmentFailed` and the release of the tag's reference. -/
theorem respondTag_error (ht : (s.tag t).state = .active)
    (ha : (s.head (s.tag t).head).slots[(s.tag t).slot] = .active a)
    (hl : layerAt a.spans (s.tag t).span (s.tag t).layer = some l) (hp : l.status = .pending)
    (hw : l.window = (s.tag t).window) (hrefs : 2 ≤ (s.window (s.tag t).window).refs) (data : List Byte) :
    respondTag t .error data s = releaseRef (s.tag t).window (segmentFailed t a s) := by
  have hstale : (staleTags (s.tag t).sameSegment (segmentAbsent t a s)).tag t = { s.tag t with state := .stale } := by
    rw [staleTags_tag, segmentAbsent_tag, if_pos ⟨ht, by simp [Tag.sameSegment]⟩]
  simp only [respondTag, ht]
  rw [errorResponse_eq, segmentAbsent_eq ha hl hp hw hrefs, freeTag, setFault_tag, hstale]
  rfl

/-- R113: the tags after it. -/
theorem segmentFailed_tag (i : TagNo) : (segmentFailed t a s).tag i =
    if t = i then { s.tag t with state := .free }
    else if (s.tag i).state = .active ∧ (s.tag t).sameSegment (s.tag i) then { s.tag i with state := .stale }
    else s.tag i := by
  rw [segmentFailed, State.tag_setTag, setFault_tag, staleTags_tag, segmentAbsent_tag]

theorem segmentFailed_window (x : WindowId) : (segmentFailed t a s).window x =
    if (s.tag t).window = x then
      { life := (s.window x).life.failAt (s.tag t).address, refs := (s.window x).refs - 1 }
    else s.window x := by
  rw [segmentFailed, State.window_setTag, setFault_window, staleTags_window, staleTags_window, segmentAbsent_window,
    segmentAbsent_window]
  split
  · next e => subst e; rw [if_pos rfl]
  · rfl

@[simp] theorem segmentFailed_client (c : ClientId) : (segmentFailed t a s).client c = s.client c := by
  rw [segmentFailed, State.client_setTag, setFault_client, staleTags_client, segmentAbsent_client]

theorem segmentFailed_head (x : HeadId) : (segmentFailed t a s).head x = (segmentAbsent t a s).head x := by
  rw [segmentFailed, State.head_setTag, setFault_head, staleTags_head]

theorem segmentFailed_notice {hd : Held} {img : Image} {fault : Option Nat}
    (hl : (s.window (s.tag t).window).life = .live hd img fault ∨
      (s.window (s.tag t).window).life = .retiring hd img fault) (c : ClientId) :
    (segmentFailed t a s).notice c = { s.notice c with
      fetchFault := if c = hd.owner ∧ fault = none then keepFirst (s.notice c).fetchFault (some (s.tag t).window)
        else (s.notice c).fetchFault } := by
  have hlife : (staleTags (s.tag t).sameSegment (segmentAbsent t a s)).window (s.tag t).window = _ :=
    segmentAbsent_window _
  rw [if_pos rfl] at hlife
  rw [segmentFailed, State.notice_setTag, setFault_notice _ _ _ (by rw [hlife]; exact hl), staleTags_notice,
    segmentAbsent_notice]

theorem segmentFailed_keepsHost : KeepsHost s (segmentFailed t a s) :=
  (((setSlot_keepsHost s _ _ _ _).trans (setWindow_keepsHost _ _ _)).trans (staleTags_keepsHost _ _)).trans
    ((setFault_keepsHost _ _ _).trans (setTag_keepsHost _ _ _))

/-- The kind that a failed request may set. -/
def faultBlank (_ : ClientId) (r : NoticeRecord) : NoticeRecord := { r with fetchFault := none }

/-- Apart from the fault, nothing but the head's slot, its tags and FETCH_FAULT has changed. -/
theorem segmentFailed_quiet {hd : Held} {img : Image} {fault : Option Nat}
    (hl : (s.window (s.tag t).window).life = .live hd img fault ∨
      (s.window (s.tag t).window).life = .retiring hd img fault) :
    QuietFrame faultBlank (s.tag t).head
      (s.setWindow (s.tag t).window
        { s.window (s.tag t).window with life := (s.window (s.tag t).window).life.failAt (s.tag t).address })
      (segmentFailed t a s) := by
  have hkeeps := segmentFailed_keepsHost (t := t) (a := a) (s := s)
  have hhead := segmentFailed_head (t := t) (a := a) (s := s)
  refine .of_states_kept ⟨hkeeps.1, hkeeps.2, hkeeps.3, hkeeps.4, hkeeps.5, hkeeps.6, hkeeps.7⟩
    (fun c => by rw [segmentFailed_client]; rfl) (fun x hx => ?_) ?_ ?_ (fun i hi => ?_) (fun x _ => ?_) fun c => ?_
  · rw [hhead]
    exact (setSlot_head _ _ _ _ _ _).trans (if_neg (Ne.symm hx))
  · rw [hhead, segmentAbsent_head, putContent_head]; rfl
  · rw [hhead, segmentAbsent_head, putContent_head]; rfl
  · rw [State.tag_setWindow] at hi ⊢
    rw [segmentFailed_tag, if_neg (fun e => hi (by rw [e])), if_neg]
    rintro ⟨-, hsame⟩
    simp only [Tag.sameSegment, Bool.and_eq_true, beq_iff_eq] at hsame
    exact hi hsame.1.1.1
  · rw [segmentFailed_window, State.window_setWindow]
    split
    · next e => subst e; rfl
    · rfl
  · rw [segmentFailed_notice hl]
    exact ⟨rfl, rfl, rfl⟩
end

/-! ### The release of the tag's reference -/

section
variable {s : State} {w : WindowId} {c : ClientId}

/-- R13: where the window stays, and for a client that is not CLOSING, FETCH_FAULT stays. -/
theorem releaseRef_fetchFault_of_kept
    (h : (s.client c).state ≠ .closing ∨ ¬ ((s.window w).life.isRetiring = true ∧ (s.window w).refs - 1 = 0)) :
    ((releaseRef w s).notice c).fetchFault = (s.notice c).fetchFault := by
  rcases h with hc | hno
  · have hkinds := (releaseRef_quiet (fun _ r => r) 0 s w).kinds c hc
    exact (NoticeRecord.mk.inj hkinds).2.2.2.1
  · rcases releaseRef_cases s w with ⟨hr, h0, -⟩ | ⟨-, e⟩
    · exact absurd ⟨hr, h0⟩ hno
    · rw [e, State.notice_setWindow]

/-- R144: so it does for a client that is not the owner. -/
theorem releaseRef_fetchFault_of_other (h : (s.window w).owner? ≠ some c) :
    ((releaseRef w s).notice c).fetchFault = (s.notice c).fetchFault := by
  have haside : ∀ (u : State) (d : ClientId), d ≠ c → (u.notice c).fetchFault = (s.notice c).fetchFault →
      ((dropHeld d u).notice c).fetchFault = (s.notice c).fetchFault := fun u d hd hu => by
    obtain ⟨-, hnotice, -⟩ := dropHeld_aside (s := u) hd
    rw [hnotice, hu]
  rcases releaseRef_cases s w with ⟨hr, -, e⟩ | ⟨-, e⟩ <;> rw [e]
  · obtain ⟨hd, img, f, hl⟩ := Life.eq_retiring hr
    have hne : hd.owner ≠ c := fun ho => h (by rw [Window.owner?, hl, ← ho]; rfl)
    unfold freeWindow
    rw [State.window_setWindow_self, hl]
    refine haside _ _ hne ?_
    rw [notify_notice, if_neg hne]
    rfl
  · rw [State.notice_setWindow]

/-- Nothing freed is nothing reported. -/
theorem reportsFreed_nil {u : State} (hc : ∀ c, u.client c = s.client c)
    (hr : ∀ c, (u.notice c).retired = (s.notice c).retired) : ReportsFreed s u [] := by
  intro c mine hmine counted
  obtain rfl : mine = [] := hmine
  have hcounted : counted := ⟨hc c, (hr c).trans (keepFirst_none _).symm⟩
  exact ⟨fun _ => hcounted, fun _ _ _ => ⟨fun _ => hcounted, fun hne => absurd rfl hne⟩⟩

/-- R13: where only one window may change its life, the windows freed are that one or none. -/
theorem freedIn_of_others {u : State} (hw : (s.window w).life ≠ .free) (ho : ∀ x, x ≠ w → u.window x = s.window x) :
    freedIn s u = if (u.window w).life = .free then [w] else [] := by
  have hmem : ∀ x, x ∈ freedIn s u ↔ x = w ∧ (u.window w).life = .free := fun x => by
    simp only [freedIn, allWindows, List.mem_filter, List.mem_finRange, true_and, decide_eq_true_eq]
    by_cases hx : x = w
    · subst hx; simp [hw]
    · rw [ho x hx]; simp [hx]
  split
  · next hf =>
    have hnd : (freedIn s u).Nodup := (List.nodup_finRange 48).filter _
    exact List.perm_singleton.mp ((List.perm_ext_iff_of_nodup hnd (List.nodup_singleton w)).mpr fun x => by
      rw [hmem, List.mem_singleton, and_iff_left hf])
  · next hf => exact List.eq_nil_iff_forall_not_mem.mpr fun x hx => hf ((hmem x).mp hx).2
end

section
variable {t : TagNo} {a : ActiveLine} {s : State}

/-- R113, R13: the windows after an ERROR response that finds at least two references. -/
theorem segmentFailed_release_window (hrefs : 2 ≤ (s.window (s.tag t).window).refs) (x : WindowId) :
    (releaseRef (s.tag t).window (segmentFailed t a s)).window x = if x = (s.tag t).window then
      { life := if (s.window x).life.isRetiring = true ∧ (s.window x).refs = 2 then .free
          else (s.window x).life.failAt (s.tag t).address
        refs := (s.window x).refs - 2 } else s.window x := by
  rw [releaseRef_window, segmentFailed_window, segmentFailed_window, if_pos rfl]
  by_cases hx : x = (s.tag t).window
  · subst hx
    have htwo : (s.window (s.tag t).window).refs - 2 = 0 ↔ (s.window (s.tag t).window).refs = 2 := by omega
    rw [if_pos rfl, if_pos rfl, Life.isRetiring_failAt]
    simp only [Nat.sub_sub, Nat.reduceAdd, htwo]
  · rw [if_neg hx, if_neg (Ne.symm hx), if_neg (Ne.symm hx)]

/-- R13: the release of the tag's reference frees the window when it is RETIRING and had two. -/
theorem segmentFailed_frees_iff (hrefs : 2 ≤ (s.window (s.tag t).window).refs) :
    (((segmentFailed t a s).window (s.tag t).window).life.isRetiring = true ∧
        ((segmentFailed t a s).window (s.tag t).window).refs - 1 = 0) ↔
      ((s.window (s.tag t).window).life.isRetiring = true ∧ (s.window (s.tag t).window).refs = 2) := by
  rw [segmentFailed_window, if_pos rfl, Life.isRetiring_failAt]
  refine and_congr_right fun _ => ?_
  show (s.window (s.tag t).window).refs - 1 - 1 = 0 ↔ _
  omega

theorem segmentFailed_owner (x : WindowId) : ((segmentFailed t a s).window x).owner? = (s.window x).owner? := by
  rw [Window.owner?, Window.owner?, segmentFailed_window]
  split
  · rw [Life.held?_failAt]
  · rfl

/-- R11, R18, R144: what the owner is told. -/
theorem segmentFailed_release_reports {hd : Held} {img : Image} {fault : Option Nat}
    (hrefs : 2 ≤ (s.window (s.tag t).window).refs)
    (hl : (s.window (s.tag t).window).life = .live hd img fault ∨
      (s.window (s.tag t).window).life = .retiring hd img fault) :
    ReportsFreed s (releaseRef (s.tag t).window (segmentFailed t a s))
      (freedIn s (releaseRef (s.tag t).window (segmentFailed t a s))) := by
  have hretired : ∀ c, ((segmentFailed t a s).notice c).retired = (s.notice c).retired := fun c => by
    rw [segmentFailed_notice hl]
  have hne : (s.window (s.tag t).window).life ≠ .free := by rcases hl with e | e <;> rw [e] <;> nofun
  have hwindow := segmentFailed_release_window (a := a) hrefs
  rw [freedIn_of_others hne fun x hx => (hwindow x).trans (if_neg hx), hwindow, if_pos rfl]
  rcases releaseRef_cases (segmentFailed t a s) (s.tag t).window with ⟨hr, h0, -⟩ | ⟨hno, e⟩
  · have hfree := (segmentFailed_frees_iff hrefs).mp ⟨hr, h0⟩
    have h1 : ((segmentFailed t a s).window (s.tag t).window).refs = 1 := by
      rw [segmentFailed_window, if_pos rfl]
      show (s.window (s.tag t).window).refs - 1 = 1
      omega
    rw [if_pos (by rw [if_pos hfree])]
    exact (releaseRef_reportsFreed hr h1).of_start (fun c => (segmentFailed_client c).symm)
      (fun x => (segmentFailed_owner x).symm) fun c => (hretired c).symm
  · rw [segmentFailed_frees_iff hrefs] at hno
    rw [if_neg (by rw [if_neg hno, Life.failAt_eq_free]; exact hne), e]
    exact reportsFreed_nil (fun c => segmentFailed_client c) hretired
end

/-- Settles O42: an ERROR response is `segmentFailed`, in which the first of two references is released, and the
release of the other. -/
theorem errorResponseDropsTheSegment : Obligations.ErrorResponseDropsTheSegment := by
  rintro s earlier final _ a l hd img fault hreset herr rfl ht ha hl hp hw hrefs hlife
  let tg := s.tag final.tag
  let f : Layer → Layer := fun l => { l with status := .absent }
  let a' : ActiveLine := { a with spans := modifyLayer f a.spans tg.span tg.layer }
  let v := segmentFailed final.tag a s
  let u := releaseRef tg.window v
  have hquiet := (segmentFailed_quiet (a := a) hlife).trans (releaseRef_quiet faultBlank tg.head v tg.window)
  have hkept := hquiet.noticesKept (f := fun r => { r with fetchFault := none }) fun _ _ _ e => e
  have hside := hquiet.side
  have hwindow := segmentFailed_release_window (a := a) hrefs
  have hself : u.window tg.window = _ := (hwindow tg.window).trans (if_pos rfl)
  have hhead : u.head tg.head = { (putContent tg.head tg.slot a' s).head tg.head with
      commitQueue := queueLeft s u tg.head } := by
    have hfollow : HeadKept v u tg.head := (releaseRef_queuesFollow v tg.window).heads tg.head
    have hqueue : (u.head tg.head).commitQueue = queueLeft s u tg.head := hquiet.queue
    rw [HeadKept, segmentFailed_head, segmentAbsent_head] at hfollow
    rw [← hqueue, hfollow]
  obtain ⟨hslot, hcursor, hslots⟩ := putContent_slots tg.head tg.slot a' s
  refine ⟨u, a'.settle, ?_, ?_, fun i hi => ?_, ?_, ?_, fun i j hne => ?_, lineKept_modifyLayer f a _ _, ?_, ?_,
    fun e => ?_, fun e => ?_, fun hc => ?_, fun c hc => ?_, segmentFailed_release_reports hrefs hlife,
    ⟨hkept.kinds, hkept.tenants, hkept.told⟩, fun x hx => (hwindow x).trans (if_neg hx),
    ⟨hside.pending, hside.resetHeld, hside.readData, hside.channels, hside.pointer, hside.clients⟩, hquiet.served,
    hquiet.others, fun j hj => ?_, ?_⟩
  · rw [exec_responseArrival hreset, herr, respondTag_error ht ha hl hp hw hrefs]
  · rw [releaseRef_tag, segmentFailed_tag, if_pos rfl]
  · rw [releaseRef_tag, segmentFailed_tag, if_neg (Ne.symm hi)]
    simp only [Tag.sameSegment, Bool.and_eq_true, beq_iff_eq, and_assoc]
  · rw [hhead]; exact hslot
  · rw [ActiveLine.settle_eq]
    exact (layerAt_modifyLayer_self f a.spans _ _).trans (by rw [hl]; rfl)
  · rw [ActiveLine.settle_eq]
    exact layerAt_modifyLayer_of_ne f a.spans _ _ hne
  · rw [hhead, ActiveLine.settle_eq]
    exact hcursor ▸ cursorKept_bind a'.spans _
  · rw [hself]
  · rw [hself, e]; rfl
  · rw [hself, e]
    exact if_congr (and_iff_right rfl) rfl rfl
  · rw [releaseRef_fetchFault_of_kept, segmentFailed_notice hlife]
    · exact if_congr (and_iff_right rfl) rfl rfl
    · rw [segmentFailed_client, segmentFailed_frees_iff hrefs]
      refine hc.imp id fun hne hfree => hne ?_
      rw [hself]
      exact if_pos hfree
  · have howner : (s.window tg.window).owner? = some hd.owner := by
      rw [Window.owner?]
      rcases hlife with e | e <;> rw [e] <;> rfl
    rw [releaseRef_fetchFault_of_other, segmentFailed_notice hlife]
    · exact if_neg fun h => hc h.1
    · rw [segmentFailed_owner, howner]
      exact fun e => hc (Option.some.inj e).symm
  · rw [hhead]; exact hslots j hj
  · rw [hhead, putContent_head]

end Sys2Proof.Machine
end

section
/-! Pixel values, the key test and the widening (07): what the bytes of a segment give (R129 to R131, R133). -/

namespace Sys2Proof.Machine

/-! ### The value of a pixel (R129, R130) -/

/-- R111: an offset that holds a byte reads that byte. -/
theorem Layer.byteAt_of_byteAt? {l : Layer} {o : Nat} {b : Byte} (h : l.byteAt? o = some b) : l.byteAt o = b.toNat := by
  rw [Layer.byteAt?, Option.map_eq_some_iff] at h
  obtain ⟨c, hfind, rfl⟩ := h
  rw [Layer.byteAt, hfind]

theorem Layer.pixelValue_p16 {l : Layer} {o : Nat} (h : l.format = .p16) :
    l.pixelValue o = l.byteAt o + 256 * l.byteAt (o + 1) := by
  rw [Layer.pixelValue, h]

theorem Layer.pixelValue_p32 {l : Layer} {o : Nat} (h : l.format = .p32) :
    l.pixelValue o = l.byteAt o + 256 * l.byteAt (o + 1) + 65536 * l.byteAt (o + 2) := by
  rw [Layer.pixelValue, h]

/-! ### The key test (R131) -/

/-- R129, R130: how many values a pixel of the format can have, which is what the key is taken modulo. -/
def PixelFormat.values : PixelFormat → Nat
  | .p16 => 65536
  | .p32 => 16777216

/-- R131: a layer is transparent where its pixel has the value of its key in the format's range. -/
theorem Layer.transparentAt_iff (l : Layer) (o : Nat) :
    l.transparentAt o = true ↔ ∃ k, l.key = some k ∧ l.pixelValue o = k.toNat % l.format.values := by
  unfold Layer.transparentAt
  cases hkey : l.key with
  | none => simp
  | some k => cases hformat : l.format <;> simp [PixelFormat.values]

/-! ### The widening (R133) -/

theorem widen5_lt {c : Nat} (h : c < 32) : widen5 c < 256 := by
  unfold widen5
  omega

theorem widen6_lt {c : Nat} (h : c < 64) : widen6 c < 256 := by
  unfold widen6
  omega

/-- Components of 8 bits each stand beside each other in a colour. -/
theorem toNat_colourOf {red green blue : Nat} (hr : red < 256) (hg : green < 256) (hb : blue < 256) :
    (colourOf red green blue).toNat = 65536 * red + 256 * green + blue := by
  rw [colourOf, BitVec.toNat_ofNat]
  omega

/-- R133: a P16 value of 16 bits has components of 5, 6 and 5 bits, and each is widened. -/
theorem toNat_widenPixel_p16 {v : Nat} (h : v < 65536) : (widenPixel .p16 v).toNat =
    65536 * widen5 (v / 2048) + 256 * widen6 (v / 32 % 64) + widen5 (v % 32) :=
  toNat_colourOf (widen5_lt (by unfold p16Red; omega)) (widen6_lt (by unfold p16Green; omega))
    (widen5_lt (by unfold p16Blue; omega))

/-- R133: a P32 value of 24 bits is carried as it is. -/
theorem toNat_widenPixel_p32 {v : Nat} (h : v < 16777216) : (widenPixel .p32 v).toNat = v :=
  (BitVec.toNat_ofNat v 24).trans (Nat.mod_eq_of_lt h)

/-! ### Both formats -/

/-- Settles O48: the value of a pixel is that of its bytes, which is within the range of its format. -/
theorem pixelsAreKeyedAndWidened : Obligations.PixelsAreKeyedAndWidened := by
  refine ⟨fun l o b0 b1 hf h0 h1 => ?_, fun l o b0 b1 b2 hf h0 h1 h2 => ?_⟩
  · have hvalue : l.pixelValue o = b0.toNat + 256 * b1.toNat := by
      rw [Layer.pixelValue_p16 hf, Layer.byteAt_of_byteAt? h0, Layer.byteAt_of_byteAt? h1]
    refine ⟨hvalue, toNat_widenPixel_p16 (by omega), ?_⟩
    rw [Layer.transparentAt_iff, hvalue, hf, PixelFormat.values]
  · have hvalue : l.pixelValue o = b0.toNat + 256 * b1.toNat + 65536 * b2.toNat := by
      rw [Layer.pixelValue_p32 hf, Layer.byteAt_of_byteAt? h0, Layer.byteAt_of_byteAt? h1, Layer.byteAt_of_byteAt? h2]
    refine ⟨hvalue, ?_, ?_⟩
    · rw [toNat_widenPixel_p32 (by omega)]
      omega
    · rw [Layer.transparentAt_iff, hvalue, hf, PixelFormat.values]

end Sys2Proof.Machine
end

section
/-! Line assembly (07): the span that holds a position and the layer that makes the pixel there (R126 to R128, R132). -/

namespace Sys2Proof.Machine

/-! ### The span that holds a position (R127) -/

theorem spanAt_of_first {pre post : List Span} {sp : Span} {p : Nat}
    (hpre : ∀ q ∈ pre, ¬ (q.xStart ≤ p ∧ p ≤ q.xEnd)) (hlo : sp.xStart ≤ p) (hhi : p ≤ sp.xEnd) :
    spanAt (pre ++ sp :: post) p = some sp := by
  refine List.find?_eq_some_iff_append.mpr ⟨by simp [hlo, hhi], pre, post, rfl, fun q hq => ?_⟩
  simpa [-not_and, not_and_or] using hpre q hq

/-! ### The layer that makes the pixel (R132) -/

/-- R132: which layers show at a position: the FILLED ones that are not transparent there. -/
theorem Layer.showsAt_iff (l : Layer) (sp : Span) (p : Nat) :
    l.showsAt sp p = true ↔ l.status = .filled ∧ l.transparentAt ((p - sp.xStart) * l.format.bytes) = false := by
  rw [Layer.showsAt, pixelOffset, Bool.and_eq_true, beq_iff_eq, Bool.not_eq_true']

theorem spanPixel_of_none {sp : Span} {bg : Colour} {p : Nat} (h : ∀ l ∈ sp.layers, ¬ l.showsAt sp p = true) :
    spanPixel sp bg p = bg := by
  rw [spanPixel, List.find?_eq_none.mpr h]

theorem spanPixel_of_first {sp : Span} {bg : Colour} {p : Nat} {above below : List Layer} {l : Layer}
    (hl : sp.layers = above ++ l :: below) (habove : ∀ m ∈ above, ¬ m.showsAt sp p = true)
    (hshows : l.showsAt sp p = true) :
    spanPixel sp bg p = widenPixel l.format (l.pixelValue ((p - sp.xStart) * l.format.bytes)) := by
  have hfind : sp.layers.find? (fun m => m.showsAt sp p) = some l :=
    List.find?_eq_some_iff_append.mpr ⟨hshows, above, below, hl, fun m hm => by simpa using habove m hm⟩
  simp only [spanPixel, hfind, pixelOffset]

/-! ### The pixel of a head (R126) -/

/-- R126: without a showing slot the pixel is the background colour. -/
theorem Head.assembledPixel_of_none {hd : Head} {bg : Colour} (h : hd.showing = none) : hd.assembledPixel bg = bg := by
  rw [Head.assembledPixel, h]

/-- R126, R127: with a showing slot it is the pixel of the span that holds the output position. -/
theorem Head.assembledPixel_of_spanAt {hd : Head} {bg : Colour} {sh : Showing} {a : ActiveLine} {sp : Span}
    (hshowing : hd.showing = some sh) (hslot : hd.slots[sh.slot] = .active a)
    (hspan : spanAt a.spans sh.position = some sp) : hd.assembledPixel bg = spanPixel sp bg sh.position := by
  simp only [Head.assembledPixel, hshowing, hslot, spansPixel, hspan]

/-- Settles O49: the output position picks the span, and the walk of its layers from the top picks the pixel. -/
theorem firstVisibleLayerMakesThePixel : Obligations.FirstVisibleLayerMakesThePixel := by
  refine fun hd bg => ⟨Head.assembledPixel_of_none, ?_⟩
  intro sh a pre post sp hshowing hslot hspans hpre hlo hhi
  have hpixel : hd.assembledPixel bg = spanPixel sp bg sh.position :=
    Head.assembledPixel_of_spanAt hshowing hslot (hspans ▸ spanAt_of_first hpre hlo hhi)
  rw [hpixel]
  simp only [← Layer.showsAt_iff]
  exact ⟨spanPixel_of_none, fun above below l => spanPixel_of_first⟩

end Sys2Proof.Machine
end

section
/-! Proofs of the family of clients and apertures (08): who a client command names, OPEN_CLIENT, SET_APERTURE and
SET_HEADS. -/

namespace Sys2Proof.Machine

/-! ### The client a supervisor names (R137, R138) -/

section
variable {s : State} {t : Taken} {n : ClientId}

/-- R138: a client command from channel 0 that names a tenant does what its body does for that tenant. -/
theorem takeMessage_tenant (hc : t.client = 0) (hn : argNat t.message.args 0 = n.val) (h0 : n ≠ 0)
    (cmd : ClientId → Body) : takeMessage t (supervisorOnly (onTenant cmd)) s = takeMessage t (cmd n) s := by
  rw [takeMessage_supervisorOnly hc]
  simp only [takeMessage, onTenant, clientNamed_eq_some.mpr hn, if_neg h0]

/-- R137: one that names client 0 is refused. -/
theorem takeMessage_client0 (hc : t.client = 0) (hn : argNat t.message.args 0 = n.val) (h0 : n = 0)
    (cmd : ClientId → Body) :
    takeMessage t (supervisorOnly (onTenant cmd)) s = answered t (refusal .notPermitted) s := by
  subst h0
  rw [takeMessage_supervisorOnly hc]
  exact takeMessage_of_body (onTenant_notPermitted cmd (clientNamed_eq_some.mpr hn))
end

/-! ### Permitted heads and apertures (R136, 10.8) -/

theorem headSetNamed_eq_some {code : Nat} (h : code ≤ 3) :
    headSetNamed code = some ⟨code = 1 ∨ code = 3, code = 2 ∨ code = 3⟩ := by
  match code, h with
  | 0, _ => rfl
  | 1, _ => rfl
  | 2, _ => rfl
  | 3, _ => rfl

theorem headSetNamed_eq_none {code : Nat} (h : 3 < code) : headSetNamed code = none := by
  match code, h with
  | _ + 4, _ => rfl

theorem apertureNamed_eq_some {base limit : Nat} (h : base ≤ limit) (hl : limit ≤ 1048575) :
    apertureNamed base limit = some ⟨base, limit⟩ :=
  if_pos ⟨h.trans hl, hl, h⟩

theorem apertureNamed_eq_none {base limit : Nat} (h : 1048575 < base ∨ 1048575 < limit ∨ limit < base) :
    apertureNamed base limit = none := by
  refine if_neg ?_
  unfold lastGranule
  omega

/-! ### OPEN_CLIENT (R139, R140) -/

section
variable {s : State} {c n : ClientId} {args : List Word}

/-- R139: the first refusals. -/
theorem bodyOpenClient_busy (hs : (s.client n).state = .closing) :
    bodyOpenClient n c args s = (s, refusal .busy) := by
  simp only [bodyOpenClient, hs]

theorem bodyOpenClient_inUse (hs : (s.client n).state = .opened) :
    bodyOpenClient n c args s = (s, refusal .inUse) := by
  simp only [bodyOpenClient, hs]

/-- R139: a permitted heads value that names no set, or a quota above 48. -/
theorem bodyOpenClient_badCommand (hs : (s.client n).state = .closed)
    (h : 48 < argField args 1 7 0 ∨ 3 < argField args 1 15 8) :
    bodyOpenClient n c args s = (s, refusal .badCommand) := by
  by_cases hcode : argField args 1 15 8 ≤ 3
  · have hquota : maxQuota < argField args 1 7 0 := h.resolve_right (not_lt.mpr hcode)
    simp only [bodyOpenClient, hs, headSetNamed_eq_some hcode, if_pos hquota]
  · simp only [bodyOpenClient, hs, headSetNamed_eq_none (not_le.mp hcode)]

variable (hs : (s.client n).state = .closed) (hquota : argField args 1 7 0 ≤ 48) (hcode : argField args 1 15 8 ≤ 3)
include hs hquota hcode

/-- R139: the last refusal. -/
theorem bodyOpenClient_badSource (h : apertureNamed (argNat args 2) (argNat args 3) = none) :
    bodyOpenClient n c args s = (s, refusal .badSource) := by
  have hq : ¬ maxQuota < argField args 1 7 0 := not_lt.mpr hquota
  simp only [bodyOpenClient, hs, headSetNamed_eq_some hcode, if_neg hq, h]

/-- R140: the effect. -/
theorem bodyOpenClient_accepted {ap : Aperture} (h : apertureNamed (argNat args 2) (argNat args 3) = some ap) :
    bodyOpenClient n c args s = (openClient n (argField args 1 7 0) ap
      ⟨argField args 1 15 8 = 1 ∨ argField args 1 15 8 = 3, argField args 1 15 8 = 2 ∨ argField args 1 15 8 = 3⟩ s,
      accepted []) := by
  have hq : ¬ maxQuota < argField args 1 7 0 := not_lt.mpr hquota
  simp only [bodyOpenClient, hs, headSetNamed_eq_some hcode, if_neg hq, h]
end

/-- R170: consuming a message of another channel and replacing a channel can be done in either order. -/
theorem consume_setChannel {t : Taken} {s : State} {n : ClientId} (h : n ≠ t.client) (ch : Channel) :
    (consume t s).setChannel n ch = consume t (s.setChannel n ch) := by
  have hne : (n : Nat) ≠ t.client := fun e => h (Fin.ext e)
  simp only [consume, State.setChannel, State.channel, Fin.getElem_fin, Vector.getElem_set_ne _ _ hne,
    Vector.set_comm _ _ hne]

theorem consume_openClient {t : Taken} {s : State} {n : ClientId} (h : n ≠ t.client) (quota : Nat) (ap : Aperture)
    (heads : HeadSet) : openClient n quota ap heads (consume t s) = consume t (openClient n quota ap heads s) := by
  simp only [openClient, consume_setClient, consume_setChannel h]
  rfl

/-- Settles O24: for a tenant each clause is one branch of the body. -/
theorem openClientGrantsAndOpens : Obligations.OpenClientGrantsAndOpens := by
  intro s t n quota code base limit ht hc hn hquota hcode hbase hlimit
  subst hquota hcode hbase hlimit
  rw [exec_openClient ht]
  refine ⟨fun h0 => ?_, fun h0 hs => ?_, fun h0 hs => ?_, fun h0 hs hbad => ?_, fun h0 hs hq hh hbad => ?_,
    fun h0 hs hq hh hle hl => ?_⟩
  · rw [takeMessage_client0 hc hn h0]
  all_goals rw [takeMessage_tenant hc hn h0]
  · rw [takeMessage_of_body (bodyOpenClient_busy hs)]
  · rw [takeMessage_of_body (bodyOpenClient_inUse hs)]
  · rw [takeMessage_of_body (bodyOpenClient_badCommand hs hbad)]
  · rw [takeMessage_of_body (bodyOpenClient_badSource hs hq hh (apertureNamed_eq_none hbad))]
  · rw [takeMessage_of_body ((bodyOpenClient_accepted (s := consume t s) hs hq hh (apertureNamed_eq_some hle hl)).trans
      (by rw [consume_openClient (hc ▸ h0)]))]
    rfl

/-! ### SET_APERTURE (R146) -/

/-- R146: no image of a window leaves an aperture. -/
theorem Window.fits_eq_false {v : Window} {ap : Aperture} : v.fits ap = false ↔
    ∃ img, ((∃ hd, v.life.held? = some hd ∧ img = hd.staged.image) ∨ v.life.liveImage? = some img) ∧
      img.fits (some ap) = false := by
  unfold Window.fits
  rw [Bool.and_eq_false_iff]
  cases v.life.held? <;> cases v.life.liveImage? <;> simp [or_and_right, exists_or]

/-- R146: an image of a window of the client leaves the aperture. -/
theorem State.windowsFit_eq_false {s : State} {n : ClientId} {ap : Aperture} : s.windowsFit n ap = false ↔
    ∃ (w : WindowId) (hd : Held) (img : Image) (g : Geometry) (src : Source),
      (s.window w).life.held? = some hd ∧ hd.owner = n ∧
      (img = hd.staged.image ∨ (s.window w).life.liveImage? = some img) ∧
      img.geometry = some g ∧ img.source = some src ∧ ¬ ExtentWithin g src img.ringRows (some ap) := by
  have howner (w : WindowId) : (s.window w).owner? = some n ↔
      ∃ hd, (s.window w).life.held? = some hd ∧ hd.owner = n := by
    rw [Window.owner?, Option.map_eq_some_iff]
  simp only [State.windowsFit, allWindows, List.all_eq_false, List.mem_finRange, true_and, Bool.or_eq_true,
    bne_iff_ne, ne_eq, not_or, not_not, Bool.not_eq_true, Window.fits_eq_false, Image.fits_eq_false, howner]
  constructor
  · rintro ⟨w, ⟨hd, hheld, hown⟩, img, himg, g, src, hg, hsrc, hout⟩
    refine ⟨w, hd, img, g, src, hheld, hown, himg.imp_left ?_, hg, hsrc, hout⟩
    rintro ⟨hd', hheld', e⟩
    rw [e, Option.some.inj (hheld.symm.trans hheld')]
  · rintro ⟨w, hd, img, g, src, hheld, hown, himg, hg, hsrc, hout⟩
    exact ⟨w, ⟨hd, hheld, hown⟩, img, himg.imp_left fun e => ⟨hd, hheld, e⟩, g, src, hg, hsrc, hout⟩

section
variable {s : State} {c n : ClientId} {args : List Word}

theorem bodySetAperture_busy (hs : (s.client n).state = .closing) :
    bodySetAperture n c args s = (s, refusal .busy) := by
  simp only [bodySetAperture, hs]

theorem bodySetAperture_notPermitted (hs : (s.client n).state = .closed) :
    bodySetAperture n c args s = (s, refusal .notPermitted) := by
  simp only [bodySetAperture, hs]

theorem bodySetAperture_badSource (hs : (s.client n).state = .opened)
    (h : apertureNamed (argNat args 1) (argNat args 2) = none) :
    bodySetAperture n c args s = (s, refusal .badSource) := by
  simp only [bodySetAperture, hs, h]

variable {ap : Aperture} (hs : (s.client n).state = .opened)
  (h : apertureNamed (argNat args 1) (argNat args 2) = some ap)
include hs h

theorem bodySetAperture_aperture (hf : s.windowsFit n ap = false) :
    bodySetAperture n c args s = (s, refusal .aperture) := by
  simp only [bodySetAperture, hs, h, if_pos hf]

theorem bodySetAperture_accepted (hf : ¬ s.windowsFit n ap = false) :
    bodySetAperture n c args s = (s.setClient n { s.client n with aperture := some ap }, accepted []) := by
  simp only [bodySetAperture, hs, h, if_neg hf]
end

/-! ### SET_HEADS (R148) -/

/-- R148: the client holds a window on a head left out. -/
theorem State.holdsOutside_iff {s : State} {n : ClientId} {heads : HeadSet} : s.holdsOutside n heads = true ↔
    ∃ (w : WindowId) (hd : Held), (s.window w).life.held? = some hd ∧ hd.owner = n ∧
      heads.has hd.head = false := by
  simp only [State.holdsOutside, allWindows, List.any_eq_true, List.mem_finRange, true_and]
  refine exists_congr fun w => ?_
  cases (s.window w).life.held? <;> simp

section
variable {s : State} {c n : ClientId} {args : List Word}

theorem bodySetHeads_busy (hs : (s.client n).state = .closing) : bodySetHeads n c args s = (s, refusal .busy) := by
  simp only [bodySetHeads, hs]

theorem bodySetHeads_notPermitted (hs : (s.client n).state = .closed) :
    bodySetHeads n c args s = (s, refusal .notPermitted) := by
  simp only [bodySetHeads, hs]

theorem bodySetHeads_badCommand (hs : (s.client n).state = .opened) (h : headSetNamed (argNat args 1) = none) :
    bodySetHeads n c args s = (s, refusal .badCommand) := by
  simp only [bodySetHeads, hs, h]

variable {heads : HeadSet} (hs : (s.client n).state = .opened) (h : headSetNamed (argNat args 1) = some heads)
include hs h

theorem bodySetHeads_inUse (ho : s.holdsOutside n heads = true) :
    bodySetHeads n c args s = (s, refusal .inUse) := by
  simp only [bodySetHeads, hs, h, if_pos ho]

theorem bodySetHeads_accepted (ho : ¬ s.holdsOutside n heads = true) :
    bodySetHeads n c args s = (s.setClient n { s.client n with heads := heads }, accepted []) := by
  simp only [bodySetHeads, hs, h, if_neg ho]
end

/-- Settles O26: for a tenant each clause is one branch of its body, with the images that leave the aperture, and the
windows on a head left out, found window by window. -/
theorem apertureAndHeadsAreReplaced : Obligations.ApertureAndHeadsAreReplaced := by
  refine ⟨fun s t n base limit ht hc hn hbase hlimit => ?_, fun s t n code heads ht hc hn hcode hheads => ?_⟩
  · intro outside
    subst hbase hlimit
    have houtside : (consume t s).windowsFit n ⟨argNat t.message.args 1, argNat t.message.args 2⟩ = false ↔ outside :=
      State.windowsFit_eq_false
    rw [exec_setAperture ht]
    refine ⟨fun h0 => ?_, fun h0 hs => ?_, fun h0 hs => ?_, fun h0 hs hbad => ?_, fun h0 hs hle hl hout => ?_,
      fun h0 hs hle hl hin => ?_⟩
    · rw [takeMessage_client0 hc hn h0]
    all_goals rw [takeMessage_tenant hc hn h0]
    · rw [takeMessage_of_body (bodySetAperture_busy hs)]
    · rw [takeMessage_of_body (bodySetAperture_notPermitted hs)]
    · rw [takeMessage_of_body (bodySetAperture_badSource hs (apertureNamed_eq_none hbad))]
    · rw [takeMessage_of_body (bodySetAperture_aperture hs (apertureNamed_eq_some hle hl) (houtside.mpr hout))]
    · rw [takeMessage_of_body ((bodySetAperture_accepted (s := consume t s) hs (apertureNamed_eq_some hle hl)
        (mt houtside.mp hin)).trans (by rw [consume_setClient]))]
      rfl
  · intro leftOut
    have hleft : (consume t s).holdsOutside n heads = true ↔ leftOut := State.holdsOutside_iff
    have hnamed (h : code ≤ 3) : headSetNamed (argNat t.message.args 1) = some heads := by
      rw [hcode, hheads]
      exact headSetNamed_eq_some h
    rw [exec_setHeads ht]
    refine ⟨fun h0 => ?_, fun h0 hs => ?_, fun h0 hs => ?_, fun h0 hs hbad => ?_, fun h0 hs hle hout => ?_,
      fun h0 hs hle hin => ?_⟩
    · rw [takeMessage_client0 hc hn h0]
    all_goals rw [takeMessage_tenant hc hn h0]
    · rw [takeMessage_of_body (bodySetHeads_busy hs)]
    · rw [takeMessage_of_body (bodySetHeads_notPermitted hs)]
    · rw [takeMessage_of_body (bodySetHeads_badCommand hs (headSetNamed_eq_none (hcode ▸ hbad)))]
    · rw [takeMessage_of_body (bodySetHeads_inUse hs (hnamed hle) (hleft.mpr hout))]
    · rw [takeMessage_of_body ((bodySetHeads_accepted (s := consume t s) hs (hnamed hle) (mt hleft.mp hin)).trans
        (by rw [consume_setClient]))]
      rfl

end Sys2Proof.Machine
end

section
/-! CLOSE_CLIENT (R142, R44): its passes over the windows. A CLOSING client becomes CLOSED as soon as its last window is
freed (R144), be it in the middle of a pass; the passes can be followed on the client left OPEN, which nothing closes,
and the entry to CLOSED made at the end. -/

namespace Sys2Proof.Machine

/-! ### A pass over the windows -/

/-- A pass over the windows, in ascending id order, that does `act` with each one whose state `pick` picks. -/
def sweep (pick : Life → Bool) (act : WindowId → State → State) (s : State) : State :=
  allWindows.foldl (fun s w => if pick (s.window w).life then act w s else s) s

section
variable {pick : Life → Bool} {act : WindowId → State → State}

/-- What every action of a pass does, in the sense of a reflexive and transitive relation, the pass does. -/
theorem sweep_rel {R : State → State → Prop} (refl : ∀ a, R a a) (trans : ∀ {a b c}, R a b → R b c → R a c)
    (step : ∀ a w, pick (a.window w).life = true → R a (act w a)) (s : State) : R s (sweep pick act s) := by
  unfold sweep
  generalize allWindows = ws
  induction ws generalizing s with
  | nil => exact refl s
  | cons w ws ih =>
    refine trans (b := if pick (s.window w).life then act w s else s) ?_ (ih _)
    split
    · next hp => exact step s w hp
    · exact refl s

variable {life : Window → Life} (hne : ∀ a w x, w ≠ x → (act w a).window x = a.window x)
  (hself : ∀ a w, pick (a.window w).life = true →
    (act w a).window w = { a.window w with life := life (a.window w) })
include hne hself

/-- Actions that each change the life of their own window, on some windows. -/
theorem foldl_sweep_window {ws : List WindowId} (hws : ws.Nodup) (s : State) (w : WindowId) :
    (ws.foldl (fun u v => if pick (u.window v).life then act v u else u) s).window w =
      if w ∈ ws ∧ pick (s.window w).life then { s.window w with life := life (s.window w) } else s.window w := by
  induction ws generalizing s with
  | nil => exact (if_neg fun hw => nomatch hw.1).symm
  | cons v vs ih =>
    obtain ⟨hv, hvs⟩ := List.nodup_cons.mp hws
    rw [List.foldl_cons, ih hvs]
    by_cases hvw : v = w
    · subst hvw
      rw [if_neg fun hw => hv hw.1]
      by_cases hp : pick (s.window v).life = true
      · rw [if_pos hp, hself s v hp, if_pos ⟨List.mem_cons_self .., hp⟩]
      · rw [if_neg hp, if_neg fun hw => hp hw.2]
    · have hsame : (if pick (s.window v).life then act v s else s).window w = s.window w := by
        split
        · exact hne s v w hvw
        · rfl
      rw [hsame]
      simp only [List.mem_cons, Ne.symm hvw, false_or]

/-- A pass whose actions each change the life of their own window. -/
theorem sweep_window (s : State) (w : WindowId) : (sweep pick act s).window w =
    if pick (s.window w).life then { s.window w with life := life (s.window w) } else s.window w := by
  rw [sweep, foldl_sweep_window hne hself (ws := allWindows) (List.nodup_finRange 48)]
  simp only [allWindows, List.mem_finRange, true_and]
end

/-! ### The three passes (R44, R35) -/

/-- A RESERVED window of client `n`. -/
def Life.reservedBy (n : ClientId) : Life → Bool
  | .reserved hd => hd.owner == n
  | _ => false

/-- A LIVE window of client `n`. -/
def Life.liveBy (n : ClientId) : Life → Bool
  | .live hd _ _ => hd.owner == n
  | _ => false

theorem Life.reservedBy_iff {n : ClientId} {l : Life} :
    l.reservedBy n = true ↔ ∃ hd, l = .reserved hd ∧ hd.owner = n := by
  cases l <;> simp [Life.reservedBy]

theorem Life.liveBy_iff {n : ClientId} {l : Life} :
    l.liveBy n = true ↔ ∃ hd img f, l = .live hd img f ∧ hd.owner = n := by
  cases l <;> simp [Life.liveBy]

/-- R44: a life with retire pending in the staged image. -/
def Life.marked : Life → Life
  | .live hd img f => .live { hd with staged := { hd.staged with retirePending := true } } img f
  | l => l

/-- R44: set retire pending in the staged image of window `w`. -/
def markWindow (w : WindowId) (s : State) : State := s.setWindow w { s.window w with life := (s.window w).life.marked }

theorem freeReserved_eq (n : ClientId) (s : State) : freeReserved n s = sweep (Life.reservedBy n) freeWindow s := by
  unfold freeReserved sweep
  congr 1
  funext u w
  cases hl : (u.window w).life <;> simp [Life.reservedBy]

theorem retireLive_eq (n : ClientId) (s : State) : retireLive n s = sweep (Life.liveBy n) markWindow s := by
  unfold retireLive sweep
  congr 1
  funext u w
  cases hl : (u.window w).life <;> simp [Life.liveBy, markWindow, setStaged, Life.marked, hl]

theorem applyClient_eq (h : HeadId) (s : State) (n : ClientId) :
    applyClient h s n = sweep (Life.appliedFor n h) processWindow s := rfl

/-- R44: what the passes of CLOSE_CLIENT make of a window. -/
theorem freeReserved_window (n : ClientId) (s : State) (w : WindowId) : (freeReserved n s).window w =
    if (s.window w).life.reservedBy n then { s.window w with life := .free } else s.window w := by
  rw [freeReserved_eq]
  exact sweep_window (life := fun _ => .free) (fun a w x hne => by rw [freeWindow_window, if_neg hne])
    (fun a w _ => by rw [freeWindow_window, if_pos rfl]) s w

theorem retireLive_window (n : ClientId) (s : State) (w : WindowId) : (retireLive n s).window w =
    if (s.window w).life.liveBy n then { s.window w with life := (s.window w).life.marked } else s.window w := by
  rw [retireLive_eq]
  exact sweep_window (life := fun v => v.life.marked) (fun a w x hne => State.window_setWindow_of_ne a hne _)
    (fun a w _ => State.window_setWindow_self a w _) s w

theorem applyClient_window (h : HeadId) (s : State) (n : ClientId) (w : WindowId) : (applyClient h s n).window w =
    if (s.window w).life.appliedFor n h then { s.window w with life := (s.window w).processed } else s.window w := by
  refine Window.ext_fields ((applyClient_life h s n w).trans ?_) ((applyClient_refs s h n w).trans ?_)
  · split <;> rfl
  · split <;> rfl

section
variable {n : ClientId} {s : State} {h : HeadId}

/-- R44: a head where the client holds no LIVE window. -/
theorem closeOnHead_idle (hw : s.holdsOn n h = false) : closeOnHead n s h = s := by
  rw [closeOnHead, hw, if_neg Bool.false_ne_true]

/-- R44: a STOPPED head. -/
theorem closeOnHead_stopped (hw : s.holdsOn n h = true) (hs : (s.head h).state = .stopped) :
    closeOnHead n s h = setCommitted h (rebuildDepthList h (applyClient h s n)) n := by
  simp [closeOnHead, applyClients, hw, hs]

/-- R44: a running head, on whose Commit Queue the client is already. -/
theorem closeOnHead_waiting (hs : (s.head h).state ≠ .stopped) (hq : n ∈ (s.head h).commitQueue) :
    closeOnHead n s h = s := by
  simp [closeOnHead, hs, hq]

/-- R44: a running head, whose Commit Queue the client joins. -/
theorem closeOnHead_joins (hw : s.holdsOn n h = true) (hs : (s.head h).state ≠ .stopped)
    (hq : n ∉ (s.head h).commitQueue) : closeOnHead n s h = enqueue n h s := by
  simp [closeOnHead, hw, hs, hq]
end

/-- R44: the four things CLOSE_CLIENT does on a head. -/
theorem closeOnHead_cases (n : ClientId) (s : State) (h : HeadId) :
    (s.holdsOn n h = false ∧ closeOnHead n s h = s) ∨
    (s.holdsOn n h = true ∧ (s.head h).state = .stopped ∧
      closeOnHead n s h = setCommitted h (rebuildDepthList h (applyClient h s n)) n) ∨
    (s.holdsOn n h = true ∧ (s.head h).state ≠ .stopped ∧ n ∈ (s.head h).commitQueue ∧ closeOnHead n s h = s) ∨
    (s.holdsOn n h = true ∧ (s.head h).state ≠ .stopped ∧ n ∉ (s.head h).commitQueue ∧
      closeOnHead n s h = enqueue n h s) := by
  by_cases hw : s.holdsOn n h = true
  · by_cases hs : (s.head h).state = .stopped
    · exact .inr (.inl ⟨hw, hs, closeOnHead_stopped hw hs⟩)
    · by_cases hq : n ∈ (s.head h).commitQueue
      · exact .inr (.inr (.inl ⟨hw, hs, hq, closeOnHead_waiting hs hq⟩))
      · exact .inr (.inr (.inr ⟨hw, hs, hq, closeOnHead_joins hw hs hq⟩))
  · exact .inl ⟨Bool.eq_false_iff.mpr hw, closeOnHead_idle (Bool.eq_false_iff.mpr hw)⟩

/-- R44: what CLOSE_CLIENT does on the heads, head 0 before head 1. -/
def closeOnHeads (n : ClientId) (s : State) : State := closeOnHead n (closeOnHead n s 0) 1

/-- R44: RESERVED windows of client `n` freed, LIVE ones with retire pending. -/
def prepareWindows (n : ClientId) (s : State) : State := retireLive n (freeReserved n s)

/-- R44: all that CLOSE_CLIENT does with the windows of client `n`. -/
def drainWindows (n : ClientId) (s : State) : State := closeOnHeads n (prepareWindows n s)

/-- R141, R142, R161: channel `n` CLOSED, its command FIFO emptied. -/
def closeChannel (n : ClientId) (s : State) : State :=
  s.setChannel n { s.channel n with state := .closed, commands := [] }

/-- State `s` with client `n` CLOSING. -/
def closingOf (n : ClientId) (s : State) : State := s.setClient n { s.client n with state := .closing }

/-- R142: CLOSE_CLIENT of an OPEN client as its parts. -/
theorem closeClient_eq (n : ClientId) (s : State) : closeClient n s =
    if ((drainWindows n (closingOf n (closeChannel n s))).client n).state = .closing ∧
        ((drainWindows n (closingOf n (closeChannel n s))).client n).held = 0 then
      enterClosed n (drainWindows n (closingOf n (closeChannel n s)))
    else drainWindows n (closingOf n (closeChannel n s)) := by
  have hheads (u : State) : allHeads.foldl (closeOnHead n) u = closeOnHeads n u := by
    have hlist : allHeads = [0, 1] := rfl
    rw [hlist, List.foldl_cons, List.foldl_cons, List.foldl_nil, closeOnHeads]
  simp only [closeClient, hheads]
  rfl

theorem State.holdsOn_congr {s u : State} {n : ClientId} {h : HeadId}
    (hw : ∀ w, (u.window w).life.appliedFor n h = (s.window w).life.appliedFor n h) :
    u.holdsOn n h = s.holdsOn n h := by
  simp only [State.holdsOn, hw]

/-! ### The entry to CLOSED put off (R144) -/

/-- R144: client `n`, left OPEN until now, ends CLOSED if it holds nothing and CLOSING otherwise. -/
def settle (n : ClientId) (s : State) : State := if (s.client n).held = 0 then enterClosed n s else closingOf n s

/-- `b` is `a` but that client `n`, OPEN in `a`, is CLOSING, or has become CLOSED because it holds nothing. -/
structure Shadows (n : ClientId) (a b : State) : Prop where
  law    : HeldLaw a
  opened : (a.client n).state = .opened
  either : b = closingOf n a ∨ (a.client n).held = 0 ∧ b = enterClosed n a

theorem enterClosed_setClient (n : ClientId) (s : State) (k : Client) :
    enterClosed n (s.setClient n k) = enterClosed n s := by
  unfold enterClosed
  rw [State.setClient_setClient]

theorem enterClosed_setNotice (n : ClientId) (s : State) (r : NoticeRecord) :
    enterClosed n (s.setNotice n r) = enterClosed n s :=
  congrArg (notify 0 (.clientClosed n))
    (State.setNotice_setNotice (dequeue n 1 (dequeue n 0 (s.setClient n Client.closedRecord))) n r NoticeRecord.cleared)

theorem enterClosed_rebuildDepthList (n : ClientId) (h : HeadId) (s : State) :
    enterClosed n (rebuildDepthList h s) = rebuildDepthList h (enterClosed n s) := by
  refine State.ext_records rfl rfl rfl rfl rfl rfl (fun _ => rfl) (fun _ => rfl) (fun _ => rfl) (fun x => ?_)
    (fun _ => rfl) (fun _ => rfl)
  rw [enterClosed_head, rebuildDepthList, rebuildDepthList, State.head_setHead, State.head_setHead, enterClosed_head,
    enterClosed_head]
  split <;> rfl

section
variable {n : ClientId} {a b : State}

theorem Shadows.window (h : Shadows n a b) (w : WindowId) : b.window w = a.window w := by
  rcases h.either with e | ⟨-, e⟩ <;> rw [e] <;> rfl

theorem Shadows.holdsOn (h : Shadows n a b) (x : HeadId) : b.holdsOn n x = a.holdsOn n x :=
  State.holdsOn_congr fun w => by rw [h.window]

/-- R18: a client that owns a window holds something, so it is not CLOSED yet. -/
theorem Shadows.of_owner (h : Shadows n a b) {w : WindowId} (hw : (a.window w).owner? = some n) :
    b = closingOf n a := by
  refine h.either.resolve_right fun ⟨hheld, _⟩ => ?_
  rw [(h.law n).1] at hheld
  exact absurd (State.mem_ownedBy.mpr hw) (by rw [List.length_eq_zero_iff.mp hheld]; exact List.not_mem_nil)

theorem Shadows.of_holdsOn (h : Shadows n a b) {x : HeadId} (hw : a.holdsOn n x = true) : b = closingOf n a := by
  obtain ⟨w, hd, rfl, -, hl | ⟨img, f, hl⟩⟩ := State.holdsOn_iff.mp hw <;>
    exact h.of_owner (w := w) (by rw [Window.owner?, hl]; rfl)

/-- A state that keeps the windows' owners and the clients keeps the premises. -/
theorem Shadows.of_kept {a' b' : State} (h : Shadows n a b) (hc : ∀ c, a'.client c = a.client c)
    (hw : ∀ w, (a'.window w).owner? = (a.window w).owner?)
    (he : b' = closingOf n a' ∨ (a.client n).held = 0 ∧ b' = enterClosed n a') : Shadows n a' b' :=
  ⟨h.law.of_owners hc hw, by rw [hc]; exact h.opened, by rw [hc]; exact he⟩

theorem Shadows.setWindow (h : Shadows n a b) {w : WindowId} {v : Window} (hv : v.owner? = (a.window w).owner?) :
    Shadows n (a.setWindow w v) (b.setWindow w v) := by
  refine h.of_kept (fun _ => rfl) (fun x => ?_) ?_
  · rw [State.window_setWindow]
    split
    · next e => rw [hv, e]
    · rfl
  · rcases h.either with e | ⟨hz, e⟩ <;> rw [e]
    · exact .inl rfl
    · exact .inr ⟨hz, rfl⟩

end

/-- R11: the state in which window `w` has entered FREE but still counts among the windows its owner holds. -/
def windowLeft (w : WindowId) (o : ClientId) (s : State) : State :=
  if (s.window w).life.liveImage?.isSome then notify o (.retired w) (s.setWindow w { s.window w with life := .free })
  else s.setWindow w { s.window w with life := .free }

theorem freeWindow_eq_dropHeld {s : State} {w : WindowId} {o : ClientId} (hw : (s.window w).owner? = some o) :
    freeWindow w s = dropHeld o (windowLeft w o s) := by
  unfold windowLeft freeWindow
  rw [Window.owner?] at hw
  cases hl : (s.window w).life <;> rw [hl] at hw <;> cases hw <;> rfl

theorem windowLeft_client (w : WindowId) (o : ClientId) (s : State) (c : ClientId) :
    (windowLeft w o s).client c = s.client c := by
  unfold windowLeft
  split <;> rfl

/-- R11, R18: a window of a client that is not CLOSING enters FREE. -/
theorem freeWindow_of_not_closing {s : State} {w : WindowId} {o : ClientId} (hw : (s.window w).owner? = some o)
    (ho : (s.client o).state ≠ .closing) :
    freeWindow w s = (windowLeft w o s).setClient o { s.client o with held := (s.client o).held - 1 } := by
  rw [freeWindow_eq_dropHeld hw, dropHeld_of_not_closing (by rwa [windowLeft_client]), windowLeft_client]

/-- R18, R144: a fall of the held count, of the OPEN client and of the CLOSING one. -/
theorem dropHeld_closingOf {n : ClientId} {a : State} (ho : (a.client n).state = .opened) :
    dropHeld n (closingOf n a) = closingOf n (dropHeld n a) ∨
      ((dropHeld n a).client n).held = 0 ∧ dropHeld n (closingOf n a) = enterClosed n (dropHeld n a) := by
  have hopen : dropHeld n a = a.setClient n { a.client n with held := (a.client n).held - 1 } :=
    dropHeld_of_not_closing (by rw [ho]; decide)
  rcases dropHeld_cases (closingOf n a) n with ⟨-, hlast, e⟩ | ⟨-, e⟩ <;> rw [e, hopen]
  · refine .inr ⟨?_, ?_⟩
    · rw [State.client_setClient_self]
      simpa only [closingOf, State.client_setClient_self] using hlast
    · simp only [closingOf, enterClosed_setClient]
  · simp only [closingOf, State.client_setClient_self, State.setClient_setClient, true_or]

section
variable {n : ClientId} {a b : State}

/-- R11: an entry to FREE of a window of the client. -/
theorem Shadows.freeWindow (h : Shadows n a b) {w : WindowId} (hw : (a.window w).owner? = some n) :
    Shadows n (freeWindow w a) (freeWindow w b) := by
  have hclosing : (a.client n).state ≠ .closing := by rw [h.opened]; decide
  have hleft : windowLeft w n (closingOf n a) = closingOf n (windowLeft w n a) := by
    unfold windowLeft
    rw [apply_ite (closingOf n)]
    rfl
  refine ⟨h.law.freeWindow w, ?_, ?_⟩
  · rw [freeWindow_of_not_closing hw hclosing, State.client_setClient_self]
    exact h.opened
  · rw [h.of_owner hw, freeWindow_eq_dropHeld hw, freeWindow_eq_dropHeld (s := closingOf n a) hw, hleft]
    exact dropHeld_closingOf (by rw [windowLeft_client]; exact h.opened)

theorem Shadows.processWindow (h : Shadows n a b) {w : WindowId} (hw : (a.window w).owner? = some n) :
    Shadows n (processWindow w a) (processWindow w b) := by
  have hset (hd : Held) (l : Life) (hl : l.held? = some hd) (ha : (a.window w).life.held? = some hd) :
      Shadows n (a.setWindow w { a.window w with life := l }) (b.setWindow w { b.window w with life := l }) := by
    rw [h.window w]
    exact h.setWindow (by rw [Window.owner?, Window.owner?, ha]; exact congrArg _ hl)
  unfold Machine.processWindow
  simp only [h.window w]
  cases hl : (a.window w).life with
  | free => exact h
  | reserved hd => simpa only [h.window w] using hset hd _ rfl (by rw [hl]; rfl)
  | live hd img f =>
    simp only []
    split
    · split
      · exact h.freeWindow hw
      · simpa only [h.window w] using hset hd _ rfl (by rw [hl]; rfl)
    · simpa only [h.window w] using hset hd _ rfl (by rw [hl]; rfl)
  | retiring hd img f => exact h

theorem Shadows.rebuildDepthList (h : Shadows n a b) (x : HeadId) :
    Shadows n (rebuildDepthList x a) (rebuildDepthList x b) := by
  refine h.of_kept (fun _ => rfl) (fun _ => rfl) ?_
  rcases h.either with e | ⟨hz, e⟩ <;> rw [e]
  · exact .inl rfl
  · exact .inr ⟨hz, (enterClosed_rebuildDepthList n x a).symm⟩

/-- R39, log 12: COMMITTED of a client that has become CLOSED is lost either way. -/
theorem Shadows.setCommitted (h : Shadows n a b) (x : HeadId) :
    Shadows n (setCommitted x a n) (setCommitted x b n) := by
  have ha : Machine.setCommitted x a n = notify n (.committed x) a := if_neg (by rw [h.opened]; decide)
  rw [ha]
  refine h.of_kept (fun _ => rfl) (fun _ => rfl) ?_
  rcases h.either with e | ⟨hz, e⟩ <;> rw [e]
  · refine .inl ((if_neg ?_).trans rfl)
    rw [closingOf, State.client_setClient_self]
    exact ClientState.noConfusion
  · refine .inr ⟨hz, (if_pos ?_).trans (enterClosed_setNotice n a _).symm⟩
    rw [enterClosed_client, if_pos rfl]
    rfl

theorem Shadows.sweep {pick : Life → Bool} {act : WindowId → State → State}
    (step : ∀ {a b w}, Shadows n a b → pick (a.window w).life = true → Shadows n (act w a) (act w b))
    (h : Shadows n a b) : Shadows n (sweep pick act a) (sweep pick act b) := by
  unfold Machine.sweep
  generalize allWindows = ws
  induction ws generalizing a b with
  | nil => exact h
  | cons w ws ih =>
    rw [List.foldl_cons, List.foldl_cons, h.window w]
    split
    · next hp => exact ih (step h hp)
    · exact ih h

theorem Life.owner_marked (l : Life) : l.marked.held?.map Held.owner = l.held?.map Held.owner := by
  cases l <;> rfl

theorem Window.owner_of_reservedBy {v : Window} (hv : v.life.reservedBy n = true) : v.owner? = some n := by
  obtain ⟨hd, hl, rfl⟩ := Life.reservedBy_iff.mp hv
  rw [Window.owner?, hl]
  rfl

theorem Window.owner_of_liveBy {v : Window} (hv : v.life.liveBy n = true) : v.owner? = some n := by
  obtain ⟨hd, img, f, hl, rfl⟩ := Life.liveBy_iff.mp hv
  rw [Window.owner?, hl]
  rfl

theorem Shadows.applyClient (h : Shadows n a b) (x : HeadId) : Shadows n (applyClient x a n) (applyClient x b n) := by
  rw [applyClient_eq, applyClient_eq]
  exact h.sweep fun g hp => g.processWindow (Window.owner_of_appliedFor hp).1

/-- R44: what CLOSE_CLIENT does on a head, to the OPEN client and to the CLOSING one. -/
theorem Shadows.closeOnHead (h : Shadows n a b) (x : HeadId) : Shadows n (closeOnHead n a x) (closeOnHead n b x) := by
  have hwb : b.holdsOn n x = a.holdsOn n x := h.holdsOn x
  have hb (hw : a.holdsOn n x = true) : b.head x = a.head x := by rw [h.of_holdsOn hw]; rfl
  rcases closeOnHead_cases n a x with ⟨hw, e⟩ | ⟨hw, hs, e⟩ | ⟨hw, hs, hq, e⟩ | ⟨hw, hs, hq, e⟩ <;> rw [e]
  · rwa [closeOnHead_idle (hwb.trans hw)]
  · rw [closeOnHead_stopped (hwb.trans hw) (by rwa [hb hw])]
    exact ((h.applyClient x).rebuildDepthList x).setCommitted x
  · rwa [closeOnHead_waiting (by rwa [hb hw]) (by rwa [hb hw])]
  · rw [closeOnHead_joins (hwb.trans hw) (by rwa [hb hw]) (by rwa [hb hw]), h.of_holdsOn hw]
    exact h.of_kept (fun _ => rfl) (fun _ => rfl) (.inl rfl)

theorem Shadows.drainWindows (h : Shadows n a b) : Shadows n (drainWindows n a) (drainWindows n b) := by
  have hfree : Shadows n (freeReserved n a) (freeReserved n b) := by
    rw [freeReserved_eq, freeReserved_eq]
    exact h.sweep fun g hp => g.freeWindow (Window.owner_of_reservedBy hp)
  have hmark : Shadows n (prepareWindows n a) (prepareWindows n b) := by
    rw [prepareWindows, prepareWindows, retireLive_eq, retireLive_eq]
    refine hfree.sweep fun {a b w} g _ => ?_
    rw [markWindow, markWindow, g.window w]
    exact g.setWindow (Life.owner_marked _)
  exact (hmark.closeOnHead 0).closeOnHead 1
end

/-- R141, R142, R144: CLOSE_CLIENT, followed on the client left OPEN until the end. -/
theorem closeClient_eq_settle {n : ClientId} {s : State} (hs : HeldLaw s) (ho : (s.client n).state = .opened) :
    HeldLaw (drainWindows n (closeChannel n s)) ∧
      closeClient n s = settle n (drainWindows n (closeChannel n s)) := by
  have hstart : Shadows n (closeChannel n s) (closingOf n (closeChannel n s)) :=
    ⟨hs.of_owners (fun _ => rfl) fun _ => rfl, ho, .inl rfl⟩
  obtain ⟨hlaw, hopen, hend⟩ := hstart.drainWindows
  refine ⟨hlaw, ?_⟩
  rw [closeClient_eq, settle]
  rcases hend with e | ⟨hz, e⟩ <;> rw [e]
  · simp only [closingOf, State.client_setClient_self, true_and, enterClosed_setClient]
  · rw [if_pos hz, if_neg]
    rw [enterClosed_client, if_pos rfl]
    exact fun h => ClientState.noConfusion h.1

end Sys2Proof.Machine
end

section
/-! CLOSE_CLIENT (R142, R44), followed on the client left OPEN: what it leaves, and what it makes of the windows, the
Commit Queues, the Depth Lists and the client's notices. -/

namespace Sys2Proof.Machine

/-! ### What the parts leave -/

/-- What every part of the close of client `n`, left OPEN, leaves. -/
structure DrainFrame (n : ClientId) (s u : State) : Prop where
  host    : KeepsHost s u
  tags    : ∀ i, u.tag i = s.tag i
  client  : u.client n = { s.client n with held := (u.client n).held }
  clients : ∀ c, c ≠ n → u.client c = s.client c
  notice  : u.notice n = { s.notice n with committed := (u.notice n).committed, retired := (u.notice n).retired }
  notices : ∀ c, c ≠ n → u.notice c = s.notice c
  heads   : ∀ x, u.head x = { s.head x with commitQueue := (u.head x).commitQueue, depthList := (u.head x).depthList }
  refs    : ∀ w, (u.window w).refs = (s.window w).refs
  owners  : ∀ w, (u.window w).owner? = (s.window w).owner? ∨ (u.window w).life = .free
  others  : ∀ w, (s.window w).owner? ≠ some n ∨ (s.window w).life.isRetiring = true → u.window w = s.window w

/-- What a pass over the windows leaves besides: heads, and COMMITTED. -/
structure PassFrame (n : ClientId) (s u : State) : Prop extends DrainFrame n s u where
  sameHeads : ∀ x, u.head x = s.head x
  committed : (u.notice n).committed = (s.notice n).committed

theorem Window.owner?_of_free {v : Window} (h : v.life = .free) : v.owner? = none := by
  rw [Window.owner?, h]
  rfl

theorem Window.ne_free_of_owner? {v : Window} {c : ClientId} (h : v.owner? = some c) : v.life ≠ .free := fun hf =>
  nomatch h.symm.trans (Window.owner?_of_free hf)

theorem Window.free_of_owner? {v : Window} (h : v.owner? = none) : v.life = .free :=
  Life.held?_eq_none.mp (Option.map_eq_none_iff.mp h)

section
variable {n : ClientId} {s u v : State}

theorem DrainFrame.refl (n : ClientId) (s : State) : DrainFrame n s s where
  host := .refl s
  tags _ := rfl
  client := rfl
  clients _ _ := rfl
  notice := rfl
  notices _ _ := rfl
  heads _ := rfl
  refs _ := rfl
  owners _ := .inl rfl
  others _ _ := rfl

/-- What is FREE stays FREE. -/
theorem DrainFrame.free (b : DrainFrame n s u) {w : WindowId} (hw : (s.window w).life = .free) :
    (u.window w).life = .free :=
  (b.owners w).elim (fun e => Window.free_of_owner? (e.trans (Window.owner?_of_free hw))) id

theorem DrainFrame.trans (a : DrainFrame n s u) (b : DrainFrame n u v) : DrainFrame n s v where
  host := a.host.trans b.host
  tags i := (b.tags i).trans (a.tags i)
  client := b.client.trans (by rw [a.client])
  clients c hc := (b.clients c hc).trans (a.clients c hc)
  notice := b.notice.trans (by rw [a.notice])
  notices c hc := (b.notices c hc).trans (a.notices c hc)
  heads x := (b.heads x).trans (by rw [a.heads x])
  refs w := (b.refs w).trans (a.refs w)
  owners w := (a.owners w).elim (fun e => e ▸ b.owners w) fun hfree => .inr (b.free hfree)
  others w hw := by
    have hu := a.others w hw
    rw [← hu] at hw
    exact (b.others w hw).trans hu

theorem DrainFrame.opened (a : DrainFrame n s u) (h : (s.client n).state = .opened) : (u.client n).state = .opened := by
  rw [a.client]
  exact h

theorem PassFrame.refl (n : ClientId) (s : State) : PassFrame n s s := ⟨.refl n s, fun _ => rfl, rfl⟩

theorem PassFrame.trans (a : PassFrame n s u) (b : PassFrame n u v) : PassFrame n s v :=
  ⟨a.toDrainFrame.trans b.toDrainFrame, fun x => (b.sameHeads x).trans (a.sameHeads x), b.committed.trans a.committed⟩
end

/-! ### RETIRED of the client (R11, R152) -/

/-- From `s` to `u` window `w` of client `n` has entered FREE. -/
def Leaves (n : ClientId) (s u : State) (w : WindowId) : Prop :=
  (s.window w).owner? = some n ∧ (u.window w).life = .free

/-- From `s` to `u` RETIRED of client `n` is set, unless it was pending, with one of its windows that have entered FREE
if there are any. -/
def RetiresFirst (n : ClientId) (s u : State) : Prop :=
  ∃ r, (u.notice n).retired = keepFirst (s.notice n).retired r ∧ (∀ w, r = some w → Leaves n s u w) ∧
    (r = none → ∀ w, ¬ Leaves n s u w)

section
variable {n : ClientId} {s u v : State}

theorem leaves_trans (a : DrainFrame n s u) (b : DrainFrame n u v) {w : WindowId} :
    Leaves n s v w ↔ Leaves n s u w ∨ Leaves n u v w := by
  constructor
  · rintro ⟨hown, hfree⟩
    exact (a.owners w).elim (fun e => .inr ⟨e.trans hown, hfree⟩) fun hu => .inl ⟨hown, hu⟩
  · rintro (⟨hown, hu⟩ | ⟨hown, hfree⟩)
    · exact ⟨hown, b.free hu⟩
    · exact ⟨((a.owners w).resolve_right (Window.ne_free_of_owner? hown)).symm.trans hown, hfree⟩

theorem RetiresFirst.trans (a : DrainFrame n s u) (b : DrainFrame n u v) (h : RetiresFirst n s u)
    (g : RetiresFirst n u v) : RetiresFirst n s v := by
  obtain ⟨r, hr, hsome, hnone⟩ := h
  obtain ⟨q, hq, gsome, gnone⟩ := g
  refine ⟨keepFirst r q, by rw [hq, hr, keepFirst_keepFirst], fun w hw => ?_, fun hw w => ?_⟩ <;>
    rw [leaves_trans a b]
  · cases r with
    | none => exact .inr (gsome w hw)
    | some x => exact .inl (hsome w hw)
  · cases r with
    | none => exact not_or.mpr ⟨hnone rfl w, gnone hw w⟩
    | some x => cases hw

/-- No window enters FREE, and RETIRED stays. -/
theorem RetiresFirst.of_owners (hw : ∀ w, (u.window w).owner? = (s.window w).owner?)
    (hr : (u.notice n).retired = (s.notice n).retired) : RetiresFirst n s u := by
  refine ⟨none, by rw [hr, keepFirst_none], fun _ h => (nomatch h), fun _ w ⟨hown, hfree⟩ => ?_⟩
  exact Window.ne_free_of_owner? ((hw w).trans hown) hfree
end

/-! ### The actions of the passes -/

section
variable {n : ClientId} {s : State} {w : WindowId}

/-- A window of the client that is not RETIRING takes another life with the same owner. -/
theorem setWindow_pass (hown : (s.window w).owner? = some n) (hr : (s.window w).life.isRetiring = false) {v : Window}
    (hv : v.owner? = some n) (hrefs : v.refs = (s.window w).refs) : PassFrame n s (s.setWindow w v) where
  host := setWindow_keepsHost s w v
  tags _ := rfl
  client := rfl
  clients _ _ := rfl
  notice := rfl
  notices _ _ := rfl
  heads _ := rfl
  refs x := by
    rw [State.window_setWindow]
    split
    · next e => rw [hrefs, e]
    · rfl
  owners x := by
    rw [State.window_setWindow]
    split
    · next e => rw [hv, ← e, hown]; exact .inl rfl
    · exact .inl rfl
  others x hx := by
    refine State.window_setWindow_of_ne s (fun e => ?_) v
    subst e
    rcases hx with hx | hx
    · exact hx hown
    · rw [hr] at hx; cases hx
  sameHeads _ := rfl
  committed := rfl

theorem setWindow_owners (hown : (s.window w).owner? = some n) {v : Window} (hv : v.owner? = some n) (x : WindowId) :
    ((s.setWindow w v).window x).owner? = (s.window x).owner? := by
  rw [State.window_setWindow]
  split
  · next e => rw [hv, ← e, hown]
  · rfl

theorem windowLeft_notice (c : ClientId) : (windowLeft w n s).notice c =
    if (s.window w).life.liveImage?.isSome = true ∧ n = c then
      { s.notice c with retired := keepFirst (s.notice c).retired (some w) }
    else s.notice c := by
  unfold windowLeft
  by_cases hl : (s.window w).life.liveImage?.isSome = true
  · rw [if_pos hl, notify_notice]
    by_cases hc : n = c
    · subst hc
      rw [if_pos rfl, if_pos ⟨hl, rfl⟩, ← firstSubject_eq]
      rfl
    · rw [if_neg hc, if_neg fun h => hc h.2]
      rfl
  · rw [if_neg hl, if_neg fun h => hl h.1]
    rfl

theorem windowLeft_head (x : HeadId) : (windowLeft w n s).head x = s.head x := by
  unfold windowLeft
  split <;> rfl

variable (ho : (s.client n).state = .opened) (hown : (s.window w).owner? = some n)
  (hr : (s.window w).life.isRetiring = false)
include ho hown

theorem freeWindow_opened :
    freeWindow w s = (windowLeft w n s).setClient n { s.client n with held := (s.client n).held - 1 } :=
  freeWindow_of_not_closing hown (by rw [ho]; exact ClientState.noConfusion)

/-- R11: RETIRED is set when a window leaves LIVE. -/
theorem freeWindow_retired : ((freeWindow w s).notice n).retired =
    if (s.window w).life.liveImage?.isSome then keepFirst (s.notice n).retired (some w) else (s.notice n).retired := by
  rw [freeWindow_opened ho hown, State.notice_setClient, windowLeft_notice]
  by_cases hl : (s.window w).life.liveImage?.isSome = true
  · rw [if_pos ⟨hl, rfl⟩, if_pos hl]
  · rw [if_neg fun h => hl h.1, if_neg hl]

include hr

theorem freeWindow_pass : PassFrame n s (freeWindow w s) where
  host := freeWindow_keepsHost s w
  tags := freeWindow_tag s w
  client := by rw [freeWindow_opened ho hown, State.client_setClient_self]
  clients c hc := by rw [freeWindow_opened ho hown, State.client_setClient_of_ne _ (Ne.symm hc), windowLeft_client]
  notice := by
    rw [freeWindow_opened ho hown, State.notice_setClient, windowLeft_notice]
    split <;> rfl
  notices c hc := by
    rw [freeWindow_opened ho hown, State.notice_setClient, windowLeft_notice, if_neg fun h => hc h.2.symm]
  heads x := by rw [freeWindow_opened ho hown, State.head_setClient, windowLeft_head]
  refs x := by
    rw [freeWindow_window]
    split
    · next e => rw [e]
    · rfl
  owners x := by
    rw [freeWindow_window]
    split
    · exact .inr rfl
    · exact .inl rfl
  others x hx := by
    rw [freeWindow_window, if_neg]
    rintro rfl
    rcases hx with hx | hx
    · exact hx hown
    · rw [hr] at hx; cases hx
  sameHeads x := by rw [freeWindow_opened ho hown, State.head_setClient, windowLeft_head]
  committed := by
    rw [freeWindow_opened ho hown, State.notice_setClient, windowLeft_notice]
    split <;> rfl

theorem processWindow_pass : PassFrame n s (processWindow w s) ∧ RetiresFirst n s (processWindow w s) := by
  have hset {l : Life} (hl : (⟨l, (s.window w).refs⟩ : Window).owner? = some n) :
      PassFrame n s (s.setWindow w ⟨l, (s.window w).refs⟩) ∧
        RetiresFirst n s (s.setWindow w ⟨l, (s.window w).refs⟩) :=
    ⟨setWindow_pass hown hr hl rfl, .of_owners (setWindow_owners hown hl) rfl⟩
  have hheld {hd : Held} (hl : (s.window w).life.held? = some hd) : some hd.owner = some n := by
    rw [← hown, Window.owner?, hl]
    rfl
  rcases processWindow_cases s w with ⟨hd, hl, e⟩ | ⟨hd, img, f, hl, -, e⟩ | ⟨hd, img, f, hl, -, -, e⟩ |
    ⟨hd, img, f, hl, -, -, e⟩ | ⟨-, e⟩ <;> rw [e]
  · exact hset (hheld (by rw [hl]; rfl))
  · exact hset (hheld (by rw [hl]; rfl))
  · exact hset (hheld (by rw [hl]; rfl))
  · refine ⟨freeWindow_pass ho hown hr, some w, ?_, fun x hx => ?_, fun hx => nomatch hx⟩
    · rw [freeWindow_retired ho hown, hl]
      rfl
    · obtain rfl := Option.some.inj hx
      exact ⟨hown, by rw [freeWindow_window, if_pos rfl]⟩
  · exact ⟨.refl n s, .of_owners (fun _ => rfl) rfl⟩
end

/-! ### The passes -/

section
variable {n : ClientId} {s : State} (ho : (s.client n).state = .opened)
include ho

theorem freeReserved_pass :
    PassFrame n s (freeReserved n s) ∧ ((freeReserved n s).notice n).retired = (s.notice n).retired := by
  rw [freeReserved_eq]
  refine sweep_rel (R := fun a b => (a.client n).state = .opened →
      PassFrame n a b ∧ (b.notice n).retired = (a.notice n).retired)
    (fun a _ => ⟨.refl n a, rfl⟩) (fun h g hopen => ?_) (fun a w hp hopen => ?_) s ho
  · obtain ⟨hu, hur⟩ := h hopen
    obtain ⟨hv, hvr⟩ := g (hu.opened hopen)
    exact ⟨hu.trans hv, hvr.trans hur⟩
  · have hown := Window.owner_of_reservedBy hp
    obtain ⟨hd, hl, -⟩ := Life.reservedBy_iff.mp hp
    exact ⟨freeWindow_pass hopen hown (by rw [hl]; rfl), by rw [freeWindow_retired hopen hown, hl]; rfl⟩

omit ho in
theorem retireLive_pass (s : State) :
    PassFrame n s (retireLive n s) ∧ ((retireLive n s).notice n).retired = (s.notice n).retired := by
  rw [retireLive_eq]
  refine sweep_rel (R := fun a b => PassFrame n a b ∧ (b.notice n).retired = (a.notice n).retired)
    (fun a => ⟨.refl n a, rfl⟩) (fun h g => ⟨h.1.trans g.1, g.2.trans h.2⟩) (fun a w hp => ?_) s
  have hown := Window.owner_of_liveBy hp
  obtain ⟨hd, img, f, hl, -⟩ := Life.liveBy_iff.mp hp
  exact ⟨setWindow_pass hown (by rw [hl]; rfl) ((Life.owner_marked _).trans hown) rfl, rfl⟩

theorem applyClient_pass (h : HeadId) : PassFrame n s (applyClient h s n) ∧ RetiresFirst n s (applyClient h s n) := by
  rw [applyClient_eq]
  refine sweep_rel (R := fun a b => (a.client n).state = .opened → PassFrame n a b ∧ RetiresFirst n a b)
    (fun a _ => ⟨.refl n a, .of_owners (fun _ => rfl) rfl⟩) (fun h g hopen => ?_) (fun a w hp hopen => ?_) s ho
  · obtain ⟨hu, hur⟩ := h hopen
    obtain ⟨hv, hvr⟩ := g (hu.opened hopen)
    exact ⟨hu.trans hv, hur.trans hu.toDrainFrame hv.toDrainFrame hvr⟩
  · obtain ⟨hown, hr⟩ := Window.owner_of_appliedFor hp
    exact processWindow_pass hopen hown hr
end

/-! ### The close on a head (R44) -/

theorem State.holdsOn_of_appliedFor {s : State} {n : ClientId} {h : HeadId} {w : WindowId}
    (hw : (s.window w).life.appliedFor n h = true) : s.holdsOn n h = true :=
  List.any_eq_true.mpr ⟨w, List.mem_finRange w, hw⟩

theorem Life.appliedFor_head_unique {l : Life} {c d : ClientId} {h x : HeadId} (hc : l.appliedFor c h = true)
    (hd : l.appliedFor d x = true) : h = x := by
  cases l with
  | free => cases hc
  | reserved hd => simp_all [Life.appliedFor]
  | live hd img f => simp_all [Life.appliedFor]
  | retiring hd img f => cases hc

/-- R38: a window of another head is not listed, before it is processed and after. -/
theorem listedDepth_of_appliedFor {v : Window} {n : ClientId} {h x : HeadId} (hne : h ≠ x)
    (ha : v.life.appliedFor n h = true) :
    listedDepth x v = none ∧ listedDepth x { v with life := v.processed } = none := by
  obtain ⟨hd, rfl, rfl, hl | ⟨img, f, hl⟩⟩ := Life.appliedFor_iff.mp ha
  · simp [listedDepth, hl, Window.processed_reserved hl, hne]
  · rw [Window.processed_live hl]
    refine ⟨by simp [listedDepth, hl, hne], ?_⟩
    split
    · split <;> rfl
    · simp [listedDepth, hne]

section
variable {n : ClientId} {s : State} {h : HeadId}

/-- R44: the windows that a STOPPED head's apply processes, and no others, change. -/
theorem closeOnHead_window (w : WindowId) : (closeOnHead n s h).window w =
    if (s.head h).state = .stopped ∧ (s.window w).life.appliedFor n h = true then
      { s.window w with life := (s.window w).processed }
    else s.window w := by
  rcases closeOnHead_cases n s h with ⟨hw, e⟩ | ⟨-, hs, e⟩ | ⟨-, hs, -, e⟩ | ⟨-, hs, -, e⟩ <;> rw [e]
  · rw [if_neg fun ha => Bool.false_ne_true (hw.symm.trans (State.holdsOn_of_appliedFor ha.2))]
  · rw [setCommitted_window, rebuildDepthList_window, applyClient_window]
    simp only [hs, true_and]
  · rw [if_neg fun ha => hs ha.1]
  · rw [if_neg fun ha => hs ha.1]
    rfl

/-- R44: a running head's Commit Queue has the client, joined at its end if it was not on it. -/
theorem closeOnHead_head_running (hw : s.holdsOn n h = true) (hs : (s.head h).state ≠ .stopped) :
    (closeOnHead n s h).head h = { s.head h with
      commitQueue := (s.head h).commitQueue ++ if n ∈ (s.head h).commitQueue then [] else [n] } := by
  by_cases hq : n ∈ (s.head h).commitQueue
  · rw [closeOnHead_waiting hs hq, if_pos hq, List.append_nil]
  · rw [closeOnHead_joins hw hs hq, if_neg hq, enqueue, State.head_setHead_self]

theorem setHead_drain {v : Head}
    (hv : v = { s.head h with commitQueue := v.commitQueue, depthList := v.depthList }) :
    DrainFrame n s (s.setHead h v) where
  host := setHead_keepsHost s h v
  tags _ := rfl
  client := rfl
  clients _ _ := rfl
  notice := rfl
  notices _ _ := rfl
  heads x := by
    rw [State.head_setHead]
    split
    · next e => subst e; exact hv
    · rfl
  refs _ := rfl
  owners _ := .inl rfl
  others _ _ := rfl

theorem notify_committed_drain : DrainFrame n s (notify n (.committed h) s) where
  host := notify_keepsHost s n _
  tags _ := rfl
  client := rfl
  clients _ _ := rfl
  notice := by rw [notify_notice, if_pos rfl]; rfl
  notices c hc := by rw [notify_notice, if_neg (Ne.symm hc)]
  heads _ := rfl
  refs _ := rfl
  owners _ := .inl rfl
  others _ _ := rfl

theorem rebuildDepthList_client (h : HeadId) (u : State) (c : ClientId) :
    (rebuildDepthList h u).client c = u.client c := rfl

theorem rebuildDepthList_drain (u : State) : DrainFrame n u (rebuildDepthList h u) := setHead_drain rfl

/-- R38, R39: what follows the processing of the windows in an apply of an OPEN client. -/
theorem told_drain (u : State) : DrainFrame n u (notify n (.committed h) (rebuildDepthList h u)) ∧
    RetiresFirst n u (notify n (.committed h) (rebuildDepthList h u)) := by
  refine ⟨(rebuildDepthList_drain u).trans notify_committed_drain, .of_owners (fun _ => rfl) ?_⟩
  rw [notify_notice, if_pos rfl]
  rfl

theorem told_head (u : State) (x : HeadId) : (notify n (.committed h) (rebuildDepthList h u)).head x =
    if h = x then { u.head h with
      depthList := builtDepthList h (notify n (.committed h) (rebuildDepthList h u)) } else u.head x :=
  State.head_setHead u h x _

theorem told_committed (u : State) : ((notify n (.committed h) (rebuildDepthList h u)).notice n).committed =
    some (((u.notice n).committed.getD ⟨false, false⟩).add h) := by
  rw [notify_notice, if_pos rfl]
  rfl

variable (ho : (s.client n).state = .opened)
include ho

/-- R39: an OPEN client is told of its apply. -/
theorem closeOnHead_stopped_opened (hw : s.holdsOn n h = true) (hs : (s.head h).state = .stopped) :
    closeOnHead n s h = notify n (.committed h) (rebuildDepthList h (applyClient h s n)) := by
  rw [closeOnHead_stopped hw hs, setCommitted, if_neg]
  rw [rebuildDepthList_client, (applyClient_pass ho h).1.opened ho]
  exact ClientState.noConfusion

theorem closeOnHead_drain : DrainFrame n s (closeOnHead n s h) ∧ RetiresFirst n s (closeOnHead n s h) := by
  rcases closeOnHead_cases n s h with ⟨-, e⟩ | ⟨hw, hs, -⟩ | ⟨-, -, -, e⟩ | ⟨-, -, -, e⟩
  · rw [e]
    exact ⟨.refl n s, .of_owners (fun _ => rfl) rfl⟩
  · rw [closeOnHead_stopped_opened ho hw hs]
    obtain ⟨hpass, hretired⟩ := applyClient_pass ho h
    obtain ⟨htold, hkept⟩ := told_drain (n := n) (h := h) (applyClient h s n)
    exact ⟨hpass.toDrainFrame.trans htold, hretired.trans hpass.toDrainFrame htold hkept⟩
  · rw [e]
    exact ⟨.refl n s, .of_owners (fun _ => rfl) rfl⟩
  · rw [e]
    exact ⟨setHead_drain rfl, .of_owners (fun _ => rfl) rfl⟩

/-- R38: a STOPPED head's Depth List is built anew. -/
theorem closeOnHead_head_stopped (hw : s.holdsOn n h = true) (hs : (s.head h).state = .stopped) :
    (closeOnHead n s h).head h = { s.head h with depthList := builtDepthList h (closeOnHead n s h) } := by
  rw [closeOnHead_stopped_opened ho hw hs, told_head, if_pos rfl, (applyClient_pass ho h).1.sameHeads h]

/-- R44: of the other head nothing changes. -/
theorem closeOnHead_head_of_ne {x : HeadId} (hne : h ≠ x) : (closeOnHead n s h).head x = s.head x := by
  rcases closeOnHead_cases n s h with ⟨-, e⟩ | ⟨hw, hs, -⟩ | ⟨-, -, -, e⟩ | ⟨-, -, -, e⟩
  · rw [e]
  · rw [closeOnHead_stopped_opened ho hw hs, told_head, if_neg hne, (applyClient_pass ho h).1.sameHeads x]
  · rw [e]
  · rw [e, enqueue, State.head_setHead_of_ne _ hne]

/-- R39: COMMITTED has the STOPPED head where the client holds a window. -/
theorem closeOnHead_committed : ((closeOnHead n s h).notice n).committed =
    if s.holdsOn n h = true ∧ (s.head h).state = .stopped then
      some (((s.notice n).committed.getD ⟨false, false⟩).add h)
    else (s.notice n).committed := by
  rcases closeOnHead_cases n s h with ⟨hw, e⟩ | ⟨hw, hs, -⟩ | ⟨-, hs, -, e⟩ | ⟨-, hs, -, e⟩
  · rw [e, if_neg fun ha => Bool.false_ne_true (hw.symm.trans ha.1)]
  · rw [closeOnHead_stopped_opened ho hw hs, told_committed, if_pos ⟨hw, hs⟩, (applyClient_pass ho h).1.committed]
  · rw [e, if_neg fun ha => hs ha.2]
  · rw [e, if_neg fun ha => hs ha.2]
    rfl
end

/-! ### A head and the close on the other -/

section
variable {n : ClientId} {s : State} {h x : HeadId} (hne : h ≠ x)
include hne

theorem closeOnHead_appliedFor_of_ne (w : WindowId) :
    ((closeOnHead n s h).window w).life.appliedFor n x = (s.window w).life.appliedFor n x := by
  rw [closeOnHead_window]
  split
  · next ha =>
    have hother : (s.window w).life.appliedFor n x = false :=
      Bool.eq_false_iff.mpr fun hx => hne (Life.appliedFor_head_unique ha.2 hx)
    rw [hother, Bool.eq_false_iff]
    exact fun hx => Bool.false_ne_true (hother.symm.trans (Window.appliedFor_of_processed hx))
  · rfl

theorem closeOnHead_window_of_ne {w : WindowId} (hw : (s.window w).life.appliedFor n x = true) :
    (closeOnHead n s h).window w = s.window w := by
  rw [closeOnHead_window, if_neg fun ha => hne (Life.appliedFor_head_unique ha.2 hw)]

theorem closeOnHead_builtDepthList_of_ne : builtDepthList x (closeOnHead n s h) = builtDepthList x s := by
  refine builtDepthList_congr fun w => ?_
  rw [closeOnHead_window]
  split
  · next ha =>
    obtain ⟨hbefore, hafter⟩ := listedDepth_of_appliedFor hne ha.2
    rw [hbefore, hafter]
  · rfl
end

/-! ### The close on both heads -/

/-- What the close of client `n`, left OPEN, makes of head `x` from `s` to `u`, by whether the client holds a LIVE
window there. -/
structure HeadDrained (n : ClientId) (x : HeadId) (holds : Prop) (s u : State) : Prop where
  idle    : ¬ holds → u.head x = s.head x
  stopped : holds → (s.head x).state = .stopped → u.head x = { s.head x with depthList := builtDepthList x u }
  running : holds → (s.head x).state ≠ .stopped → u.head x = { s.head x with
    commitQueue := (s.head x).commitQueue ++ if n ∈ (s.head x).commitQueue then [] else [n] }

section
variable {n : ClientId} {s : State} (ho : (s.client n).state = .opened)
include ho

theorem closeOnHead_drained (x : HeadId) : HeadDrained n x (s.holdsOn n x = true) s (closeOnHead n s x) where
  idle hw := by rw [closeOnHead_idle (Bool.eq_false_iff.mpr hw)]
  stopped hw hs := closeOnHead_head_stopped ho hw hs
  running hw hs := closeOnHead_head_running hw hs

theorem closeOnHeads_drain : DrainFrame n s (closeOnHeads n s) ∧ RetiresFirst n s (closeOnHeads n s) := by
  obtain ⟨ha, har⟩ := closeOnHead_drain (h := 0) ho
  obtain ⟨hb, hbr⟩ := closeOnHead_drain (h := 1) (ha.opened ho)
  exact ⟨ha.trans hb, har.trans ha hb hbr⟩

theorem closeOnHeads_drained (x : HeadId) : HeadDrained n x (s.holdsOn n x = true) s (closeOnHeads n s) := by
  have hmid : ((closeOnHead n s 0).client n).state = .opened := (closeOnHead_drain ho).1.opened ho
  match x with
  | 0 =>
    have hlast : (closeOnHeads n s).head 0 = (closeOnHead n s 0).head 0 := closeOnHead_head_of_ne hmid (by decide)
    have hlist : builtDepthList 0 (closeOnHeads n s) = builtDepthList 0 (closeOnHead n s 0) :=
      closeOnHead_builtDepthList_of_ne (by decide)
    obtain ⟨hidle, hstopped, hrunning⟩ := closeOnHead_drained ho 0
    exact ⟨fun hw => hlast.trans (hidle hw), fun hw hs => by rw [hlast, hlist]; exact hstopped hw hs,
      fun hw hs => hlast.trans (hrunning hw hs)⟩
  | 1 =>
    have hfirst : (closeOnHead n s 0).head 1 = s.head 1 := closeOnHead_head_of_ne ho (by decide)
    have hholds : (closeOnHead n s 0).holdsOn n 1 = s.holdsOn n 1 :=
      State.holdsOn_congr (closeOnHead_appliedFor_of_ne (by decide))
    obtain ⟨hidle, hstopped, hrunning⟩ := closeOnHead_drained hmid 1
    rw [hholds, hfirst] at hidle hstopped hrunning
    exact ⟨hidle, hstopped, hrunning⟩

/-- R36, R37, R44: the windows applied at once are those on STOPPED heads. -/
theorem closeOnHeads_window {x : HeadId} {w : WindowId}
    (hw : (s.window w).life.appliedFor n x = true) : (closeOnHeads n s).window w =
      if (s.head x).state = .stopped then { s.window w with life := (s.window w).processed } else s.window w := by
  match x with
  | 0 =>
    have hnot : ¬ ((closeOnHead n s 0).window w).life.appliedFor n 1 = true := by
      rw [closeOnHead_appliedFor_of_ne (by decide)]
      exact fun h => absurd (Life.appliedFor_head_unique hw h) (by decide)
    rw [closeOnHeads, closeOnHead_window, if_neg fun h => hnot h.2, closeOnHead_window]
    simp only [hw, and_true]
  | 1 =>
    rw [closeOnHeads, closeOnHead_window, closeOnHead_head_of_ne ho (by decide),
      closeOnHead_window_of_ne (by decide) hw]
    simp only [hw, and_true]
end

theorem HeadSet.has_add (hs : HeadSet) (h x : HeadId) : (hs.add h).has x = true ↔ hs.has x = true ∨ x = h := by
  match h, x with
  | 0, 0 => simp [HeadSet.add, HeadSet.has]
  | 0, 1 => simp [HeadSet.add, HeadSet.has]
  | 1, 0 => simp [HeadSet.add, HeadSet.has]
  | 1, 1 => simp [HeadSet.add, HeadSet.has]

/-- R151: COMMITTED is pending with head `x` in its head mask. -/
def NoticeRecord.CommittedOn (r : NoticeRecord) (x : HeadId) : Prop := ∃ m, r.committed = some m ∧ m.has x = true

section
variable {n : ClientId} {s : State} (ho : (s.client n).state = .opened)
include ho

theorem closeOnHead_committedOn (h x : HeadId) : ((closeOnHead n s h).notice n).CommittedOn x ↔
    (s.notice n).CommittedOn x ∨ x = h ∧ s.holdsOn n h = true ∧ (s.head h).state = .stopped := by
  unfold NoticeRecord.CommittedOn
  rw [closeOnHead_committed ho]
  split
  · next hh =>
    simp only [Option.some.injEq, exists_eq_left', HeadSet.has_add, hh, and_true]
    refine or_congr_left ?_
    cases (s.notice n).committed with
    | none => simp [HeadSet.has]
    | some m => simp
  · next hh => simp only [hh, and_false, or_false]

theorem closeOnHead_committed_none (h : HeadId) : ((closeOnHead n s h).notice n).committed = none ↔
    (s.notice n).committed = none ∧ ¬ (s.holdsOn n h = true ∧ (s.head h).state = .stopped) := by
  rw [closeOnHead_committed ho]
  split
  · next hh => simp [hh]
  · next hh => simp only [hh, not_false_eq_true, and_true]

/-- R39, R44: COMMITTED has each STOPPED head where the client holds a window. -/
theorem closeOnHeads_committed :
    (∀ x, ((closeOnHeads n s).notice n).CommittedOn x ↔
      (s.notice n).CommittedOn x ∨ s.holdsOn n x = true ∧ (s.head x).state = .stopped) ∧
    (((closeOnHeads n s).notice n).committed = none ↔
      (s.notice n).committed = none ∧ ∀ x, ¬ (s.holdsOn n x = true ∧ (s.head x).state = .stopped)) := by
  have hmid : ((closeOnHead n s 0).client n).state = .opened := (closeOnHead_drain ho).1.opened ho
  have hfirst : (closeOnHead n s 0).head 1 = s.head 1 := closeOnHead_head_of_ne ho (by decide)
  have hholds : (closeOnHead n s 0).holdsOn n 1 = s.holdsOn n 1 :=
    State.holdsOn_congr (closeOnHead_appliedFor_of_ne (by decide))
  refine ⟨fun x => ?_, ?_⟩
  · rw [closeOnHeads, closeOnHead_committedOn hmid, closeOnHead_committedOn ho, hholds, hfirst]
    match x with
    | 0 => simp
    | 1 => simp
  · rw [closeOnHeads, closeOnHead_committed_none hmid, closeOnHead_committed_none ho, hholds, hfirst,
      Fin.forall_fin_two, and_assoc]
end

end Sys2Proof.Machine
end

section
/-! CLOSE_CLIENT (R141, R142, R44): what the windows, the heads and the client end as. -/

namespace Sys2Proof.Machine

/-! ### The windows before the heads are asked (R44) -/

/-- Client `n` holds a LIVE window on head `x`. -/
def HoldsLive (s : State) (n : ClientId) (x : HeadId) : Prop :=
  ∃ w hd img fault, (s.window w).life = .live hd img fault ∧ hd.owner = n ∧ hd.head = x

section
variable {n : ClientId} {s : State}

theorem prepareWindows_window (w : WindowId) : (prepareWindows n s).window w =
    if (s.window w).life.reservedBy n then { s.window w with life := .free }
    else if (s.window w).life.liveBy n then { s.window w with life := (s.window w).life.marked } else s.window w := by
  rw [prepareWindows, retireLive_window, freeReserved_window]
  by_cases hr : (s.window w).life.reservedBy n = true
  · rw [if_pos hr, if_pos hr]
    rfl
  · rw [if_neg hr, if_neg hr]

theorem prepareWindows_reserved {w : WindowId} {hd : Held} (hl : (s.window w).life = .reserved hd) (ho : hd.owner = n) :
    ((prepareWindows n s).window w).life = .free := by
  rw [prepareWindows_window, if_pos (Life.reservedBy_iff.mpr ⟨hd, hl, ho⟩)]

theorem prepareWindows_live {w : WindowId} {hd : Held} {img : Image} {f : Option Nat}
    (hl : (s.window w).life = .live hd img f) (ho : hd.owner = n) : (prepareWindows n s).window w =
      ⟨.live { hd with staged := { hd.staged with retirePending := true } } img f, (s.window w).refs⟩ := by
  rw [prepareWindows_window, if_neg, if_pos (Life.liveBy_iff.mpr ⟨hd, img, f, hl, ho⟩), hl]
  · rfl
  · rw [hl]
    exact Bool.false_ne_true

/-- R44: once its RESERVED windows are freed, an apply of the client processes its LIVE ones. -/
theorem prepareWindows_appliedFor {w : WindowId} {x : HeadId} :
    ((prepareWindows n s).window w).life.appliedFor n x = true ↔
      ∃ hd img f, (s.window w).life = .live hd img f ∧ hd.owner = n ∧ hd.head = x := by
  rw [prepareWindows_window]
  cases hl : (s.window w).life with
  | free => simp [Life.reservedBy, Life.liveBy, Life.appliedFor, hl]
  | reserved hd =>
    by_cases ho : hd.owner = n
    · simp [Life.reservedBy, Life.appliedFor, ho]
    · simp [Life.reservedBy, Life.liveBy, Life.appliedFor, ho, hl]
  | live hd img f =>
    by_cases ho : hd.owner = n
    · simp [Life.reservedBy, Life.liveBy, Life.marked, Life.appliedFor, ho]
    · simp [Life.reservedBy, Life.liveBy, Life.appliedFor, ho, hl]
  | retiring hd img f => simp [Life.reservedBy, Life.liveBy, Life.appliedFor, hl]

theorem prepareWindows_holdsOn {x : HeadId} : (prepareWindows n s).holdsOn n x = true ↔ HoldsLive s n x := by
  simp only [State.holdsOn, allWindows, List.any_eq_true, List.mem_finRange, true_and, prepareWindows_appliedFor,
    HoldsLive]

variable (ho : (s.client n).state = .opened)
include ho

theorem prepareWindows_pass :
    PassFrame n s (prepareWindows n s) ∧ ((prepareWindows n s).notice n).retired = (s.notice n).retired := by
  obtain ⟨hfree, hfreeRetired⟩ := freeReserved_pass ho
  obtain ⟨hmark, hmarkRetired⟩ := retireLive_pass (n := n) (freeReserved n s)
  exact ⟨hfree.trans hmark, hmarkRetired.trans hfreeRetired⟩

theorem prepareWindows_opened : ((prepareWindows n s).client n).state = .opened := (prepareWindows_pass ho).1.opened ho

/-! ### The client left OPEN, its windows drained -/

theorem drainWindows_frame : DrainFrame n s (drainWindows n s) :=
  (prepareWindows_pass ho).1.toDrainFrame.trans (closeOnHeads_drain (prepareWindows_opened ho)).1

theorem drainWindows_reserved {w : WindowId} {hd : Held} (hl : (s.window w).life = .reserved hd) (hown : hd.owner = n) :
    ((drainWindows n s).window w).life = .free :=
  (closeOnHeads_drain (prepareWindows_opened ho)).1.free (prepareWindows_reserved hl hown)

/-- R36, R44: a LIVE window takes retire pending; on a STOPPED head it is applied at once. -/
theorem drainWindows_live {w : WindowId} {hd : Held} {img : Image} {f : Option Nat}
    (hl : (s.window w).life = .live hd img f) (hown : hd.owner = n) : ((drainWindows n s).window w).life =
      if (s.head hd.head).state = .stopped then
        if (s.window w).refs = 0 then .free
        else .retiring { hd with staged := { hd.staged with retirePending := true } } img f
      else .live { hd with staged := { hd.staged with retirePending := true } } img f := by
  have happlied := prepareWindows_appliedFor.mpr ⟨hd, img, f, hl, hown, rfl⟩
  rw [drainWindows, closeOnHeads_window (prepareWindows_opened ho) happlied, (prepareWindows_pass ho).1.sameHeads,
    prepareWindows_live hl hown, apply_ite Window.life, Window.processed_live rfl]
  rfl

theorem drainWindows_head (x : HeadId) : HeadDrained n x (HoldsLive s n x) s (drainWindows n s) := by
  obtain ⟨hidle, hstopped, hrunning⟩ := closeOnHeads_drained (prepareWindows_opened ho) x
  rw [(prepareWindows_pass ho).1.sameHeads, prepareWindows_holdsOn] at hidle hstopped hrunning
  exact ⟨hidle, hstopped, hrunning⟩

theorem drainWindows_committed :
    (∀ x, ((drainWindows n s).notice n).CommittedOn x ↔
      (s.notice n).CommittedOn x ∨ HoldsLive s n x ∧ (s.head x).state = .stopped) ∧
    (((drainWindows n s).notice n).committed = none ↔
      (s.notice n).committed = none ∧ ∀ x, HoldsLive s n x → (s.head x).state ≠ .stopped) := by
  have h := closeOnHeads_committed (prepareWindows_opened ho)
  simpa only [drainWindows, (prepareWindows_pass ho).1.sameHeads, (prepareWindows_pass ho).1.committed,
    NoticeRecord.CommittedOn, prepareWindows_holdsOn, not_and, ne_eq] using h

/-- R11, R152: RETIRED has a LIVE window that has entered FREE, unless it was pending or there is none. -/
theorem drainWindows_retired :
    ∃ r, ((drainWindows n s).notice n).retired = keepFirst (s.notice n).retired r ∧
      (∀ w, r = some w → ∃ hd img f, (s.window w).life = .live hd img f ∧ Leaves n s (drainWindows n s) w) ∧
      (r = none → ∀ w, Leaves n s (drainWindows n s) w → ∃ hd, (s.window w).life = .reserved hd) := by
  have hprep := (prepareWindows_pass ho).1.toDrainFrame
  have hheads := (closeOnHeads_drain (prepareWindows_opened ho)).1
  obtain ⟨r, hr, hsome, hnone⟩ := (closeOnHeads_drain (prepareWindows_opened ho)).2
  have hleaves {w : WindowId} : Leaves n s (drainWindows n s) w ↔
      Leaves n s (prepareWindows n s) w ∨ Leaves n (prepareWindows n s) (drainWindows n s) w :=
    leaves_trans hprep hheads
  have hkind {w : WindowId} (hw : Leaves n s (drainWindows n s) w) :
      (∃ hd, (s.window w).life = .reserved hd ∧ hd.owner = n) ∨
        ∃ hd img f, (s.window w).life = .live hd img f ∧ hd.owner = n := by
    obtain ⟨hown, hfree⟩ := hw
    rw [Window.owner?] at hown
    cases hl : (s.window w).life with
    | free => rw [hl] at hown; cases hown
    | reserved hd => rw [hl] at hown; exact .inl ⟨hd, rfl, Option.some.inj hown⟩
    | live hd img f => rw [hl] at hown; exact .inr ⟨hd, img, f, rfl, Option.some.inj hown⟩
    | retiring hd img f =>
      rw [(drainWindows_frame ho).others w (.inr (by rw [hl]; rfl)), hl] at hfree
      cases hfree
  refine ⟨r, hr.trans (by rw [(prepareWindows_pass ho).2]), fun w hw => ?_, fun hw w hleft => ?_⟩
  · have hlast := hsome w hw
    have hleft := hleaves.mpr (.inr hlast)
    rcases hkind hleft with ⟨hd, hl, hown⟩ | ⟨hd, img, f, hl, -⟩
    · exact absurd (prepareWindows_reserved hl hown) (Window.ne_free_of_owner? hlast.1)
    · exact ⟨hd, img, f, hl, hleft⟩
  · rcases hkind hleft with ⟨hd, hl, -⟩ | ⟨hd, img, f, hl, hown⟩
    · exact ⟨hd, hl⟩
    · refine absurd (hleaves.mp hleft) (not_or.mpr ⟨fun h => ?_, hnone hw w⟩)
      have hfree := h.2
      rw [prepareWindows_live hl hown] at hfree
      cases hfree
end

/-! ### Held counts (R18) -/

theorem mem_freedOf {n : ClientId} {s u : State} {w : WindowId} : w ∈ freedOf s u n ↔ Leaves n s u w := by
  simp only [freedOf, freedIn, allWindows, List.mem_filter, List.mem_finRange, true_and, decide_eq_true_eq, Leaves]
  constructor
  · rintro ⟨⟨-, hfree⟩, hown⟩
    exact ⟨hown, hfree⟩
  · rintro ⟨hown, hfree⟩
    exact ⟨⟨Window.ne_free_of_owner? hown, hfree⟩, hown⟩

/-- R18: the held count falls by the windows that enter FREE. -/
theorem DrainFrame.held {n : ClientId} {s u : State} (b : DrainFrame n s u) (hs : HeldLaw s) (hu : HeldLaw u) :
    (u.client n).held = (s.client n).held - (freedOf s u n).length := by
  have hiff (w : WindowId) :
      (u.window w).owner? = some n ↔ (u.window w).life ≠ .free ∧ (s.window w).owner? = some n := by
    constructor
    · intro hown
      have hnot := Window.ne_free_of_owner? hown
      exact ⟨hnot, ((b.owners w).resolve_right hnot).symm.trans hown⟩
    · exact fun ⟨hnot, hown⟩ => ((b.owners w).resolve_right hnot).trans hown
  have hkept : u.ownedBy n = (s.ownedBy n).filter fun w => !decide ((u.window w).life = .free) := by
    rw [State.ownedBy, State.ownedBy, List.filter_filter]
    exact List.filter_congr fun w _ => by simp [hiff w]
  have hfreed : freedOf s u n = (s.ownedBy n).filter fun w => decide ((u.window w).life = .free) := by
    rw [freedOf, freedIn, State.ownedBy, List.filter_filter, List.filter_filter]
    refine List.filter_congr fun w _ => ?_
    by_cases hown : (s.window w).owner? = some n
    · simp [hown, Window.ne_free_of_owner? hown]
    · simp [hown]
  have hsum := List.length_eq_length_filter_add (l := s.ownedBy n) fun w => decide ((u.window w).life = .free)
  rw [(hs n).1, (hu n).1, hkept, hfreed]
  omega

/-! ### The client CLOSING or CLOSED at the end (R142, R144) -/

section
variable (n : ClientId) (u : State)

theorem settle_window (w : WindowId) : (settle n u).window w = u.window w := by
  unfold settle
  split <;> rfl

theorem settle_tag (i : TagNo) : (settle n u).tag i = u.tag i := by
  unfold settle
  split <;> rfl

theorem settle_keepsHost : KeepsHost u (settle n u) := by
  unfold settle
  split
  · exact enterClosed_keepsHost u n
  · exact setClient_keepsHost u n _

theorem settle_client (c : ClientId) : (settle n u).client c = if n ≠ c then u.client c else
    if (u.client n).held = 0 then Client.closedRecord else { u.client n with state := .closing } := by
  by_cases hc : n = c
  · subst hc
    rw [if_neg (not_not.mpr rfl), settle, apply_ite (fun v => State.client v n), enterClosed_client, if_pos rfl,
      closingOf, State.client_setClient_self]
  · rw [if_pos hc, settle, apply_ite (fun v => State.client v c), enterClosed_client, if_neg hc, closingOf,
      State.client_setClient_of_ne u hc, ite_self]

/-- R142: the client ends CLOSED when it holds nothing, CLOSING otherwise. -/
theorem settle_outcome :
    ((u.client n).held = 0 ∧ (settle n u).client n = Client.closedRecord) ∨
    ((u.client n).held ≠ 0 ∧ (settle n u).client n = { u.client n with state := .closing }) := by
  rw [settle_client, if_neg (not_not.mpr rfl)]
  by_cases hz : (u.client n).held = 0
  · exact .inl ⟨hz, if_pos hz⟩
  · exact .inr ⟨hz, if_neg hz⟩

theorem settle_held : ((settle n u).client n).held = (u.client n).held := by
  rcases settle_outcome n u with ⟨hz, e⟩ | ⟨-, e⟩ <;> rw [e]
  exact hz.symm

theorem settle_closed_iff : ((settle n u).client n).state = .closed ↔ (u.client n).held = 0 := by
  rcases settle_outcome n u with ⟨hz, e⟩ | ⟨hz, e⟩ <;> rw [e]
  · exact iff_of_true rfl hz
  · exact iff_of_false ClientState.noConfusion hz

/-- R45: a client that ends CLOSED leaves the Commit Queues; nothing else of a head changes. -/
theorem settle_head (x : HeadId) : (settle n u).head x = { u.head x with
    commitQueue := if (u.client n).held = 0 then (u.head x).commitQueue.filter (· ≠ n) else (u.head x).commitQueue } := by
  unfold settle
  split
  · exact enterClosed_head u n x
  · rfl

variable {n} (h0 : n ≠ 0)
include h0

/-- R144: the notices of a client that ends CLOSED are cleared, and client 0 is told. -/
theorem settle_notice (c : ClientId) : (settle n u).notice c =
    if (u.client n).held ≠ 0 then u.notice c
    else if c = 0 then { u.notice 0 with clientClosed := keepFirst (u.notice 0).clientClosed (some n) }
    else if c = n then NoticeRecord.cleared else u.notice c := by
  by_cases hz : (u.client n).held = 0
  · rw [if_neg (not_not.mpr hz), settle, if_pos hz, enterClosed_notice, if_neg h0, ← firstSubject_eq]
    rfl
  · rw [if_pos hz, settle, if_neg hz]
    rfl
end

/-- R144, R45: what becoming CLOSED is. -/
theorem settle_becomesClosed {n : ClientId} {s u : State} (b : DrainFrame n s u) (h0 : n ≠ 0)
    (hz : (u.client n).held = 0) : BecomesClosed s (settle n u) n where
  client := by
    rw [settle_client, if_neg (not_not.mpr rfl), if_pos hz]
    rfl
  queues x := by
    rw [settle_head, if_pos hz]
    simp
  notice := by rw [settle_notice u h0, if_neg (not_not.mpr hz), if_neg h0, if_pos rfl]
  told := by rw [settle_notice u h0, if_neg (not_not.mpr hz), if_pos rfl, b.notices 0 (Ne.symm h0)]

/-! ### The whole close -/

section
variable {n : ClientId} {s : State} (ho : (s.client n).state = .opened) (hlaw : HeldLaw (drainWindows n s))
include ho

/-- R45, R142: the heads, with the Commit Queue that is left of each if the client ends CLOSED. -/
theorem closed_head (x : HeadId) : (settle n (drainWindows n s)).head x = { s.head x with
    commitQueue := ((settle n (drainWindows n s)).head x).commitQueue
    depthList := ((settle n (drainWindows n s)).head x).depthList } := by
  rw [settle_head, (drainWindows_frame ho).heads x]

/-- R38, R44: the Depth List is rebuilt on STOPPED heads where the client holds a LIVE window. -/
theorem closed_depthList (x : HeadId) :
    (HoldsLive s n x → (s.head x).state = .stopped → ((settle n (drainWindows n s)).head x).depthList =
      builtDepthList x (settle n (drainWindows n s))) ∧
    (¬ HoldsLive s n x ∨ (s.head x).state ≠ .stopped →
      ((settle n (drainWindows n s)).head x).depthList = (s.head x).depthList) := by
  obtain ⟨hidle, hstopped, hrunning⟩ := drainWindows_head ho x
  have hlist : builtDepthList x (settle n (drainWindows n s)) = builtDepthList x (drainWindows n s) :=
    builtDepthList_congr fun w => by rw [settle_window]
  rw [settle_head, hlist]
  refine ⟨fun hw hs => by rw [hstopped hw hs], fun hnot => ?_⟩
  by_cases hw : HoldsLive s n x
  · rw [hrunning hw (hnot.resolve_left (not_not.mpr hw))]
  · rw [hidle hw]

include hlaw

/-- R18: a client with a LIVE window on a running head still holds it. -/
theorem drainWindows_held_of_running {x : HeadId} (hw : HoldsLive s n x) (hs : (s.head x).state ≠ .stopped) :
    ((drainWindows n s).client n).held ≠ 0 := by
  obtain ⟨w, hd, img, f, hl, hown, rfl⟩ := hw
  have hlive := drainWindows_live ho hl hown
  rw [if_neg hs] at hlive
  have hmem : w ∈ (drainWindows n s).ownedBy n :=
    State.mem_ownedBy.mpr (by rw [Window.owner?, hlive]; exact congrArg some hown)
  rw [(hlaw n).1]
  exact Nat.ne_of_gt (List.length_pos_of_mem hmem)

/-- R44, R45: the Commit Queue of a running head where the client holds a LIVE window has the client; another loses it
when it ends CLOSED. -/
theorem closed_commitQueue (x : HeadId) :
    (HoldsLive s n x → (s.head x).state ≠ .stopped → ((settle n (drainWindows n s)).head x).commitQueue =
      (s.head x).commitQueue ++ (if n ∈ (s.head x).commitQueue then [] else [n])) ∧
    (¬ HoldsLive s n x ∨ (s.head x).state = .stopped → ((settle n (drainWindows n s)).head x).commitQueue =
      if ((settle n (drainWindows n s)).client n).state = .closed then (s.head x).commitQueue.filter (· ≠ n)
      else (s.head x).commitQueue) := by
  obtain ⟨hidle, hstopped, hrunning⟩ := drainWindows_head ho x
  rw [settle_head]
  refine ⟨fun hw hs => ?_, fun hnot => ?_⟩
  · rw [if_neg (drainWindows_held_of_running ho hlaw hw hs), hrunning hw hs]
  · have hqueue : ((drainWindows n s).head x).commitQueue = (s.head x).commitQueue := by
      by_cases hw : HoldsLive s n x
      · rw [hstopped hw (hnot.resolve_left (not_not.mpr hw))]
      · rw [hidle hw]
    simp only [hqueue, settle_closed_iff]
end

/-- R39, R11, R152: the notices of a client that ends CLOSING. -/
theorem closed_notice {n : ClientId} {s : State} (ho : (s.client n).state = .opened) (h0 : n ≠ 0)
    (hheld : ((drainWindows n s).client n).held ≠ 0) :
    (∀ x, ((settle n (drainWindows n s)).notice n).CommittedOn x ↔
      (s.notice n).CommittedOn x ∨ HoldsLive s n x ∧ (s.head x).state = .stopped) ∧
    (((settle n (drainWindows n s)).notice n).committed = none ↔
      (s.notice n).committed = none ∧ ∀ x, HoldsLive s n x → (s.head x).state ≠ .stopped) ∧
    (∃ r : Option WindowId, ((settle n (drainWindows n s)).notice n).retired = keepFirst (s.notice n).retired r ∧
      (∀ w, r = some w → ∃ hd img fault, (s.window w).life = .live hd img fault ∧
        w ∈ freedOf s (settle n (drainWindows n s)) n) ∧
      (r = none → ∀ w ∈ freedOf s (settle n (drainWindows n s)) n, ∃ hd, (s.window w).life = .reserved hd)) ∧
    (settle n (drainWindows n s)).notice n = { s.notice n with
      committed := ((settle n (drainWindows n s)).notice n).committed
      retired := ((settle n (drainWindows n s)).notice n).retired } := by
  obtain ⟨hcommitted, hnone⟩ := drainWindows_committed ho
  have hretired := drainWindows_retired ho
  simp only [settle_notice _ h0, if_pos hheld, mem_freedOf, Leaves, settle_window]
  exact ⟨hcommitted, hnone, hretired, (drainWindows_frame ho).notice⟩

theorem freedOf_settle (n : ClientId) (s u : State) : freedOf s (settle n u) n = freedOf s u n := by
  simp only [freedOf, freedIn, settle_window]

theorem State.tags_eq {s u : State} (h : ∀ i, u.tag i = s.tag i) : u.tags = s.tags :=
  Vector.ext fun i hi => h ⟨i, hi⟩

/-! ### CLOSE_CLIENT as a command (R141) -/

section
variable {s : State} {c n : ClientId} {args : List Word}

theorem bodyCloseClient_busy (hs : (s.client n).state = .closing) :
    bodyCloseClient n c args s = (s, refusal .busy) := by
  simp only [bodyCloseClient, hs]

theorem bodyCloseClient_closed (hs : (s.client n).state = .closed) :
    bodyCloseClient n c args s = (s, accepted [2]) := by
  simp only [bodyCloseClient, hs, resultClosed]

theorem bodyCloseClient_opened (hs : (s.client n).state = .opened) : bodyCloseClient n c args s =
    (closeClient n s, accepted [if ((closeClient n s).client n).state = .closed then 2 else 1]) := by
  simp only [bodyCloseClient, hs, resultClosed, resultClosing]
end

/-- Settles O25: the close is followed on the client left OPEN, whose windows are drained, and the entry to CLOSED or
CLOSING is made at the end. -/
theorem closeClientDrainsItsWindows : Obligations.CloseClientDrainsItsWindows := by
  intro s t n hs ht hc hn
  rw [exec_closeClient ht]
  refine ⟨fun h0 => ?_, fun h0 hst => ?_, fun h0 hst => ?_, fun h0 hst => ?_⟩
  · rw [takeMessage_client0 hc hn h0]
  all_goals rw [takeMessage_tenant hc hn h0]
  · rw [takeMessage_of_body (bodyCloseClient_busy hst)]
  · rw [takeMessage_of_body (bodyCloseClient_closed hst)]
  have ho : ((closeChannel n (consume t s)).client n).state = .opened := hst
  have hs' : HeldLaw (closeChannel n (consume t s)) := hs.of_owners (fun _ => rfl) fun _ => rfl
  obtain ⟨hlaw, hclose⟩ := closeClient_eq_settle (s := consume t s) hs hst
  have hframe := drainWindows_frame ho
  have hhost := hframe.host.trans (settle_keepsHost n _)
  have hchannel (c : ClientId) := hhost.channel c
  have hheads := closed_head ho
  have hlists := closed_depthList ho
  have hqueues := closed_commitQueue ho hlaw
  have hnotices := closed_notice ho h0
  have hheld := hframe.held hs' hlaw
  have hlive {w hd img f} (hl : (s.window w).life = .live hd img f) := drainWindows_live ho hl
  have hreserved {w hd} (hl : (s.window w).life = .reserved hd) := drainWindows_reserved ho hl
  have hbody := bodyCloseClient_opened (s := consume t s) (c := t.client) (args := t.message.args) hst
  rw [hclose] at hbody
  rw [takeMessage, hbody]
  generalize drainWindows n (closeChannel n (consume t s)) = u at *
  refine ⟨settle n u, by rw [hc], ?_, ?_, ?_, fun hz => ?_, ?_, fun w hd hl hown => ?_, fun w hd img f hl hown => ?_,
    fun w hw => ?_, fun w hw => ?_, ?_, hhost.lastServed, hhost.pointer.trans hc, hhost.readData, hhost.resetHeld,
    hhost.pending, fun w => ?_, fun c hcn => ?_, ?_, fun hz => ?_, ?_⟩
  · rw [settle_closed_iff, settle_held]
  · rcases settle_outcome n u with ⟨-, e⟩ | ⟨-, e⟩ <;> rw [e]
    · exact .inl rfl
    · exact .inr rfl
  · rw [settle_held, freedOf_settle]
    exact hheld
  · obtain ⟨hclient, hleft, hnotice, htold⟩ := settle_becomesClosed hframe h0 ((settle_closed_iff n u).mp hz)
    exact ⟨hclient, hleft, hnotice, htold⟩
  · rw [hchannel, closeChannel, State.channel_setChannel_self, consume, State.channel_with_pointer, hc,
      State.channel_setChannel_of_ne s (Ne.symm h0)]
  · rw [settle_window]
    exact hreserved hl hown
  · rw [settle_window, hlive hl hown]
    exact ⟨fun hrun => if_neg hrun, fun hstop => if_pos hstop⟩
  · rw [settle_window]
    exact hframe.others w (.inl hw)
  · rw [settle_window]
    exact hframe.others w (.inr hw)
  · exact State.tags_eq (s := s) fun i => (settle_tag n u i).trans (hframe.tags i)
  · rw [settle_window]
    exact hframe.refs w
  · refine ⟨?_, ?_, fun hc0 => ?_⟩
    · rw [settle_client, if_pos (Ne.symm hcn)]
      exact hframe.clients c hcn
    · rw [hchannel, closeChannel, State.channel_setChannel_of_ne _ (Ne.symm hcn)]
    · simp only [settle_notice u h0, if_neg hc0, if_neg hcn, ite_self]
      exact hframe.notices c hcn
  · have h0' : u.notice 0 = s.notice 0 := hframe.notices 0 (Ne.symm h0)
    rw [settle_notice u h0, h0']
    split
    · rfl
    · rfl
  · rw [settle_notice u h0, if_pos (mt (settle_closed_iff n u).mpr hz)]
    exact congrArg NoticeRecord.clientClosed (hframe.notices 0 (Ne.symm h0))
  · intro holdsLive
    refine ⟨fun x => ⟨hheads x, (hlists x).1, (hlists x).2, (hqueues x).1, (hqueues x).2⟩, fun hz => ?_⟩
    exact hnotices (mt (settle_closed_iff n u).mpr hz)

end Sys2Proof.Machine
end

section
/-! Proofs of the family of notices (09): the words in which FETCH_NOTICES reports a record, and the kind sets that
SET_NOTICE_MASK takes. -/

namespace Sys2Proof.Machine

/-! ### The two commands as their bodies -/

section
variable {s : State} {t : Taken}

theorem exec_fetchNotices (h : Takes s 0x50 0 t) :
    exec .fetchNotices s = .next (takeMessage t bodyFetchNotices s) :=
  congrArg Host.Outcome.next (engineTake_of_takes h _)

theorem exec_setNoticeMask (h : Takes s 0x51 1 t) :
    exec .setNoticeMask s = .next (takeMessage t bodySetNoticeMask s) :=
  congrArg Host.Outcome.next (engineTake_of_takes h _)
end

theorem consume_setNotice (t : Taken) (s : State) (c : ClientId) (r : NoticeRecord) :
    (consume t s).setNotice c r = consume t (s.setNotice c r) := rfl

/-! ### The first word: the pending kinds and the COMMITTED head mask (R155, 10.8) -/

/-- A bit of a field, as a bit of the word. -/
theorem getLsbD_eq_testBit_fieldOf (w : Word) {hi lo i : Nat} (h : i ≤ hi - lo) :
    w.getLsbD (lo + i) = (fieldOf w hi lo).testBit i := by
  rw [testBit_fieldOf, decide_eq_true (Nat.lt_succ_of_le h), Bool.true_and]

/-- A bit of a field, as a field of one bit. -/
theorem fieldOf_bit_eq_one_iff (w : Word) {hi lo i : Nat} (h : i ≤ hi - lo) :
    fieldOf w (lo + i) (lo + i) = 1 ↔ (fieldOf w hi lo).testBit i = true := by
  rw [fieldOf_bit, Bool.toNat_eq_one, getLsbD_eq_testBit_fieldOf w h]

theorem HeadSet.code_lt (hs : HeadSet) : hs.code < 4 := by
  unfold HeadSet.code
  split <;> split <;> decide

/-- R155: of the COMMITTED head mask, a head is in it only while COMMITTED is pending. -/
theorem committedMask_testBit (x : Option HeadSet) :
    ((x.getD ⟨false, false⟩).code.testBit 0 = true ↔ x.map HeadSet.head0 = some true) ∧
      ((x.getD ⟨false, false⟩).code.testBit 1 = true ↔ x.map HeadSet.head1 = some true) := by
  obtain ⟨h0, h1⟩ := HeadSet.code_testBit (x.getD ⟨false, false⟩)
  rw [h0, h1]
  cases x with
  | none => simp [HeadSet.has]
  | some hs => simp [HeadSet.has]

/-- 10.8: the pending kinds by their positions. -/
theorem NoticeRecord.pendingBits_testBit (r : NoticeRecord) (i : Nat) :
    r.pendingBits.toNat.testBit i = r.pendingKinds.getD i false := by
  rw [BitVec.testBit_toNat]
  exact BitVec.getLsbD_ofBoolListLE

/-! ### The subjects (R155, 10.8) -/

theorem subject_eq {n : Nat} (x : Option (Fin n)) : subject x = (x.map Fin.val).getD 0 := by
  cases x <;> rfl

theorem subject_lt {n : Nat} (hn : 0 < n) (x : Option (Fin n)) : subject x < n := by
  cases x with
  | none => exact hn
  | some v => exact v.isLt

/-- A subject packed in a field that has room for every number of its kind reads back, 0 when none is held. -/
theorem fieldOf_packWord_subject {fields : List (Nat × Nat × Nat)} (hl : RisingLayout fields) {n hi lo : Nat}
    {x : Option (Fin n)} (hm : (hi, lo, subject x) ∈ fields) (hn : 0 < n ∧ n ≤ 2 ^ (hi - lo + 1)) :
    fieldOf (packWord fields) hi lo = (x.map Fin.val).getD 0 := by
  rw [fieldOf_packWord_of_mem hl hm ((subject_lt hn.1 x).trans_le hn.2), subject_eq]

/-! ### The words of FETCH_NOTICES (R155) -/

/-- The pending kinds and the COMMITTED head mask. -/
def NoticeRecord.kindsWord (r : NoticeRecord) : Word :=
  packWord [(9, 0, r.pendingBits.toNat), (17, 16, (r.committed.getD ⟨false, false⟩).code)]

/-- The subjects of the tenant kinds that name a window: UNDERRUN, LAYER_DROPPED, FETCH_FAULT and RETIRED. -/
def NoticeRecord.tenantFields (r : NoticeRecord) : List (Nat × Nat × Nat) :=
  [(7, 0, subject r.underrun), (15, 8, subject r.layerDropped), (23, 16, subject r.fetchFault),
    (31, 24, subject r.retired)]

/-- The subjects of the supervisor kinds. -/
def NoticeRecord.supervisorFields (r : NoticeRecord) : List (Nat × Nat × Nat) :=
  [(3, 0, subject r.followLocked), (7, 4, subject r.followLost), (15, 8, subject r.tagAbandoned),
    (19, 16, subject r.strayResponse), (23, 20, subject r.clientClosed)]

section
variable (r : NoticeRecord)

theorem noticeWords_eq : noticeWords r = [r.kindsWord, packWord r.tenantFields, packWord r.supervisorFields] := rfl

theorem tenantFields_rising : RisingLayout r.tenantFields := by
  simp [RisingLayout, NoticeRecord.tenantFields]

theorem supervisorFields_rising : RisingLayout r.supervisorFields := by
  simp [RisingLayout, NoticeRecord.supervisorFields]

/-- The two fields of the first word. -/
theorem fieldOf_kindsWord : fieldOf r.kindsWord 9 0 = r.pendingBits.toNat ∧
    fieldOf r.kindsWord 17 16 = (r.committed.getD ⟨false, false⟩).code :=
  fieldOf_packWord_pair (by decide) r.pendingBits.isLt (HeadSet.code_lt _)

/-- R155: each kind is reported pending at its position. -/
theorem kindsWord_getLsbD (i : Nat) (hi : i ≤ 9) : r.kindsWord.getLsbD i = r.pendingKinds.getD i false := by
  have hbit := getLsbD_eq_testBit_fieldOf r.kindsWord (hi := 9) (lo := 0) hi
  rw [Nat.zero_add, (fieldOf_kindsWord r).1, r.pendingBits_testBit] at hbit
  exact hbit

/-- R155: the COMMITTED head mask is reported, empty while COMMITTED is not pending. -/
theorem kindsWord_headMask :
    (fieldOf r.kindsWord 16 16 = 1 ↔ r.committed.map HeadSet.head0 = some true) ∧
      (fieldOf r.kindsWord 17 17 = 1 ↔ r.committed.map HeadSet.head1 = some true) := by
  have hbit {i : Nat} (hi : i ≤ 1) := fieldOf_bit_eq_one_iff r.kindsWord (hi := 17) (lo := 16) hi
  simp only [(fieldOf_kindsWord r).2] at hbit
  obtain ⟨h0, h1⟩ := committedMask_testBit r.committed
  exact ⟨(hbit (by decide)).trans h0, (hbit (by decide)).trans h1⟩
end

/-! ### SET_NOTICE_MASK (R154) -/

/-- R154: a kind set with a position that is no kind or, from a tenant, with a supervisor kind. -/
theorem maskNamed_eq_none {c : ClientId} {n : Nat} (h : 1024 ≤ n ∨ (c ≠ 0 ∧ 32 ≤ n)) : maskNamed c n = none := by
  unfold maskNamed
  split
  · rfl
  next hkind => exact if_pos (h.resolve_left hkind)

theorem maskNamed_eq_some {c : ClientId} {n : Nat} (hn : n < 1024) (hc : c = 0 ∨ n < 32) :
    maskNamed c n = some (BitVec.ofNat 10 n) := by
  have hkind : ¬ 2 ^ 10 ≤ n := not_le.mpr hn
  have htenant : ¬ (c ≠ 0 ∧ 2 ^ 5 ≤ n) := fun h => hc.elim h.1 (not_lt.mpr h.2)
  rw [maskNamed, if_neg hkind, if_neg htenant]

section
variable {s : State} {c : ClientId} {args : List Word}

theorem bodySetNoticeMask_badCommand (h : maskNamed c (argNat args 0) = none) :
    bodySetNoticeMask c args s = (s, refusal .badCommand) := by
  simp only [bodySetNoticeMask, h]

theorem bodySetNoticeMask_accepted {mask : BitVec 10} (h : maskNamed c (argNat args 0) = some mask) :
    bodySetNoticeMask c args s = (s.setNotice c { s.notice c with mask := mask }, accepted []) := by
  simp only [bodySetNoticeMask, h]
end

/-- Settles O28: the three words of FETCH_NOTICES read back field by field, and the clauses of SET_NOTICE_MASK are the
branches of its body. -/
theorem noticeCommandsActOnTheIssuersRecord : Obligations.NoticeCommandsActOnTheIssuersRecord := by
  refine ⟨fun s t ht => ?_, fun s t ht => ⟨fun hbad => ?_, fun hkind htenant => ?_⟩⟩
  · intro r
    have hbody : bodyFetchNotices t.client t.message.args (consume t s) =
        (consume t (s.setNotice t.client { NoticeRecord.cleared with mask := r.mask }), accepted (noticeWords r)) := rfl
    have hpending := kindsWord_getLsbD r
    obtain ⟨hhead0, hhead1⟩ := kindsWord_headMask r
    rw [exec_fetchNotices ht, takeMessage_of_body hbody, noticeWords_eq]
    refine ⟨_, _, _, rfl, hpending 0 (by decide), hpending 1 (by decide), hpending 2 (by decide), hpending 3 (by decide),
      hpending 4 (by decide), hpending 5 (by decide), hpending 6 (by decide), hpending 7 (by decide),
      hpending 8 (by decide), hpending 9 (by decide), hhead0, hhead1, ?underrun, ?layerDropped, ?fetchFault, ?retired,
      ?followLocked, ?followLost, ?tagAbandoned, ?strayResponse, ?clientClosed⟩
    case underrun | layerDropped | fetchFault | retired =>
      exact fieldOf_packWord_subject (tenantFields_rising r) (by simp [NoticeRecord.tenantFields]) (by decide)
    case followLocked | followLost | tagAbandoned | strayResponse | clientClosed =>
      exact fieldOf_packWord_subject (supervisorFields_rising r) (by simp [NoticeRecord.supervisorFields]) (by decide)
  · rw [exec_setNoticeMask ht, takeMessage_of_body (bodySetNoticeMask_badCommand (maskNamed_eq_none hbad))]
  · rw [exec_setNoticeMask ht, takeMessage_of_body ((bodySetNoticeMask_accepted (s := consume t s)
      (maskNamed_eq_some hkind htenant)).trans (by rw [consume_setNotice]))]
    rfl

end Sys2Proof.Machine
end

section
/-! Proofs of the family of command channels and messages (10): the pages of the host bus, the two FIFOs and STATUS,
the message that the Command Engine takes and the checks made on it, and the part held in reset. -/

namespace Sys2Proof.Machine

/-! ### The pages of the host bus (R160, R166) -/

@[simp] theorem channelOfPage_pageOf (c : ClientId) : channelOfPage (pageOf c) = some c := dif_pos c.isLt

@[simp] theorem channelOfPage_devicePage : channelOfPage devicePage = none := rfl

/-- R160: every page but the device control page is the page of a channel. -/
theorem exists_pageOf {page : PageNo} (h : page ≠ devicePage) : ∃ c, page = pageOf c := by
  refine ⟨⟨page.val, ?_⟩, rfl⟩
  have hne : page.val ≠ 8 := fun e => h (Fin.ext e)
  omega

section
variable {s : State} {c : ClientId} {page : PageNo} {word : WordIndex} {lanes : Lanes} {data : Word}

/-- R166: while RESET_N is low a write is discarded. -/
theorem hostWrite_held (hr : s.resetHeld = true) : hostWrite page word lanes data s = s := by
  rw [hostWrite, hr, if_pos rfl]

/-- R166: while RESET_N is low a read returns 0. -/
theorem hostRead_held (hr : s.resetHeld = true) : hostRead page word s = (0, s) := by
  rw [hostRead, hr, if_pos rfl]

theorem hostWrite_command (hr : s.resetHeld = false) :
    hostWrite (pageOf c) commandIndex lanes data s = writeCommand c (maskLanes lanes data) s := by
  simp only [hostWrite, hr, Bool.false_eq_true, if_false, channelOfPage_pageOf, if_true]

theorem hostWrite_control (hr : s.resetHeld = false) :
    hostWrite (pageOf c) controlIndex lanes data s = writeControl c (maskLanes lanes data) s := by
  have hne : controlIndex ≠ commandIndex := by decide
  simp only [hostWrite, hr, Bool.false_eq_true, if_false, channelOfPage_pageOf, if_neg hne, if_true]

/-- R160: of a channel page, only COMMAND and CONTROL take writes. -/
theorem hostWrite_channel_other (h0 : word ≠ commandIndex) (h3 : word ≠ controlIndex) :
    hostWrite (pageOf c) word lanes data s = s := by
  simp only [hostWrite, channelOfPage_pageOf, if_neg h0, if_neg h3, ite_self]

/-- R166: of the device control page, only word 0 takes writes. -/
theorem hostWrite_device_other (h : word ≠ 0) : hostWrite devicePage word lanes data s = s := by
  simp only [hostWrite, channelOfPage_devicePage, if_neg h, ite_self]

theorem hostRead_response (hr : s.resetHeld = false) : hostRead (pageOf c) responseIndex s = readResponse c s := by
  simp only [hostRead, hr, Bool.false_eq_true, if_false, channelOfPage_pageOf, if_true]

theorem hostRead_status (hr : s.resetHeld = false) : hostRead (pageOf c) statusIndex s = (s.statusWord c, s) := by
  have hne : statusIndex ≠ responseIndex := by decide
  simp only [hostRead, hr, Bool.false_eq_true, if_false, channelOfPage_pageOf, if_neg hne, if_true]

/-- R160: of a channel page, only RESPONSE and STATUS hold something to read. -/
theorem hostRead_channel_other (h1 : word ≠ responseIndex) (h2 : word ≠ statusIndex) :
    hostRead (pageOf c) word s = (0, s) := by
  simp only [hostRead, channelOfPage_pageOf, if_neg h1, if_neg h2, ite_self]

/-- R166: the device control page reads 0. -/
theorem hostRead_device : hostRead devicePage word s = (0, s) := by
  simp only [hostRead, channelOfPage_devicePage, ite_self]
end

section
variable (page : PageNo) (word : WordIndex) (c : ClientId) (lanes : Lanes) (data : Word) (s : State)

theorem exec_commandWrite :
    exec (.commandWrite c lanes data) s = .next (hostWrite (pageOf c) commandIndex lanes data s) := rfl

theorem exec_resync :
    exec (.resync c lanes data) s = .next (hostWrite (pageOf c) controlIndex lanes data s) := rfl

theorem exec_reset_hostWrite : exec (.reset lanes data) s = .next (hostWrite devicePage 0 lanes data s) := rfl

theorem exec_hostWriteDiscarded :
    exec (.hostWriteDiscarded page word lanes data) s = .next (hostWrite page word lanes data s) := rfl

theorem exec_responseRead : exec (.responseRead c) s =
    .next { (hostRead (pageOf c) responseIndex s).2 with readData := (hostRead (pageOf c) responseIndex s).1 } := rfl
end

/-! ### COMMAND, CONTROL and RESPONSE (R162 to R164) -/

section
variable {s : State} {c : ClientId} {w : Word}

theorem writeCommand_room (ho : (s.channel c).state = .opened) (hl : (s.channel c).commands.length < 16) :
    writeCommand c w s = s.setChannel c { s.channel c with commands := (s.channel c).commands ++ [w] } := by
  simp only [writeCommand, ho, fifoDepth, if_pos hl]

theorem writeCommand_full (ho : (s.channel c).state = .opened) (hl : 16 ≤ (s.channel c).commands.length) :
    writeCommand c w s = s.setChannel c { s.channel c with state := .framingLost } := by
  simp only [writeCommand, ho, fifoDepth, if_neg (not_lt.mpr hl)]

theorem writeCommand_not_opened (ho : (s.channel c).state ≠ .opened) : writeCommand c w s = s := by
  cases hs : (s.channel c).state with
  | opened => exact absurd hs ho
  | closed => simp only [writeCommand, hs]
  | framingLost => simp only [writeCommand, hs]

theorem writeControl_resync (ha : w.toNat % 256 = 1) : writeControl c w s = s.setChannel c { s.channel c with
    state := if (s.channel c).state = .framingLost then .opened else (s.channel c).state, commands := [] } := by
  have hact : actionOf w = actionResync := (actionOf_eq w).trans ha
  rw [writeControl, if_pos hact]

theorem writeControl_other (ha : w.toNat % 256 ≠ 1) : writeControl c w s = s := by
  have hact : actionOf w ≠ actionResync := fun e => ha ((actionOf_eq w).symm.trans e)
  rw [writeControl, if_neg hact]

theorem writeDevice_other (ha : w.toNat % 256 ≠ 1) : writeDevice w s = s := by
  have hact : actionOf w ≠ actionReset := fun e => ha ((actionOf_eq w).symm.trans e)
  rw [writeDevice, if_neg hact]

theorem readResponse_nil (h : (s.channel c).responses = []) : readResponse c s = (0, s) := by
  simp only [readResponse, h]

theorem readResponse_cons {rest : List Word} (h : (s.channel c).responses = w :: rest) :
    readResponse c s = (w, s.setChannel c { s.channel c with responses := rest }) := by
  simp only [readResponse, h]
end

/-- Settles O7: each access is one operation on the channel, and each clause one branch of it. -/
theorem channelFifosTakeHostAccesses : Obligations.ChannelFifosTakeHostAccesses := by
  refine ⟨fun s c lanes data hr => ?_, fun s c hr => ?_⟩
  · rw [exec_commandWrite, hostWrite_command hr, exec_resync, hostWrite_control hr]
    refine ⟨fun ho hl => ?_, fun ho hl => ?_, fun ho => ?_, fun ha => ?_, fun ha => ?_⟩
    · rw [writeCommand_room ho hl]; rfl
    · rw [writeCommand_full ho hl]; rfl
    · rw [writeCommand_not_opened ho]
    · rw [writeControl_resync ha]; rfl
    · rw [writeControl_other ha]
  · rw [exec_responseRead, hostRead_response hr]
    refine ⟨fun h => ?_, fun w rest h => ?_⟩
    · rw [readResponse_nil h]
    · rw [readResponse_cons h]; rfl

/-! ### Byte lanes and STATUS (R160, R165) -/

theorem getLsbD_ite_zero (b : Bool) (w : Word) (i : Nat) :
    (if b = true then w else 0).getLsbD i = (b && w.getLsbD i) := by
  cases b <;> simp

/-- The mask of each byte lane has the bits of its byte. -/
theorem laneMasks_getLsbD {i : Nat} (h : i < 32) :
    (0x000000FF#32).getLsbD i = decide (i / 8 = 0) ∧ (0x0000FF00#32).getLsbD i = decide (i / 8 = 1) ∧
      (0x00FF0000#32).getLsbD i = decide (i / 8 = 2) ∧ (0xFF000000#32).getLsbD i = decide (i / 8 = 3) := by
  have hall : ∀ j : Fin 32,
      (0x000000FF#32).getLsbD j = decide (j.val / 8 = 0) ∧ (0x0000FF00#32).getLsbD j = decide (j.val / 8 = 1) ∧
        (0x00FF0000#32).getLsbD j = decide (j.val / 8 = 2) ∧ (0xFF000000#32).getLsbD j = decide (j.val / 8 = 3) := by
    decide
  exact hall ⟨i, h⟩

/-- R160: a bit of a host write is taken if its byte's lane is enabled. -/
theorem maskLanes_getLsbD (lanes : Lanes) (data : Word) {i : Nat} (h : i < 32) :
    (maskLanes lanes data).getLsbD i = (lanes.getLsbD (i / 8) && data.getLsbD i) := by
  obtain ⟨m0, m1, m2, m3⟩ := laneMasks_getLsbD h
  have hbits : (maskLanes lanes data).getLsbD i =
      (lanes.getLsbD 0 && (data.getLsbD i && decide (i / 8 = 0)) ||
        lanes.getLsbD 1 && (data.getLsbD i && decide (i / 8 = 1)) ||
        lanes.getLsbD 2 && (data.getLsbD i && decide (i / 8 = 2)) ||
        lanes.getLsbD 3 && (data.getLsbD i && decide (i / 8 = 3))) := by
    simp only [maskLanes, BitVec.getLsbD_or, getLsbD_ite_zero, BitVec.getLsbD_and, m0, m1, m2, m3]
  have hlane : i / 8 = 0 ∨ i / 8 = 1 ∨ i / 8 = 2 ∨ i / 8 = 3 := by omega
  rw [hbits]
  rcases hlane with e | e | e | e <;> simp [e]

theorem ChannelState.code_lt (st : ChannelState) : st.code < 4 := by cases st <;> decide

/-- R165: what the STATUS word carries. -/
theorem statusWord_report {s : State} {c : ClientId} (hr : (s.channel c).responses.length ≤ 16) :
    fieldOf (s.statusWord c) 4 0 = 16 - (s.channel c).commands.length ∧
      fieldOf (s.statusWord c) 12 8 = (s.channel c).responses.length ∧
      fieldOf (s.statusWord c) 17 16 = (s.channel c).state.code ∧
      (fieldOf (s.statusWord c) 24 24 = 1 ↔ s.indication c = true) := by
  have hrise : RisingLayout [(4, 0, fifoDepth - (s.channel c).commands.length),
      (12, 8, (s.channel c).responses.length), (17, 16, (s.channel c).state.code),
      (24, 24, markBit (s.indication c))] := by simp [RisingLayout]
  refine ⟨?free, ?held, ?state, ?notice⟩
  case free => exact fieldOf_packWord_of_mem hrise (by simp [fifoDepth]) (by omega)
  case held => exact fieldOf_packWord_of_mem hrise (by simp) (by omega)
  case state => exact fieldOf_packWord_of_mem hrise (by simp) (ChannelState.code_lt _)
  case notice =>
    rw [State.statusWord, fieldOf_packWord_of_mem hrise (v := markBit (s.indication c)) (by simp) (markBit_lt _),
      markBit_eq_one]

/-- Settles O8: each word of a page has its access, and STATUS reads back field by field. -/
theorem hostPagesAndStatus : Obligations.HostPagesAndStatus := by
  refine ⟨fun s page word lanes data hp h0 h3 => ?_, fun s page word h => ?_,
    fun lanes data i hi => maskLanes_getLsbD lanes data hi, fun s c hr _ hresp => ?_⟩
  · obtain ⟨c, rfl⟩ := exists_pageOf hp
    rw [exec_hostWriteDiscarded, hostWrite_channel_other h0 h3]
  · by_cases hp : page = devicePage
    · rw [hp, hostRead_device]
    · obtain ⟨c, rfl⟩ := exists_pageOf hp
      obtain ⟨h1, h2⟩ := h.resolve_left hp
      exact hostRead_channel_other h1 h2
  · obtain ⟨hfree, hheld, hstate, hnotice⟩ := statusWord_report hresp
    refine ⟨s.statusWord c, hostRead_status hr, hfree, hheld, ?_, hnotice⟩
    rw [hstate]
    cases (s.channel c).state <;> rfl

/-! ### The message that the Command Engine takes (R167 to R169) -/

/-- R167: the words of a whole message stand at the head of the FIFO, as many as its header counts. -/
theorem frameMessage_eq_some {words : List Word} {m : Message} {rest : List Word} :
    frameMessage words = some (m, rest) ↔ ∃ hdr, words = hdr :: (m.args ++ rest) ∧
      m.args.length = fieldOf hdr 18 16 ∧ m.code = fieldOf hdr 7 0 ∧ m.seq = fieldOf hdr 15 8 := by
  cases words with
  | nil => simp [frameMessage]
  | cons hdr tail =>
    simp only [frameMessage, Option.ite_none_right_eq_some, Option.some.injEq, Prod.mk.injEq]
    constructor
    · rintro ⟨hwhole, rfl, rfl⟩
      exact ⟨hdr, by rw [List.take_append_drop], List.length_take_of_le hwhole, rfl, rfl⟩
    · rintro ⟨_, hwords, hlen, hcode, hseq⟩
      cases hwords
      obtain ⟨code, seq, args⟩ := m
      subst hcode hseq
      simp only at hlen
      simp [← hlen]

/-- R168: a channel's message is taken when the channel is eligible with it. -/
theorem eligible?_eq_some {ch : Channel} {m : Message} {rest : List Word} :
    ch.eligible? = some (m, rest) ↔ EligibleWith ch m rest := by
  rw [EligibleWith, ← frameMessage_eq_some]
  constructor
  · exact eligible_spec
  · rintro ⟨hopen, hroom, hframe⟩
    rw [Channel.eligible?, if_pos ⟨hopen, hroom⟩, hframe]

theorem eligible?_eq_none {ch : Channel} : ch.eligible? = none ↔ ∀ m rest, ¬ EligibleWith ch m rest := by
  simp only [Option.eq_none_iff_forall_ne_some, Prod.forall, ne_eq, eligible?_eq_some]

/-- The message that the engine would take from channel `c`. -/
def State.takenFrom (s : State) (c : ClientId) : Option Taken :=
  (s.channel c).eligible?.map fun e => { client := c, message := e.1, rest := e.2 }

theorem takenFrom_eq_some {s : State} {c : ClientId} {t : Taken} :
    s.takenFrom c = some t ↔ t.client = c ∧ EligibleWith (s.channel c) t.message t.rest := by
  rw [← eligible?_eq_some]
  obtain ⟨client, m, rest⟩ := t
  simp only [State.takenFrom, Option.map_eq_some_iff, Prod.exists, Taken.mk.injEq]
  constructor
  · rintro ⟨_, _, he, rfl, rfl, rfl⟩
    exact ⟨rfl, he⟩
  · rintro ⟨rfl, he⟩
    exact ⟨m, rest, he, rfl, rfl, rfl⟩

theorem takenFrom_eq_none {s : State} {c : ClientId} :
    s.takenFrom c = none ↔ ∀ m rest, ¬ EligibleWith (s.channel c) m rest := by
  rw [State.takenFrom, Option.map_eq_none_iff, eligible?_eq_none]

/-- R169: the engine's choice, counting the channels from the one after the pointer. -/
theorem nextMessage_eq (s : State) :
    s.nextMessage = Fin.findSome? fun i : Fin 8 => s.takenFrom (s.pointer + 1 + i) := by
  have hfrom : s.nextMessage = (serviceOrder s.pointer).findSome? s.takenFrom := by
    refine congrArg (List.findSome? · (serviceOrder s.pointer)) (funext fun c => ?_)
    unfold State.takenFrom
    cases (s.channel c).eligible? <;> rfl
  rw [hfrom, serviceOrder, allClients, List.findSome?_map, Fin.findSome?_eq_findSome?_finRange]
  rfl

/-- R169: the engine takes the message of the first eligible channel after its pointer. -/
theorem nextMessage_eq_some {s : State} {t : Taken} : s.nextMessage = some t ↔
    ∃ i : Fin 8, t.client = s.pointer + 1 + i ∧ EligibleWith (s.channel t.client) t.message t.rest ∧
      ∀ j : Fin 8, j < i → ∀ m rest, ¬ EligibleWith (s.channel (s.pointer + 1 + j)) m rest := by
  simp only [nextMessage_eq, Fin.findSome?_eq_some_iff, takenFrom_eq_some, takenFrom_eq_none]
  refine exists_congr fun i => ?_
  constructor
  · rintro ⟨⟨hc, he⟩, hbefore⟩
    exact ⟨hc, hc ▸ he, hbefore⟩
  · rintro ⟨hc, he, hbefore⟩
    exact ⟨⟨hc, hc ▸ he⟩, hbefore⟩

/-- R168: with every command FIFO empty there is nothing to take. -/
theorem nextMessage_eq_none {s : State} (h : ∀ c, (s.channel c).commands = []) : s.nextMessage = none := by
  simp only [nextMessage_eq, Fin.findSome?_eq_none_iff, takenFrom_eq_none]
  rintro i m rest ⟨-, -, hdr, hwords, -⟩
  rw [h] at hwords
  cases hwords

/-! ### The response header (10.7, 10.8) -/

theorem fieldOf_lt (w : Word) (hi lo : Nat) : fieldOf w hi lo < 2 ^ (hi - lo + 1) := (w.extractLsb hi lo).isLt

/-- R167: command code and sequence number of a message taken fit the fields they are read from. -/
theorem nextMessage_fields_lt {s : State} {t : Taken} (h : s.nextMessage = some t) :
    t.message.code < 256 ∧ t.message.seq < 256 := by
  obtain ⟨-, -, hdr, -, -, hcode, hseq⟩ := eligible?_eq_some.mp (nextMessage_eligible h)
  rw [hcode, hseq]
  exact ⟨fieldOf_lt hdr 7 0, fieldOf_lt hdr 15 8⟩

theorem Status.code_lt (st : Status) : st.code < 256 := by cases st <;> decide

/-- 10.8: what the response header carries. -/
theorem responseHeader_report {m : Message} {r : Reply} (hc : m.code < 256) (hs : m.seq < 256)
    (hr : r.results.length ≤ 7) :
    fieldOf (responseHeader m r) 7 0 = r.status.code ∧ fieldOf (responseHeader m r) 15 8 = m.seq ∧
      fieldOf (responseHeader m r) 18 16 = r.results.length ∧ fieldOf (responseHeader m r) 23 19 = 0 ∧
      fieldOf (responseHeader m r) 31 24 = m.code := by
  have hrise : RisingLayout [(7, 0, r.status.code), (15, 8, m.seq), (18, 16, r.results.length), (31, 24, m.code)] := by
    simp [RisingLayout]
  refine ⟨?status, ?seq, ?count, ?unused, ?code⟩
  case status => exact fieldOf_packWord_of_mem hrise (by simp) (Status.code_lt _)
  case seq => exact fieldOf_packWord_of_mem hrise (by simp) hs
  case count => exact fieldOf_packWord_of_mem hrise (by simp) (by omega)
  case unused => exact fieldOf_packWord_of_disjoint (by decide) (by simp)
  case code => exact fieldOf_packWord_of_mem hrise (by simp) hc

/-- Settles O5: the choice is the first channel found in the order of service, and the header reads back field by
field. -/
theorem engineChoosesMessage : Obligations.EngineChoosesMessage := by
  refine ⟨fun s t => nextMessage_eq_some, fun s t r hn hr => ?_⟩
  obtain ⟨hcode, hseq⟩ := nextMessage_fields_lt hn
  obtain ⟨hstatus, hrest⟩ := responseHeader_report hcode hseq hr
  refine ⟨?_, hrest⟩
  rw [hstatus]
  cases r.status <;> rfl

/-! ### The checks before effect (R171) -/

/-- 10.8: each command of the table is a step of the engine for its row's code and argument count. -/
theorem exec_of_row {i : Instr} {row : CommandRow} (hi : i.commandRow = some row) :
    ∃ body, ∀ s, exec i s = .next (engineTake row.code row.argc body s) := by
  cases i <;> cases hi
  all_goals exact ⟨_, fun _ => rfl⟩

/-- R171 check 1: every code that the engine knows is the code of a command. -/
theorem exists_row_of_known {code : Nat} (h : code ∈ knownCodes) :
    ∃ (i : Instr) (row : CommandRow), i.commandRow = some row ∧ row.code = code := by
  have hall : ∀ k ∈ knownCodes,
      ((Sys2Proof.Laws.CommandRow.ofCode k).bind Instr.commandRow).map CommandRow.code = some k := by decide
  obtain ⟨row, hrow, hcode⟩ := Option.map_eq_some_iff.mp (hall code h)
  obtain ⟨i, -, hi⟩ := Option.bind_eq_some_iff.mp hrow
  exact ⟨i, row, hi, hcode⟩

/-- 10.8: a command that names a window is an edit or RETIRE, or QUERY_WINDOW. -/
theorem edits_or_queryWindow {i : Instr} {row : CommandRow} (hi : i.commandRow = some row)
    (hw : row.namesWindow = true) : row.edits = true ∨ i = .queryWindow := by
  cases i with
  | place | source | key | showWindow | hideWindow | retire => cases hi; exact .inl rfl
  | queryWindow => exact .inr rfl
  | _ => cases hi <;> cases hw

section
variable {s : State} {t : Taken} {i : Instr} {row : CommandRow}

/-- R171 check 1: with no message to take, no such step is taken. -/
theorem exec_unknownCommandCode_of_none (hn : s.nextMessage = none) : exec .unknownCommandCode s = .next s := by
  show execUnknownCommandCode s = _
  simp only [execUnknownCommandCode, hn]

/-- R171 check 1: a message with a code that the engine does not know. -/
theorem exec_unknownCommandCode (hn : s.nextMessage = some t) (hc : t.message.code ∉ knownCodes) :
    exec .unknownCommandCode s = .next (takeMessage t bodyUnknown s) := by
  have hknown : knownCodes.contains t.message.code = false := by simpa using hc
  show execUnknownCommandCode s = _
  simp only [execUnknownCommandCode, hn, hknown, Bool.false_eq_true, if_false]

/-- R171 check 2. -/
theorem exec_badLength (hn : s.nextMessage = some t) (hi : i.commandRow = some row) (hc : t.message.code = row.code)
    (hl : t.message.args.length ≠ row.argc) : exec i s = .next (answered t (refusal .badLength) s) := by
  obtain ⟨body, hexec⟩ := exec_of_row hi
  simp only [hexec, engineTake, hn, hc, if_true]
  rw [takeMessage_of_body (by rw [checkedLength, if_neg hl])]

/-- R171 check 4. -/
theorem exec_badWindow (ht : Takes s row.code row.argc t) (hi : i.commandRow = some row)
    (hw : row.namesWindow = true) (hfree : ∀ w : WindowId, argNat t.message.args 0 = w.val → (s.window w).life = .free) :
    exec i s = .next (answered t (refusal .badWindow) s) := by
  have hnone : (consume t s).heldWindow (argNat t.message.args 0) = none := State.heldWindow_eq_none hfree
  rcases edits_or_queryWindow hi hw with he | rfl
  · obtain ⟨edit, hexec⟩ := exec_of_edits hi he
    rw [hexec ht, takeMessage_of_body (onOwnWindow_badWindow edit hnone)]
  · cases hi
    rw [exec_queryWindow ht, takeMessage_of_body (bodyQueryWindow_badWindow hnone)]

/-- R171 check 5. -/
theorem exec_notOwner (ht : Takes s row.code row.argc t) (hi : i.commandRow = some row) (he : row.edits = true)
    {w : WindowId} {hd : Held} (hn : argNat t.message.args 0 = w.val) (hh : (s.window w).life.held? = some hd)
    (hown : hd.owner ≠ t.client) : exec i s = .next (answered t (refusal .notPermitted) s) := by
  have hw : (consume t s).heldWindow (argNat t.message.args 0) = some w :=
    State.heldWindow_eq_some.mpr ⟨hn, Life.ne_free_of_held? hh⟩
  obtain ⟨edit, hexec⟩ := exec_of_edits hi he
  rw [hexec ht, takeMessage_of_body (onOwnWindow_notPermitted edit hw hh hown)]
end

/-- Settles O6: the checks one by one; each answers from the state with the message consumed and nothing else done. -/
theorem messageChecksBeforeEffect : Obligations.MessageChecksBeforeEffect := by
  refine ⟨fun s t hn hno => ?_, fun s t i row hn hi hc =>
    ⟨fun hl => exec_badLength hn hi hc hl, fun hl => ⟨fun hs hc0 => ?_, fun hw hfree => ?_, fun he w hd ha hh hown => ?_⟩⟩⟩
  · have hunknown : t.message.code ∉ knownCodes := fun hk => by
      obtain ⟨i, row, hi, hrow⟩ := exists_row_of_known hk
      exact hno i row hi hrow.symm
    rw [exec_unknownCommandCode hn hunknown, takeMessage_of_body rfl]
  · obtain ⟨body, hexec⟩ := exec_of_supervisor hi hs
    rw [hexec ⟨hn, hc, hl⟩, takeMessage_not_supervisor hc0]
  · exact exec_badWindow ⟨hn, hc, hl⟩ hi hw hfree
  · exact exec_notOwner ⟨hn, hc, hl⟩ hi he ha hh hown

/-! ### The part held in reset (R166) -/

section
variable (s : State)

@[simp] theorem heldInReset_head (h : HeadId) : (heldInReset s).head h = Head.reset := State.reset_head h

theorem heldInReset_nextMessage : (heldInReset s).nextMessage = none := by
  refine nextMessage_eq_none fun c => ?_
  have hch : (heldInReset s).channel c = if c = 0 then Channel.reset .opened else Channel.reset .closed :=
    State.reset_channel c
  rw [hch]
  split <;> rfl

/-- R123: with no slot in a cursor nothing is offered. -/
theorem heldInReset_offered : offered (heldInReset s) = none := by
  have hnone (h : HeadId) : nextRequest h (heldInReset s) = none := nextRequest_none fun k => by simp [Head.reset]
  exact offered_eq_none (.inr ((arbitrated_of_none (h := 0) (x := 1) (by decide) (hnone 1)).trans (hnone 0)))

/-- R49, R51: a head after reset raises no event. -/
theorem Head.reset_notDue : Head.reset.lineStartDue = false ∧ Head.reset.lossDue = false ∧
    Head.reset.activeStartDue = false ∧ Head.reset.state.running = false := by decide

/-- R166: RESET_N low holds the part: messages find no word, host accesses, marks and responses are ignored, no head
raises an event and no request is offered. -/
theorem exec_heldInReset {c : Instr} (hc : c ≠ .resetNRise) : exec c (heldInReset s) = .next (heldInReset s) := by
  obtain ⟨hline, hloss, hactive, hrun⟩ := Head.reset_notDue
  cases hrow : c.commandRow with
  | some row =>
    obtain ⟨body, hexec⟩ := exec_of_row hrow
    rw [hexec, engineTake_of_not body fun t ht => by rw [heldInReset_nextMessage] at ht; cases ht]
  | none =>
    cases c with
    | unknownCommandCode => exact exec_unknownCommandCode_of_none (heldInReset_nextMessage s)
    | commandWrite c lanes data => rw [exec_commandWrite, hostWrite_held rfl]
    | responseRead c => rw [exec_responseRead, hostRead_held rfl]; rfl
    | resync c lanes data => rw [exec_resync, hostWrite_held rfl]
    | reset lanes data => rw [exec_reset_hostWrite, hostWrite_held rfl]
    | hostWriteDiscarded page word lanes data => rw [exec_hostWriteDiscarded, hostWrite_held rfl]
    | resetN => rfl
    | lineStart h =>
      show execLineStart h _ = _
      simp only [execLineStart, heldInReset_head, hline, Bool.false_eq_true, if_false]
    | tagExpiry t =>
      show execTagExpiry t _ = _
      simp only [execTagExpiry, heldInReset_head, hline, Bool.false_and, Bool.false_eq_true, if_false]
    | lossOfLock h =>
      show execLossOfLock h _ = _
      simp only [execLossOfLock, heldInReset_head, hloss, Bool.false_eq_true, if_false]
    | activeStart h =>
      show execActiveStart h _ = _
      simp only [execActiveStart, heldInReset_head, hactive, Bool.false_eq_true, if_false]
    | markArrival h => rfl
    | requestIssue => exact exec_requestIssue_of_none (heldInReset_offered s)
    | responseArrival earlier final => rfl
    | pixelPeriod h =>
      show execPixelPeriod h _ = _
      simp only [execPixelPeriod, takePixelPeriod, heldInReset_head, hrun, Bool.false_eq_true, if_false]
    | resetNRise => exact absurd rfl hc
    | _ => cases hrow
end

/-- Settles O4: the RESET action is a branch of the write, and the part held in reset is followed command by command. -/
theorem deviceResetIsHeld : Obligations.DeviceResetIsHeld := by
  refine ⟨fun s lanes data hr => ?_, exec_resetN, fun s c hc => exec_heldInReset s hc,
    fun s page word => hostRead_held rfl, fun s => rfl⟩
  rw [exec_reset lanes data hr]
  refine ⟨fun ha => ?_, fun ha => ?_, fun word hw => ?_⟩
  · rw [writeDevice_reset ha]
  · rw [writeDevice_other ha]
  · exact congrArg Host.Outcome.next (hostWrite_device_other hw)

end Sys2Proof.Machine
end

section
/-! What one step can do, said once for all commands (R170, R160, 95): `StepEffect` has a case for each kind of step, and
`BodyEffect` one for each thing that the body of a message command makes of the tables. -/

namespace Sys2Proof.Machine

/-! ### What the body of a message command can do -/

/-- R25 to R30: a staged image that an edit of a window held as `hd` may write: it fits the owner's aperture and is in
range if the one before it did and was. -/
structure EditsStaged (s : State) (hd : Held) (st : Staged) : Prop where
  fits    : hd.staged.image.fits (s.client hd.owner).aperture = true →
    st.image.fits (s.client hd.owner).aperture = true
  inRange : hd.staged.image.inRange ∧ hd.staged.image.pitchFits → st.image.inRange ∧ st.image.pitchFits

/-- What the body of a message command of client `c` makes of the windows, the clients and the lists of the heads, with
the checks that it has passed. -/
inductive TableEffect (c : ClientId) (s : State) : State → Prop
  | reserve (w : WindowId) (h : HeadId) (permitted : (s.client c).heads.has h = true)
      (room : (s.client c).held ≠ (s.client c).quota) (free : (s.window w).life = .free) :
      TableEffect c s (reserveWindow w c h s)
  | stage (w : WindowId) (hd : Held) (st : Staged) (held : (s.window w).life.held? = some hd) (own : hd.owner = c)
      (edits : EditsStaged s hd st) : TableEffect c s (setStaged w st s)
  | retire (w : WindowId) (hd : Held) (reserved : (s.window w).life = .reserved hd) (own : hd.owner = c)
      (unsealed : c ∉ (s.head hd.head).commitQueue) : TableEffect c s (freeWindow w s)
  | enqueue (h : HeadId) (running : (s.head h).state ≠ .stopped) (holds : s.holdsOn c h = true)
      (absent : c ∉ (s.head h).commitQueue) : TableEffect c s (enqueue c h s)
  | apply (h : HeadId) (absent : c ∉ (s.head h).commitQueue) : TableEffect c s (applyClients h [c] s)
  | openClient (n : ClientId) (quota : Nat) (ap : Aperture) (heads : HeadSet) (supervisor : c = 0) (tenant : n ≠ 0)
      (closed : (s.client n).state = .closed) : TableEffect c s (openClient n quota ap heads s)
  | closeClient (n : ClientId) (supervisor : c = 0) (tenant : n ≠ 0) (opened : (s.client n).state = .opened) :
      TableEffect c s (closeClient n s)
  | setAperture (n : ClientId) (ap : Aperture) (supervisor : c = 0) (tenant : n ≠ 0)
      (opened : (s.client n).state = .opened) (fits : s.windowsFit n ap = true) :
      TableEffect c s (s.setClient n { s.client n with aperture := some ap })
  | setHeads (n : ClientId) (heads : HeadSet) (supervisor : c = 0) (tenant : n ≠ 0)
      (opened : (s.client n).state = .opened) : TableEffect c s (s.setClient n { s.client n with heads := heads })

/-- What the body of a message command of client `c` makes of `s`, with the checks that it has passed. -/
inductive BodyEffect (c : ClientId) (s : State) : State → Prop
  | answer : BodyEffect c s s
  | table {u : State} (effect : TableEffect c s u) : BodyEffect c s u
  | setTiming (h : HeadId) (ts : TimingSet) (supervisor : c = 0) (stopped : (s.head h).state = .stopped)
      (valid : ts.valid = true) : BodyEffect c s (s.setHead h { s.head h with timing := some ts })
  | startHead (h : HeadId) (st : HeadState) (supervisor : c = 0) (stopped : (s.head h).state = .stopped)
      (timed : (s.head h).timing ≠ none) (mode : st = .freeRun ∨ st = .seeking) :
      BodyEffect c s (s.setHead h ((s.head h).started st))
  | stopHead (h : HeadId) (supervisor : c = 0) : BodyEffect c s (stopRunning h s)
  | reclaim (supervisor : c = 0) : BodyEffect c s (s.abandonedTags.foldl (fun s t => freeTag t s) s)
  | clearNotices : BodyEffect c s (s.setNotice c { NoticeRecord.cleared with mask := (s.notice c).mask })
  | setMask (mask : BitVec 10) : BodyEffect c s (s.setNotice c { s.notice c with mask := mask })

/-- What a body answers from `s` for client `c`: one of the effects, and at most 7 result words. -/
def Answers (c : ClientId) (s : State) (p : State × Reply) : Prop := BodyEffect c s p.1 ∧ p.2.results.length ≤ 7

section
variable {c : ClientId} {s : State}

theorem Answers.refusal (st : Status) : Answers c s (s, refusal st) := ⟨.answer, by simp [Machine.refusal]⟩

theorem Answers.report {results : List Word} (h : results.length ≤ 7) : Answers c s (s, accepted results) :=
  ⟨.answer, h⟩

theorem Answers.done {u : State} (h : BodyEffect c s u) : Answers c s (u, accepted []) := ⟨h, by simp [accepted]⟩

theorem Answers.result {u : State} (h : BodyEffect c s u) (w : Word) : Answers c s (u, accepted [w]) :=
  ⟨h, by simp [accepted]⟩
end

/-! ### The bodies one by one -/

section
variable (c : ClientId) (args : List Word) (s : State)

theorem bodyReserve_answers : Answers c s (bodyReserve c args s) := by
  unfold bodyReserve
  split
  · exact .refusal _
  · next h hp =>
    split
    · exact .refusal _
    · next hroom =>
      split
      · exact .refusal _
      · next w hw =>
        have hfree : (s.window w).life = .free := by
          have hfound : (s.window w).isFree = true := List.find?_some (p := fun w => (s.window w).isFree) hw
          exact Window.isFree_iff.mp hfound
        exact .result (.table (.reserve w h (Client.permittedHead_eq_some.mp hp).2 hroom hfree)) _

theorem bodyCommit_answers : Answers c s (bodyCommit c args s) := by
  unfold bodyCommit
  split
  · exact .refusal _
  · next h hp =>
    split
    · exact .refusal _
    · next hq =>
      have habsent : c ∉ (s.head h).commitQueue := by simpa using hq
      split
      · next hr =>
        obtain ⟨hrun, hholds⟩ := Bool.and_eq_true_iff.mp hr
        exact .result (.table (.enqueue h (HeadState.running_iff.mp hrun) hholds habsent)) _
      · exact .result (.table (.apply h habsent)) _

theorem bodyQueryWindow_answers : Answers c s (bodyQueryWindow c args s) := by
  unfold bodyQueryWindow
  repeat' split
  · exact .refusal _
  · exact .refusal _
  · exact .refusal _
  · exact .refusal _
  · next view _ => exact .report (by cases view <;> simp [viewWords, imageWords])

theorem bodySetTiming_answers : Answers 0 s (bodySetTiming 0 args s) := by
  unfold bodySetTiming
  split
  · exact .refusal _
  · next h _ =>
    split
    · exact .refusal _
    · next hs =>
      split
      · exact .refusal _
      · next hv => exact .done (.setTiming h _ rfl (Decidable.not_not.mp hs) (Bool.not_eq_false _ ▸ hv))

theorem modeNamed_cases {n : Nat} {st : HeadState} (h : modeNamed n = some st) : st = .freeRun ∨ st = .seeking := by
  unfold modeNamed at h
  split at h
  · exact .inl (Option.some.inj h).symm
  · exact .inr (Option.some.inj h).symm
  · exact nomatch h

theorem bodyStartHead_answers : Answers 0 s (bodyStartHead 0 args s) := by
  unfold bodyStartHead
  split
  · next h st _ hm =>
    split
    · exact .refusal _
    · next hs =>
      split
      · exact .refusal _
      · next ht =>
        have htimed : (s.head h).timing ≠ none := fun e => ht (by rw [e]; rfl)
        exact .done (.startHead h st rfl (Decidable.not_not.mp hs) htimed (modeNamed_cases hm))
  · exact .refusal _

theorem bodyStopHead_answers : Answers 0 s (bodyStopHead 0 args s) := by
  unfold bodyStopHead
  split
  · exact .refusal _
  · next h _ =>
    split
    · exact .report (by simp)
    · exact .done (.stopHead h rfl)

theorem bodyQueryHead_answers : Answers c s (bodyQueryHead c args s) := by
  unfold bodyQueryHead
  repeat' split
  · exact .refusal _
  · exact .refusal _
  · exact .report (by simp [headWords])

theorem bodyQueryClient_answers : Answers c s (bodyQueryClient c args s) := by
  unfold bodyQueryClient
  repeat' split
  · exact .refusal _
  · exact .refusal _
  · exact .report (by simp [clientWords])

theorem bodyReclaimTags_answers : Answers 0 s (bodyReclaimTags 0 args s) := .result (.reclaim rfl) _

theorem bodyFetchNotices_answers : Answers c s (bodyFetchNotices c args s) :=
  ⟨.clearNotices, by simp [bodyFetchNotices, accepted, noticeWords]⟩

theorem bodySetNoticeMask_answers : Answers c s (bodySetNoticeMask c args s) := by
  unfold bodySetNoticeMask
  split
  · exact .refusal _
  · exact .done (.setMask _)
end

section
variable (args : List Word) (s : State) {n : ClientId} (tenant : n ≠ 0)
include tenant

theorem bodyOpenClient_answers : Answers 0 s (bodyOpenClient n 0 args s) := by
  unfold bodyOpenClient
  split
  · exact .refusal _
  · exact .refusal _
  · next hclosed =>
    dsimp only
    repeat' split
    · exact .refusal _
    · exact .refusal _
    · exact .refusal _
    · exact .done (.table (.openClient n _ _ _ rfl tenant hclosed))

theorem bodyCloseClient_answers : Answers 0 s (bodyCloseClient n 0 args s) := by
  unfold bodyCloseClient
  split
  · exact .refusal _
  · exact .report (by simp)
  · next ho => exact .result (.table (.closeClient n rfl tenant ho)) _

theorem bodySetAperture_answers : Answers 0 s (bodySetAperture n 0 args s) := by
  unfold bodySetAperture
  split
  · exact .refusal _
  · exact .refusal _
  · next ho =>
    split
    · exact .refusal _
    · next ap _ =>
      split
      · exact .refusal _
      · next hf => exact .done (.table (.setAperture n ap rfl tenant ho (Bool.not_eq_false _ ▸ hf)))

theorem bodySetHeads_answers : Answers 0 s (bodySetHeads n 0 args s) := by
  unfold bodySetHeads
  split
  · exact .refusal _
  · exact .refusal _
  · next ho =>
    repeat' split
    · exact .refusal _
    · exact .refusal _
    · exact .done (.table (.setHeads n _ rfl tenant ho))
end

/-! ### The edits of a window (R25) -/

section
variable {s : State} {hd : Held}

/-- An edit of fields that neither extent nor ranges speak of. -/
theorem EditsStaged.of_same {st : Staged} (hg : st.image.geometry = hd.staged.image.geometry)
    (hs : st.image.source = hd.staged.image.source) (hr : st.image.ringRows = hd.staged.image.ringRows)
    (hdepth : st.image.depth = hd.staged.image.depth) : EditsStaged s hd st where
  fits h := by rw [Image.fits, hg, hs, hr]; exact h
  inRange h := by rw [Image.inRange, Image.pitchFits, hg, hs, hr, hdepth]; exact h

/-- R26: a geometry and depth that PLACE takes. -/
theorem placed_editsStaged {args : List Word}
    (hrange : ¬ (((placeGeometry args).inRange = false ∨ 31 < argNat args 3) ∨ ¬ (placedImage hd args).pitchFits))
    (hfits : ¬ (placedImage hd args).fits (s.client hd.owner).aperture = false) :
    EditsStaged s hd { hd.staged with image := placedImage hd args } where
  fits _ := Bool.not_eq_false _ ▸ hfits
  inRange h := by
    obtain ⟨⟨-, -, hsource, hring⟩, -⟩ := h
    rw [not_or, not_or, Classical.not_not] at hrange
    obtain ⟨⟨hg, hdepth⟩, hpitch⟩ := hrange
    refine ⟨⟨Nat.le_of_not_lt hdepth, fun g e => ?_, hsource, hring⟩, hpitch⟩
    rw [← Option.some.inj e]
    exact Bool.not_eq_false _ ▸ hg

theorem argNat_lt (args : List Word) (i : Nat) : argNat args i < 2 ^ 32 := (argWord args i).isLt

/-- R27: a source and ring rows that SOURCE takes. -/
theorem sourced_editsStaged {f : PixelFormat} {args : List Word}
    (hrange : ¬ ((sourceOf f args).inRange (sourceRing args) = false ∨ ¬ (sourcedImage f hd args).pitchFits))
    (hfits : ¬ (sourcedImage f hd args).fits (s.client hd.owner).aperture = false) :
    EditsStaged s hd { hd.staged with image := sourcedImage f hd args } where
  fits _ := Bool.not_eq_false _ ▸ hfits
  inRange h := by
    obtain ⟨⟨hdepth, hgeometry, -⟩, -⟩ := h
    rw [not_or, Classical.not_not] at hrange
    obtain ⟨hsrc, hpitch⟩ := hrange
    have hin : (sourceOf f args).inRange (sourceRing args) = true := Bool.not_eq_false _ ▸ hsrc
    refine ⟨⟨hdepth, hgeometry, fun src e => ?_, fun r e => ?_⟩, hpitch⟩
    · rw [← Option.some.inj e]
      exact ⟨hin, argNat_lt args 2⟩
    · by_contra hr
      have hbad : (sourceOf f args).inRange (sourceRing args) = false :=
        Source.inRange_eq_false.mpr (by right; right; right; right; right; right; exact ⟨r, e, by omega⟩)
      rw [hin] at hbad
      cases hbad
end

/-- What the edit of a window of one's own answers. -/
def EditAnswers (edit : WindowId → Held → Body) : Prop :=
  ∀ (w : WindowId) (hd : Held) (c : ClientId) (args : List Word) (s : State), (s.window w).life.held? = some hd →
    hd.owner = c → c ∉ (s.head hd.head).commitQueue → Answers c s (edit w hd c args s)

/-- R25: a command on a window of one's own, by its edit. -/
theorem onOwnWindow_answers {edit : WindowId → Held → Body} (he : EditAnswers edit) (c : ClientId) (args : List Word)
    (s : State) : Answers c s (onOwnWindow edit c args s) := by
  unfold onOwnWindow
  split
  · exact .refusal _
  · next w _ =>
    split
    · exact .refusal _
    · next hd hheld =>
      split
      · exact .refusal _
      · next hown =>
        split
        · exact .refusal _
        · split
          · exact .refusal _
          · next hsealed =>
            rw [State.sealed_iff hheld, Decidable.not_not.mp hown] at hsealed
            exact he w hd c args s hheld (Decidable.not_not.mp hown) hsealed

theorem editPlace_answers : EditAnswers editPlace := by
  intro w hd c args s hheld hown _
  rw [editPlace_eq]
  split
  · exact .refusal _
  · next hrange =>
    split
    · exact .refusal _
    · next hfits => exact .done (.table (.stage w hd _ hheld hown (placed_editsStaged hrange hfits)))

theorem editSource_answers : EditAnswers editSource := by
  intro w hd c args s hheld hown _
  cases hf : formatNamed (argNat args 1) with
  | none => rw [editSource_no_format hf]; exact .refusal _
  | some f =>
    rw [editSource_eq hf]
    split
    · exact .refusal _
    · next hrange =>
      split
      · exact .refusal _
      · next hfits => exact .done (.table (.stage w hd _ hheld hown (sourced_editsStaged hrange hfits)))

theorem editKey_answers : EditAnswers editKey := by
  intro w hd c args s hheld hown _
  unfold editKey
  repeat' split
  · exact .done (.table (.stage w hd _ hheld hown (.of_same rfl rfl rfl rfl)))
  · exact .done (.table (.stage w hd _ hheld hown (.of_same rfl rfl rfl rfl)))
  · exact .refusal _

theorem editShow_answers : EditAnswers editShow := by
  intro w hd c args s hheld hown _
  unfold editShow
  split
  · exact .done (.table (.stage w hd _ hheld hown (.of_same rfl rfl rfl rfl)))
  · exact .refusal _

theorem editHide_answers : EditAnswers editHide := fun w hd _ _ _ hheld hown _ =>
  .done (.table (.stage w hd _ hheld hown (.of_same rfl rfl rfl rfl)))

theorem editRetire_answers : EditAnswers editRetire := by
  intro w hd c args s hheld hown hsealed
  unfold editRetire
  split
  · next hd' hl =>
    rw [hl] at hheld
    cases hheld
    exact .done (.table (.retire w hd hl hown hsealed))
  · exact .done (.table (.stage w hd _ hheld hown (.of_same rfl rfl rfl rfl)))

/-! ### The commands of the table as bodies -/

/-- What a body answers for every client, from every state. -/
def BodyAnswers (body : Body) : Prop := ∀ c args s, Answers c s (body c args s)

/-- R171: the body of a supervisor command. -/
theorem supervisorOnly_answers {body : Body} (h : ∀ args s, Answers 0 s (body 0 args s)) :
    BodyAnswers (supervisorOnly body) := by
  intro c args s
  unfold supervisorOnly
  split
  · next hc => subst hc; exact h args s
  · exact .refusal _

/-- R138: the body of a command about a tenant. -/
theorem onTenant_answers {cmd : ClientId → Body} (h : ∀ args s n, n ≠ 0 → Answers 0 s (cmd n 0 args s)) :
    ∀ args s, Answers 0 s (onTenant cmd 0 args s) := by
  intro args s
  unfold onTenant
  split
  · exact .refusal _
  · next n _ =>
    split
    · exact .refusal _
    · next hn => exact h args s n hn

/-- 10.8: each command of the table is a step of the engine with a body that has one of the effects. -/
theorem exec_of_row_answers {i : Instr} {row : CommandRow} (hi : i.commandRow = some row) :
    ∃ body, BodyAnswers body ∧ ∀ s, exec i s = .next (engineTake row.code row.argc body s) := by
  cases i <;> cases hi
  case reserve => exact ⟨_, bodyReserve_answers, fun _ => rfl⟩
  case place => exact ⟨_, onOwnWindow_answers editPlace_answers, fun _ => rfl⟩
  case source => exact ⟨_, onOwnWindow_answers editSource_answers, fun _ => rfl⟩
  case key => exact ⟨_, onOwnWindow_answers editKey_answers, fun _ => rfl⟩
  case showWindow => exact ⟨_, onOwnWindow_answers editShow_answers, fun _ => rfl⟩
  case hideWindow => exact ⟨_, onOwnWindow_answers editHide_answers, fun _ => rfl⟩
  case retire => exact ⟨_, onOwnWindow_answers editRetire_answers, fun _ => rfl⟩
  case commit => exact ⟨_, bodyCommit_answers, fun _ => rfl⟩
  case queryWindow => exact ⟨_, bodyQueryWindow_answers, fun _ => rfl⟩
  case setTiming => exact ⟨_, supervisorOnly_answers bodySetTiming_answers, fun _ => rfl⟩
  case startHead => exact ⟨_, supervisorOnly_answers bodyStartHead_answers, fun _ => rfl⟩
  case stopHead => exact ⟨_, supervisorOnly_answers bodyStopHead_answers, fun _ => rfl⟩
  case queryHead => exact ⟨_, bodyQueryHead_answers, fun _ => rfl⟩
  case openClient =>
    exact ⟨_, supervisorOnly_answers (onTenant_answers fun args s _ h => bodyOpenClient_answers args s h), fun _ => rfl⟩
  case closeClient =>
    exact ⟨_, supervisorOnly_answers (onTenant_answers fun args s _ h => bodyCloseClient_answers args s h), fun _ => rfl⟩
  case setAperture =>
    exact ⟨_, supervisorOnly_answers (onTenant_answers fun args s _ h => bodySetAperture_answers args s h), fun _ => rfl⟩
  case setHeads =>
    exact ⟨_, supervisorOnly_answers (onTenant_answers fun args s _ h => bodySetHeads_answers args s h), fun _ => rfl⟩
  case queryClient => exact ⟨_, bodyQueryClient_answers, fun _ => rfl⟩
  case reclaimTags => exact ⟨_, supervisorOnly_answers bodyReclaimTags_answers, fun _ => rfl⟩
  case fetchNotices => exact ⟨_, bodyFetchNotices_answers, fun _ => rfl⟩
  case setNoticeMask => exact ⟨_, bodySetNoticeMask_answers, fun _ => rfl⟩

/-! ### What a step can do -/

/-- R162 to R164: what a host access makes of a channel. -/
inductive ChannelAccess (ch : Channel) : Channel → Prop
  | same : ChannelAccess ch ch
  | word (w : Word) (opened : ch.state = .opened) (room : ch.commands.length < fifoDepth) :
      ChannelAccess ch { ch with commands := ch.commands ++ [w] }
  | overflow (opened : ch.state = .opened) : ChannelAccess ch { ch with state := .framingLost }
  | resync : ChannelAccess ch
      { ch with commands := [], state := if ch.state = .framingLost then .opened else ch.state }
  | read (w : Word) (rest : List Word) (oldest : ch.responses = w :: rest) :
      ChannelAccess ch { ch with responses := rest }

/-- What a step makes of `s`. -/
inductive StepEffect (s : State) : State → Prop
  | idle : StepEffect s s
  | message (t : Taken) (u : State) (r : Reply) (next : s.nextMessage = some t)
      (effect : BodyEffect t.client (consume t s) u) (results : r.results.length ≤ 7) :
      StepEffect s (respond t.client t.message r u)
  | channel (c : ClientId) (ch : Channel) (data : Word) (access : ChannelAccess (s.channel c) ch) :
      StepEffect s { s.setChannel c ch with readData := data }
  | reset (held : Bool) : StepEffect s { deviceReset s with resetHeld := held }
  | rise : StepEffect s { s with resetHeld := false }
  | lineStart (h : HeadId) (due : (s.head h).lineStartDue = true) : StepEffect s (endLine h s)
  | activeStart (h : HeadId) (due : (s.head h).activeStartDue = true) : StepEffect s (takeActiveStart h s)
  | pixel (h : HeadId) (running : (s.head h).state.running = true) (noLine : (s.head h).lineStartDue = false) :
      StepEffect s (s.setHead h
        { (s.head h).advanceAssembler with pixel := (s.head h).advanceAssembler.pixel + 1 })
  | mark (h : HeadId) : StepEffect s (s.setHead h (s.head h).takeMark)
  | issue (t : TagNo) (r : Request) (offer : offered s = some (t, r)) : StepEffect s (issue t r s)
  | response (t : TagNo) (status : RespStatus) (data : List Byte) : StepEffect s (respondTag t status data s)

section
variable (s : State)

/-- R170: a step of the engine with such a body. -/
theorem takeMessage_effect_of_answers {t : Taken} (ht : s.nextMessage = some t) {body : Body} (hb : BodyAnswers body) :
    StepEffect s (takeMessage t body s) :=
  .message t _ _ ht (hb t.client t.message.args (consume t s)).1 (hb t.client t.message.args (consume t s)).2

theorem checkedLength_answers {body : Body} (hb : BodyAnswers body) (argc : Nat) :
    BodyAnswers (checkedLength argc body) := by
  intro c args s
  unfold checkedLength
  split
  · exact hb c args s
  · exact .refusal _

theorem engineTake_effect {body : Body} (hb : BodyAnswers body) (code argc : Nat) :
    StepEffect s (engineTake code argc body s) := by
  unfold engineTake
  split
  · exact .idle
  · next t ht =>
    split
    · exact takeMessage_effect_of_answers s ht (checkedLength_answers hb argc)
    · exact .idle

/-- A host access to channel `c` that leaves the read data as they are. -/
theorem setChannel_effect (c : ClientId) {ch : Channel} (h : ChannelAccess (s.channel c) ch) :
    StepEffect s (s.setChannel c ch) := StepEffect.channel c ch s.readData h

theorem writeCommand_effect (c : ClientId) (w : Word) : StepEffect s (writeCommand c w s) := by
  by_cases ho : (s.channel c).state = .opened
  · by_cases hl : (s.channel c).commands.length < 16
    · rw [writeCommand_room ho hl]
      exact setChannel_effect s c (.word w ho hl)
    · rw [writeCommand_full ho (Nat.le_of_not_lt hl)]
      exact setChannel_effect s c (.overflow ho)
  · rw [writeCommand_not_opened ho]
    exact .idle

theorem writeControl_effect (c : ClientId) (w : Word) : StepEffect s (writeControl c w s) := by
  unfold writeControl
  split
  · exact setChannel_effect s c .resync
  · exact .idle

theorem hostWrite_effect (page : PageNo) (word : WordIndex) (lanes : Lanes) (data : Word) :
    StepEffect s (hostWrite page word lanes data s) := by
  unfold hostWrite
  split
  · exact .idle
  · split
    · next c _ =>
      split
      · exact writeCommand_effect s c _
      · split
        · exact writeControl_effect s c _
        · exact .idle
    · split
      · unfold writeDevice
        split
        · exact .reset false
        · exact .idle
      · exact .idle

/-- R164: a read leaves the channel as it is, or takes its oldest response word. -/
theorem hostRead_effect (c : ClientId) (data : Word) :
    StepEffect s { (hostRead (pageOf c) responseIndex s).2 with readData := data } := by
  have hsame : StepEffect s { s with readData := data } := by
    have h := StepEffect.channel c (s.channel c) data .same
    rwa [State.setChannel_channel_self] at h
  cases hr : s.resetHeld with
  | true => rw [hostRead_held hr]; exact hsame
  | false =>
    rw [hostRead_response hr]
    cases hw : (s.channel c).responses with
    | nil => rw [readResponse_nil hw]; exact hsame
    | cons w rest =>
      rw [readResponse_cons hw]
      exact .channel c _ data (.read w rest hw)

theorem takePixelPeriod_effect (h : HeadId) : StepEffect s (takePixelPeriod h s) := by
  unfold takePixelPeriod
  split
  · next hr =>
    split
    · next hd => exact .activeStart h hd
    · split
      · next hd => exact .lineStart h hd
      · next hd => exact .pixel h hr (Bool.not_eq_true _ ▸ hd)
  · exact .idle

theorem execUnknownCommandCode_effect : ∃ u, exec .unknownCommandCode s = .next u ∧ StepEffect s u := by
  refine ⟨_, rfl, ?_⟩
  split
  · exact .idle
  · next t ht =>
    split
    · exact .idle
    · exact takeMessage_effect_of_answers s ht fun c args s => .refusal _

/-- 95: every command answers a next state, and has one of the effects. -/
theorem exec_effect (i : Instr) : ∃ u, exec i s = .next u ∧ StepEffect s u := by
  cases hi : i.commandRow with
  | some row =>
    obtain ⟨body, hb, he⟩ := exec_of_row_answers hi
    exact ⟨_, he s, engineTake_effect s hb _ _⟩
  | none =>
    cases i with
    | unknownCommandCode => exact execUnknownCommandCode_effect s
    | commandWrite ch lanes data => exact ⟨_, rfl, hostWrite_effect s _ _ _ _⟩
    | responseRead ch => exact ⟨_, rfl, hostRead_effect s ch _⟩
    | resync ch lanes data => exact ⟨_, rfl, hostWrite_effect s _ _ _ _⟩
    | reset lanes data => exact ⟨_, rfl, hostWrite_effect s _ _ _ _⟩
    | hostWriteDiscarded page word lanes data => exact ⟨_, rfl, hostWrite_effect s _ _ _ _⟩
    | resetN => exact ⟨_, rfl, .reset true⟩
    | lineStart h =>
      refine ⟨_, rfl, ?_⟩
      split
      · next hd => exact .lineStart h hd
      · exact .idle
    | tagExpiry t =>
      refine ⟨_, rfl, ?_⟩
      split
      · next hd => exact .lineStart _ (Bool.and_eq_true_iff.mp hd).1
      · exact .idle
    | lossOfLock h =>
      refine ⟨_, rfl, ?_⟩
      split
      · next hd =>
        unfold Head.lossDue at hd
        split at hd
        · cases hd
        · exact .lineStart h (Bool.and_eq_true_iff.mp hd).1
      · exact .idle
    | activeStart h =>
      refine ⟨_, rfl, ?_⟩
      split
      · next hd => exact .activeStart h hd
      · exact .idle
    | markArrival h =>
      refine ⟨_, rfl, ?_⟩
      split
      · exact .idle
      · exact .mark h
    | requestIssue =>
      refine ⟨_, rfl, ?_⟩
      split
      · next t r ho => exact .issue t r ho
      · exact .idle
    | responseArrival earlier final =>
      refine ⟨_, rfl, ?_⟩
      split
      · exact .idle
      · exact .response _ _ _
    | pixelPeriod h => exact ⟨_, rfl, takePixelPeriod_effect s h⟩
    | resetNRise => exact ⟨_, rfl, .rise⟩
    | _ => cases hi

/-- What every effect keeps, and what does not look at the queue of waiting commands, every step keeps. -/
theorem step_keeps {P : State → Prop} (hq : ∀ s q, P s → P { s with pending := q })
    (he : ∀ s u, P s → StepEffect s u → P u) {s u : State} (hs : P s) (h : step s = .next u) : P u := by
  unfold step at h
  split at h
  · cases h
    exact hs
  · next c rest _ =>
    obtain ⟨v, hv, heffect⟩ := exec_effect { s with pending := rest } c
    rw [hv] at h
    cases h
    exact he _ _ (hq s rest hs) heffect
end

end Sys2Proof.Machine
end

section
/-! Laws that the parts of a line start keep (3.2.1), and so a line start and the stop of a head. -/

namespace Sys2Proof.Machine

/-- All slots of a head are EMPTY. -/
def Head.SlotsEmpty (hd : Head) : Prop := ∀ k : SlotNo, hd.slots[k] = .empty

/-- Two heads that differ in the Raster Timer's counters, the follow record and the Line Assembler at most. -/
structure SameStore (hd v : Head) : Prop where
  timing      : v.timing = hd.timing
  slots       : v.slots = hd.slots
  cursor      : v.cursor = hd.cursor
  commitQueue : v.commitQueue = hd.commitQueue
  depthList   : v.depthList = hd.depthList

/-- A law that the parts of a line start and of a stop keep. Under `fresh` a line is resolved into EMPTY slots only. -/
structure LineLaw (fresh : Prop) (P : State → Prop) : Prop where
  counters  : ∀ {s h v}, SameStore (s.head h) v → P s → P (s.setHead h v)
  notify    : ∀ {s n}, P s → P (notify 0 n s)
  emptySlot : ∀ {s} (h k), P s → P (emptySlot h k s)
  resolve   : ∀ {s h} {k : SlotNo} (n), (fresh → (s.head h).slots[k] = .empty) → P s → P (resolveInto h k n s)
  apply     : ∀ {s} (h), P s → P (applyQueue h s)
  stale     : ∀ {s} (p), P s → P (staleTags p s)
  age       : ∀ {s} (h), P s → P (ageTags h s)
  draws     : ∀ {s} (n), P s → P { s with raceDraws := n }

section
variable {fresh : Prop} {P : State → Prop} (law : LineLaw fresh P) {s : State} {h : HeadId}
include law

theorem LineLaw.emptySlots (hs : P s) : P (emptySlots h s) := by
  rw [Machine.emptySlots, allSlots_eq, List.foldl_cons, List.foldl_cons, List.foldl_cons, List.foldl_nil]
  exact law.emptySlot h 2 (law.emptySlot h 1 (law.emptySlot h 0 hs))

/-- R82: the first three lines, resolved into slots of which each is EMPTY at its turn. -/
theorem LineLaw.resolveFirstThree (hempty : fresh → (s.head h).SlotsEmpty) (hs : P s) :
    P (resolveFirstThree h s) := by
  have h01 : ((resolveInto h 0 0 s).head h).slots[(1 : SlotNo)] = (s.head h).slots[(1 : SlotNo)] :=
    resolveInto_slot_of_ne h s (by decide) 0
  have h02 : ((resolveInto h 0 0 s).head h).slots[(2 : SlotNo)] = (s.head h).slots[(2 : SlotNo)] :=
    resolveInto_slot_of_ne h s (by decide) 0
  have h12 : ((resolveInto h 1 1 (resolveInto h 0 0 s)).head h).slots[(2 : SlotNo)] =
      ((resolveInto h 0 0 s).head h).slots[(2 : SlotNo)] := resolveInto_slot_of_ne h _ (by decide) 1
  have h0 : P (resolveInto h 0 0 s) := law.resolve 0 (fun hf => hempty hf 0) hs
  have h1 : P (resolveInto h 1 1 (resolveInto h 0 0 s)) :=
    law.resolve 1 (fun hf => by rw [h01]; exact hempty hf 1) h0
  exact law.resolve 2 (fun hf => by rw [h12, h02]; exact hempty hf 2) h1

omit law in
theorem emptySlots_slotsEmpty (h : HeadId) (s : State) : ((emptySlots h s).head h).SlotsEmpty := by
  obtain ⟨q, e⟩ := emptySlots_head_self h s
  intro k
  rw [e]
  exact Vector.getElem_replicate _

omit law in
theorem emptySlot_slot_self (h : HeadId) (k : SlotNo) (s : State) : ((emptySlot h k s).head h).slots[k] = .empty := by
  obtain ⟨q, -, e⟩ := emptySlot_head_self s h k
  rw [e]
  simp

theorem LineLaw.resolverStep {t : TimingSet} {first : Bool} {ended : Nat} {k : LineKind} {lost : Bool}
    (hempty : fresh → first = true → (s.head h).SlotsEmpty) (hs : P s) :
    P (resolverStep h t first ended k lost s) := by
  unfold Machine.resolverStep
  split
  · next hf => exact law.resolveFirstThree (fun he => hempty he hf) hs
  · split
    · exact law.resolveFirstThree (fun _ => emptySlots_slotsEmpty h s) (law.emptySlots hs)
    · unfold releaseAndResolve
      split
      · exact hs
      · next j _ => exact law.resolve _ (fun _ => emptySlot_slot_self h j s) (law.emptySlot h j hs)

theorem LineLaw.commitStep {t : TimingSet} {k : LineKind} (hs : P s) : P (commitStep h t k s) := by
  unfold Machine.commitStep
  split
  · exact law.apply h hs
  · exact hs

theorem LineLaw.lineWork {releaseFirst : Bool} {t : TimingSet} {first : Bool} {ended : Nat} {k : LineKind} {lost : Bool}
    (hempty : fresh → first = true → (s.head h).SlotsEmpty) (hs : P s) :
    P (lineWork releaseFirst h t first ended k lost s) := by
  unfold Machine.lineWork
  split
  · exact law.commitStep (law.resolverStep hempty hs)
  · refine law.resolverStep (fun he hf => ?_) (law.commitStep hs)
    obtain ⟨q, l, e⟩ := commitStep_head h s t k
    intro j
    rw [e]
    exact hempty he hf j

theorem LineLaw.followNotices {k : LineKind} {lost : Bool} (hs : P s) : P (followNotices h k lost s) := by
  have hlocked : P (if k.locks then Machine.notify 0 (.followLocked h) s else s) := by
    split
    · exact law.notify hs
    · exact hs
  unfold Machine.followNotices
  simp only []
  split
  · exact law.notify hlocked
  · exact hlocked

/-- 3.2.1: a line start keeps the law. -/
theorem LineLaw.takeLineStart (hempty : fresh → (s.head h).startPending = true → (s.head h).SlotsEmpty) (hs : P s) :
    P (takeLineStart h s) := by
  cases ht : (s.head h).timing with
  | none =>
    unfold Machine.takeLineStart
    simp only [ht]
    exact hs
  | some t =>
    have hbegun : P (lineBegun h t s) := law.followNotices (law.counters ⟨rfl, rfl, rfl, rfl, rfl⟩ hs)
    have hslots : ((lineBegun h t s).head h).slots = (s.head h).slots := by rw [lineBegun_head]; rfl
    obtain ⟨releaseFirst, draws, e⟩ := takeLineStart_stages h s ht
    rw [e, lineFinished]
    refine law.age h ?_
    have hwork := law.draws draws (law.lineWork (releaseFirst := releaseFirst) (t := t) (ended := (s.head h).line)
      (k := lineKind (s.head h) t) (lost := losesLock (s.head h) (lineKind (s.head h) t))
      (fun he hf k => by rw [hslots]; exact hempty he hf k) hbegun)
    split
    · exact law.stale _ hwork
    · exact hwork

theorem LineLaw.endLine (hempty : fresh → (s.head h).startPending = true → (s.head h).SlotsEmpty) (hs : P s) :
    P (endLine h s) := by
  obtain ⟨sh, e⟩ := endLine_eq h s
  rw [e]
  refine law.takeLineStart (fun he hp => ?_) (law.counters ⟨rfl, rfl, rfl, rfl, rfl⟩ hs)
  rw [State.head_setHead_self] at hp ⊢
  exact hempty he hp

/-- R60: the stop of a head keeps the law. -/
theorem LineLaw.stopRunning (hs : P s) : P (stopRunning h s) := by
  rw [stopRunning_eq, stopAndEmpty, staleHead]
  exact law.apply h (law.stale _ (law.emptySlots (law.counters ⟨rfl, rfl, rfl, rfl, rfl⟩ hs)))
end

end Sys2Proof.Machine
end

section
/-! Laws that every step keeps, from what its parts keep: `FetchLaw` for laws about line slots, cursors, tags and
references, `TableLaw` for laws about windows, clients, notices and the lists of the heads. -/

namespace Sys2Proof.Machine

/-! ### What the commands on windows and clients leave alone -/

/-- Line slots, cursors, Raster Timers, tags and references are the same: of a head only the Commit Queue and the Depth
List differ. -/
structure SameFetch (s u : State) : Prop where
  heads : ∀ h, ∃ q l, u.head h = { s.head h with commitQueue := q, depthList := l }
  tags  : ∀ t, u.tag t = s.tag t
  refs  : ∀ w, (u.window w).refs = (s.window w).refs

section
variable {s u v : State}

theorem SameFetch.of_heads (hh : ∀ h, u.head h = s.head h) (ht : ∀ t, u.tag t = s.tag t)
    (hr : ∀ w, (u.window w).refs = (s.window w).refs) : SameFetch s u := ⟨fun h => ⟨_, _, hh h⟩, ht, hr⟩

theorem SameFetch.refl (s : State) : SameFetch s s := .of_heads (fun _ => rfl) (fun _ => rfl) fun _ => rfl

theorem SameFetch.trans (a : SameFetch s u) (b : SameFetch u v) : SameFetch s v where
  heads h := by
    obtain ⟨q, l, e⟩ := a.heads h
    obtain ⟨q', l', e'⟩ := b.heads h
    exact ⟨q', l', by rw [e', e]⟩
  tags t := (b.tags t).trans (a.tags t)
  refs w := (b.refs w).trans (a.refs w)

theorem SameFetch.foldl {α : Type} (f : State → α → State) (hf : ∀ s a, SameFetch s (f s a)) (l : List α) (s : State) :
    SameFetch s (l.foldl f s) := by
  induction l generalizing s with
  | nil => exact .refl s
  | cons a l ih => exact (hf s a).trans (ih (f s a))

theorem setWindow_sameFetch {w : WindowId} {x : Window} (hx : x.refs = (s.window w).refs) :
    SameFetch s (s.setWindow w x) :=
  .of_heads (fun _ => rfl) (fun _ => rfl) fun y => by
    rw [State.window_setWindow]
    split
    · next e => subst e; exact hx
    · rfl

theorem setHead_sameFetch (h : HeadId) (q : List ClientId) (l : List WindowId) :
    SameFetch s (s.setHead h { s.head h with commitQueue := q, depthList := l }) where
  heads x := by
    rw [State.head_setHead]
    split
    · next e => subst e; exact ⟨_, _, rfl⟩
    · exact ⟨_, _, rfl⟩
  tags _ := rfl
  refs _ := rfl

theorem setClient_sameFetch (c : ClientId) (k : Client) : SameFetch s (s.setClient c k) :=
  .of_heads (fun _ => rfl) (fun _ => rfl) fun _ => rfl

theorem setChannel_sameFetch (c : ClientId) (ch : Channel) : SameFetch s (s.setChannel c ch) :=
  .of_heads (fun _ => rfl) (fun _ => rfl) fun _ => rfl

theorem setNotice_sameFetch (c : ClientId) (r : NoticeRecord) : SameFetch s (s.setNotice c r) :=
  .of_heads (fun _ => rfl) (fun _ => rfl) fun _ => rfl

theorem enterClosed_sameFetch (c : ClientId) (s : State) : SameFetch s (enterClosed c s) where
  heads h := ⟨_, _, enterClosed_head s c h⟩
  tags _ := rfl
  refs _ := rfl

theorem dropHeld_sameFetch (c : ClientId) (s : State) : SameFetch s (dropHeld c s) := by
  rcases dropHeld_cases s c with ⟨-, -, e⟩ | ⟨-, e⟩ <;> rw [e]
  · exact (setClient_sameFetch c _).trans (enterClosed_sameFetch c _)
  · exact setClient_sameFetch c _

theorem freeWindow_sameFetch (w : WindowId) (s : State) : SameFetch s (freeWindow w s) := by
  have hset : SameFetch s (s.setWindow w { s.window w with life := .free }) := setWindow_sameFetch rfl
  rcases freeWindow_cases s w with ⟨-, e⟩ | ⟨hd, -, e⟩ | ⟨hd, -, -, e⟩ <;> rw [e]
  · exact .refl s
  · exact hset.trans (dropHeld_sameFetch _ _)
  · exact (hset.trans (setNotice_sameFetch _ _)).trans (dropHeld_sameFetch _ _)

theorem processWindow_sameFetch (w : WindowId) (s : State) : SameFetch s (processWindow w s) := by
  rcases processWindow_cases s w with ⟨hd, -, e⟩ | ⟨hd, img, f, -, -, e⟩ | ⟨hd, img, f, -, -, -, e⟩ |
    ⟨hd, img, f, -, -, -, e⟩ | ⟨-, e⟩ <;> rw [e]
  · exact setWindow_sameFetch rfl
  · exact setWindow_sameFetch rfl
  · exact setWindow_sameFetch rfl
  · exact freeWindow_sameFetch w s
  · exact .refl s

theorem applyClient_sameFetch (h : HeadId) (c : ClientId) (s : State) : SameFetch s (applyClient h s c) :=
  .foldl _ (fun s w => by
    split
    · exact processWindow_sameFetch w s
    · exact .refl s) allWindows s

theorem setCommitted_sameFetch (h : HeadId) (c : ClientId) (s : State) : SameFetch s (setCommitted h s c) := by
  unfold setCommitted
  split
  · exact .refl s
  · exact setNotice_sameFetch _ _

theorem applyClients_sameFetch (h : HeadId) (cs : List ClientId) (s : State) : SameFetch s (applyClients h cs s) := by
  have hcommitted (u : State) : SameFetch u (cs.foldl (setCommitted h) u) :=
    .foldl _ (fun s c => setCommitted_sameFetch h c s) cs u
  have happlied : SameFetch s (cs.foldl (applyClient h) s) := .foldl _ (fun s c => applyClient_sameFetch h c s) cs s
  unfold applyClients
  simp only []
  split
  · exact (happlied.trans (setHead_sameFetch h _ _)).trans (hcommitted _)
  · exact happlied.trans (hcommitted _)

theorem enqueue_sameFetch (c : ClientId) (h : HeadId) (s : State) : SameFetch s (enqueue c h s) :=
  setHead_sameFetch h _ _

theorem setStaged_sameFetch (w : WindowId) (st : Staged) (s : State) : SameFetch s (setStaged w st s) := by
  unfold setStaged
  simp only []
  split
  · exact setWindow_sameFetch rfl
  · exact setWindow_sameFetch rfl
  · exact .refl s

theorem closeOnHead_sameFetch (n : ClientId) (s : State) (h : HeadId) : SameFetch s (closeOnHead n s h) := by
  unfold closeOnHead
  repeat' split
  · exact applyClients_sameFetch h [n] s
  · exact .refl s
  · exact enqueue_sameFetch n h s
  · exact .refl s

theorem drainWindows_sameFetch (n : ClientId) (s : State) : SameFetch s (drainWindows n s) := by
  have hreserved : SameFetch s (freeReserved n s) := .foldl _ (fun s w => by
    split
    · split
      · exact freeWindow_sameFetch w s
      · exact .refl s
    · exact .refl s) allWindows s
  have hlive (u : State) : SameFetch u (retireLive n u) := .foldl _ (fun s w => by
    split
    · split
      · exact setStaged_sameFetch w _ s
      · exact .refl s
    · exact .refl s) allWindows u
  exact ((hreserved.trans (hlive _)).trans (closeOnHead_sameFetch n _ 0)).trans (closeOnHead_sameFetch n _ 1)

theorem closeClient_sameFetch (n : ClientId) (s : State) : SameFetch s (closeClient n s) := by
  have hdrained : SameFetch s (drainWindows n (closingOf n (closeChannel n s))) :=
    ((setChannel_sameFetch n _).trans (setClient_sameFetch n _)).trans (drainWindows_sameFetch n _)
  rw [closeClient_eq]
  split
  · exact hdrained.trans (enterClosed_sameFetch n _)
  · exact hdrained

/-- The commands on windows and clients leave slots, cursors, timers, tags and references alone. -/
theorem TableEffect.sameFetch {c : ClientId} (h : TableEffect c s u) : SameFetch s u := by
  cases h with
  | reserve w h =>
    have hset : SameFetch s (s.setWindow w { s.window w with life := .reserved ⟨c, h, Staged.fresh⟩ }) :=
      setWindow_sameFetch rfl
    exact hset.trans (setClient_sameFetch c _)
  | stage w _ st => exact setStaged_sameFetch w st s
  | retire w => exact freeWindow_sameFetch w s
  | enqueue h => exact enqueue_sameFetch c h s
  | apply h => exact applyClients_sameFetch h [c] s
  | openClient => exact ((setClient_sameFetch _ _).trans (setChannel_sameFetch _ _)).trans (setNotice_sameFetch _ _)
  | closeClient n => exact closeClient_sameFetch n s
  | setAperture => exact setClient_sameFetch _ _
  | setHeads => exact setClient_sameFetch _ _
end

/-! ### Laws about line slots, cursors, tags and references -/

/-- The windows, heads and tags are the same. -/
structure SameInside (s u : State) : Prop where
  windows : ∀ w, u.window w = s.window w
  heads   : ∀ h, u.head h = s.head h
  tags    : ∀ t, u.tag t = s.tag t

/-- A law about line slots, cursors, tags and references that every part of a step keeps. Under `fresh` a line is resolved
into EMPTY slots only, under `timed` a timing set changes only where all slots are EMPTY (R42, R59). -/
structure FetchLaw (fresh timed : Prop) (P : State → Prop) : Prop extends LineLaw fresh P where
  reset     : P State.reset
  outside   : ∀ {s u}, P s → SameInside s u → P u
  body      : ∀ {s u c}, TableEffect c s u → SameFetch s u → P s → P u
  setTiming : ∀ {s h ts}, (timed → (s.head h).SlotsEmpty) → ts.valid = true → P s →
    P (s.setHead h { s.head h with timing := some ts })
  deadline  : ∀ {s} (h), P s → P (takeDeadline h s)
  issue     : ∀ {s t r}, offered s = some (t, r) → P s → P (issue t r s)
  ok        : ∀ {s t} (data), (s.tag t).state = .active → P s → P (okResponse t data s)
  error     : ∀ {s t}, (s.tag t).state = .active → P s → P (errorResponse t s)
  late      : ∀ {s t}, (s.tag t).state = .stale ∨ (s.tag t).state = .abandoned → P s → P (freeTag t s)

section
variable {fresh timed : Prop} {P : State → Prop} (law : FetchLaw fresh timed P) {s u : State}
include law

/-- R122: the tags of RECLAIM_TAGS are ABANDONED, and stay so until their turn. -/
theorem FetchLaw.reclaim (ts : List TagNo) (hnd : ts.Nodup) (hts : ∀ t ∈ ts, (s.tag t).state = .abandoned) (hs : P s) :
    P (ts.foldl (fun s t => freeTag t s) s) := by
  induction ts generalizing s with
  | nil => exact hs
  | cons t ts ih =>
    obtain ⟨hnot, hnd⟩ := List.nodup_cons.mp hnd
    refine ih hnd (fun x hx => ?_) (law.late (.inr (hts t (.head _))) hs)
    rw [freeTag_tag, if_neg fun e : t = x => hnot (e ▸ hx)]
    exact hts x (.tail _ hx)

theorem FetchLaw.of_body {c : ClientId} (hstopped : timed → ∀ h, (s.head h).state = .stopped → (s.head h).SlotsEmpty)
    (h : BodyEffect c s u) (hs : P s) : P u := by
  cases h with
  | answer => exact hs
  | table h => exact law.body h h.sameFetch hs
  | setTiming h ts _ hs' hvalid => exact law.setTiming (fun ht => hstopped ht h hs') hvalid hs
  | startHead => exact law.counters ⟨rfl, rfl, rfl, rfl, rfl⟩ hs
  | stopHead h => exact law.toLineLaw.stopRunning hs
  | reclaim =>
    refine law.reclaim _ ((List.nodup_finRange 16).filter _) (fun t ht => ?_) hs
    simpa using (List.mem_filter.mp ht).2
  | clearNotices => exact law.outside hs ⟨fun _ => rfl, fun _ => rfl, fun _ => rfl⟩
  | setMask => exact law.outside hs ⟨fun _ => rfl, fun _ => rfl, fun _ => rfl⟩

omit law in
/-- R69 to R73: a mark moves the follow record alone. -/
theorem takeMark_sameStore (hd : Head) : SameStore hd hd.takeMark := by
  unfold Head.takeMark
  split <;> exact ⟨rfl, rfl, rfl, rfl, rfl⟩

theorem FetchLaw.of_response (t : TagNo) (status : RespStatus) (data : List Byte) (hs : P s) :
    P (respondTag t status data s) := by
  unfold respondTag
  split
  · next ht => exact law.ok data ht hs
  · next ht => exact law.error ht hs
  · next ht => exact law.late (.inl ht) hs
  · next ht => exact law.late (.inr ht) hs
  · exact law.toLineLaw.notify hs

/-- Such a law is kept by every effect of a step. -/
theorem FetchLaw.of_effect (hpending : fresh → ∀ h, (s.head h).startPending = true → (s.head h).SlotsEmpty)
    (hstopped : timed → ∀ h, (s.head h).state = .stopped → (s.head h).SlotsEmpty) (h : StepEffect s u) (hs : P s) :
    P u := by
  cases h with
  | idle => exact hs
  | message t v r _ heffect =>
    have hconsumed : P (consume t s) := law.outside hs ⟨fun _ => rfl, fun _ => rfl, fun _ => rfl⟩
    have hbody : P v := law.of_body (s := consume t s) hstopped heffect hconsumed
    exact law.outside hbody ⟨fun _ => rfl, fun _ => rfl, fun _ => rfl⟩
  | channel => exact law.outside hs ⟨fun _ => rfl, fun _ => rfl, fun _ => rfl⟩
  | reset => exact law.outside law.reset ⟨fun _ => rfl, fun _ => rfl, fun _ => rfl⟩
  | rise => exact law.outside hs ⟨fun _ => rfl, fun _ => rfl, fun _ => rfl⟩
  | lineStart h => exact law.toLineLaw.endLine (fun hf => hpending hf h) hs
  | activeStart h => exact law.deadline h (law.counters ⟨rfl, rfl, rfl, rfl, rfl⟩ hs)
  | pixel h =>
    obtain ⟨sh, e⟩ := advanceAssembler_eq (s.head h)
    rw [e]
    exact law.counters ⟨rfl, rfl, rfl, rfl, rfl⟩ hs
  | mark h => exact law.counters (takeMark_sameStore _) hs
  | issue t r ho => exact law.issue ho hs
  | response t status data => exact law.of_response t status data hs
end

/-! ### Laws about windows, clients, notices and the lists of the heads -/

/-- The windows, the clients, their notices, the Commit Queues and the Depth Lists are the same. -/
structure SameLists (s u : State) : Prop where
  windows : ∀ w, u.window w = s.window w
  clients : ∀ c, u.client c = s.client c
  notices : ∀ c, u.notice c = s.notice c
  queues  : ∀ h, (u.head h).commitQueue = (s.head h).commitQueue
  lists   : ∀ h, (u.head h).depthList = (s.head h).depthList

/-- A head put back with its lists as they were. -/
theorem setHead_sameLists {s : State} {h : HeadId} {v : Head} (hq : v.commitQueue = (s.head h).commitQueue)
    (hl : v.depthList = (s.head h).depthList) : SameLists s (s.setHead h v) where
  windows _ := rfl
  clients _ := rfl
  notices _ := rfl
  queues x := by
    rw [State.head_setHead]
    split
    · next e => subst e; exact hq
    · rfl
  lists x := by
    rw [State.head_setHead]
    split
    · next e => subst e; exact hl
    · rfl

/-- A law about windows, clients, notices and lists that the parts of the events keep. -/
structure TableLaw (P : State → Prop) : Prop where
  congr     : ∀ {s u}, P s → SameLists s u → P u
  setNotice : ∀ {s c r}, (c ≠ 0 → (s.notice c).noSupervisorKind → r.noSupervisorKind) → P s → P (s.setNotice c r)
  rewindow  : ∀ {s w} {v : Window}, (v.life = (s.window w).life ∨ ∃ a, v.life = (s.window w).life.failAt a) → P s →
    P (s.setWindow w v)
  free      : ∀ {s w}, (s.window w).life.isRetiring = true → P s → P (freeWindow w s)
  apply     : ∀ {s} (h), P s → P (applyQueue h s)

/-- The kinds a tenant's record may hold (R151). -/
def Notice.ofTenant : Notice → Prop
  | .committed _ | .underrun _ | .layerDropped _ | .fetchFault _ | .retired _ => True
  | _ => False

theorem NoticeRecord.noSupervisorKind_set {r : NoticeRecord} {n : Notice} (hn : n.ofTenant)
    (h : r.noSupervisorKind) : (r.set n).noSupervisorKind := by
  cases n with
  | committed | underrun | layerDropped | fetchFault | retired => exact h
  | _ => exact hn.elim

section
variable {P : State → Prop} (law : TableLaw P) {s u : State}
include law

theorem TableLaw.notify {c : ClientId} {n : Notice} (hn : c = 0 ∨ n.ofTenant) (hs : P s) : P (notify c n s) := by
  refine law.setNotice (fun h0 hr => ?_) hs
  exact NoticeRecord.noSupervisorKind_set (hn.resolve_left h0) hr

theorem TableLaw.notifyOwners {mk : WindowId → Notice} (hn : ∀ w, (mk w).ofTenant) (ws : List WindowId) (hs : P s) :
    P (notifyOwners mk ws s) := by
  induction ws generalizing s with
  | nil => exact hs
  | cons w ws ih =>
    refine ih (s := notifyOwner w (mk w) s) ?_
    unfold notifyOwner
    split
    · exact law.notify (.inr (hn w)) hs
    · exact hs

theorem TableLaw.addRefs (ws : List WindowId) (hs : P s) : P (addRefs ws s) := by
  induction ws generalizing s with
  | nil => exact hs
  | cons w ws ih => exact ih (s := addRef w s) (law.rewindow (.inl rfl) hs)

theorem TableLaw.releaseRef (w : WindowId) (hs : P s) : P (releaseRef w s) := by
  have hset : P (s.setWindow w { s.window w with refs := (s.window w).refs - 1 }) := law.rewindow (.inl rfl) hs
  rcases releaseRef_cases s w with ⟨hr, -, e⟩ | ⟨-, e⟩ <;> rw [e]
  · exact law.free (by rw [State.window_setWindow_self]; exact hr) hset
  · exact hset

theorem TableLaw.releaseRefs (ws : List WindowId) (hs : P s) : P (releaseRefs ws s) := by
  induction ws generalizing s with
  | nil => exact hs
  | cons w ws ih => exact ih (s := Machine.releaseRef w s) (law.releaseRef w hs)

theorem TableLaw.withTags (ts : Vector Tag 16) (hs : P s) : P { s with tags := ts } :=
  law.congr hs ⟨fun _ => rfl, fun _ => rfl, fun _ => rfl, fun _ => rfl, fun _ => rfl⟩

theorem TableLaw.setSlot {h : HeadId} {k : SlotNo} {v : Slot} {next : Option Pos} (hs : P s) :
    P (setSlot h k v next s) := law.congr hs (setHead_sameLists rfl rfl)

theorem TableLaw.resolveInto (h : HeadId) (k : SlotNo) (n : Nat) (hs : P s) : P (resolveInto h k n s) := by
  cases ht : (s.head h).timing with
  | none =>
    unfold Machine.resolveInto
    rw [ht]
    exact hs
  | some t =>
    rcases resolveInto_cases h k n s ht with ⟨-, e⟩ | ⟨-, r, -, e⟩ <;> rw [e]
    · exact law.setSlot hs
    · exact law.notifyOwners (mk := .layerDropped) (fun _ => trivial) _ (law.addRefs _ (law.setSlot hs))

theorem TableLaw.ageTags (h : HeadId) (hs : P s) : P (ageTags h s) := by
  unfold Machine.ageTags
  simp only []
  generalize allTags.filter _ = expired
  have haged : P { s with tags := Vector.ofFn fun i => s.tags[i].aged h } := law.withTags _ hs
  revert haged
  generalize ({ s with tags := Vector.ofFn fun i => s.tags[i].aged h } : State) = v
  intro haged
  induction expired generalizing v with
  | nil => exact haged
  | cons t ts ih => exact ih _ (law.notify (.inl rfl) haged)

theorem TableLaw.lineLaw : LineLaw False P where
  counters hv hs := law.congr hs (setHead_sameLists hv.commitQueue hv.depthList)
  notify hs := law.notify (.inl rfl) hs
  emptySlot _ _ hs := law.releaseRefs _ (law.withTags _ (law.setSlot hs))
  resolve n _ hs := law.resolveInto _ _ n hs
  apply h hs := law.apply h hs
  stale _ hs := law.withTags _ hs
  age h hs := law.ageTags h hs
  draws _ hs := law.congr hs ⟨fun _ => rfl, fun _ => rfl, fun _ => rfl, fun _ => rfl, fun _ => rfl⟩

theorem TableLaw.freeTag (t : TagNo) (hs : P s) : P (freeTag t s) := law.releaseRef _ (law.withTags _ hs)

theorem TableLaw.okResponse (t : TagNo) (data : List Byte) (hs : P s) : P (okResponse t data s) := by
  unfold Machine.okResponse
  simp only []
  refine law.freeTag t ?_
  repeat' split
  · exact law.setSlot hs
  · exact hs
  · exact hs

theorem TableLaw.dropSegment (h : HeadId) (k : SlotNo) (i j : Nat) (hs : P s) : P (dropSegment h k i j s) := by
  unfold Machine.dropSegment
  split
  · split
    · simp only []
      split
      · exact law.setSlot hs
      · exact law.releaseRef _ (law.setSlot hs)
    · exact hs
  · exact hs

theorem TableLaw.setFault (w : WindowId) (address : Nat) (hs : P s) : P (setFault w address s) := by
  rcases setFault_cases w address s with ⟨hd, -, -, e⟩ | ⟨-, e, -⟩ <;> rw [e]
  · exact law.notify (.inr trivial) (law.rewindow (.inr ⟨address, rfl⟩) hs)
  · exact hs

theorem TableLaw.errorResponse (t : TagNo) (hs : P s) : P (errorResponse t s) := by
  rw [errorResponse_eq]
  exact law.freeTag t (law.setFault _ _ (law.withTags _ (law.dropSegment _ _ _ _ hs)))

theorem TableLaw.respondTag (t : TagNo) (status : RespStatus) (data : List Byte) (hs : P s) :
    P (respondTag t status data s) := by
  unfold Machine.respondTag
  split
  · exact law.okResponse t data hs
  · exact law.errorResponse t hs
  · exact law.freeTag t hs
  · exact law.freeTag t hs
  · exact law.notify (.inl rfl) hs

theorem TableLaw.takeDeadline (h : HeadId) (hs : P s) : P (takeDeadline h s) := by
  unfold Machine.takeDeadline
  simp only []
  split
  · split
    · exact hs
    · split
      · split
        · exact law.releaseRefs _ (law.notifyOwners (mk := .underrun) (fun _ => trivial) _
            (law.withTags _ (law.congr hs (setHead_sameLists rfl rfl))))
        · exact law.congr hs (setHead_sameLists rfl rfl)
        · exact hs
      · exact hs
  · exact hs

omit law in
/-- R106: of windows, clients, notices and lists an issue changes the references of the window. -/
theorem issue_sameLists (t : TagNo) (r : Request) (s : State) : SameLists (addRef r.window s) (issue t r s) where
  windows _ := rfl
  clients _ := rfl
  notices _ := rfl
  queues x := (setHead_sameLists (s := s) (h := r.head)
    (v := { s.head r.head with cursor := (s.head r.head).cursor.set r.slot r.after }) rfl rfl).queues x
  lists x := (setHead_sameLists (s := s) (h := r.head)
    (v := { s.head r.head with cursor := (s.head r.head).cursor.set r.slot r.after }) rfl rfl).lists x

theorem TableLaw.issue (t : TagNo) (r : Request) (hs : P s) : P (issue t r s) :=
  law.congr (s := addRef r.window s) (law.rewindow (.inl rfl) hs) (issue_sameLists t r s)

theorem TableLaw.reclaim (ts : List TagNo) (hs : P s) : P (ts.foldl (fun s t => Machine.freeTag t s) s) := by
  induction ts generalizing s with
  | nil => exact hs
  | cons t ts ih => exact ih (law.freeTag t hs)

/-- Such a law is kept by every effect of a step, if it holds at reset and the commands on windows and clients keep
it. -/
theorem TableLaw.of_effect (hreset : P State.reset) (htable : ∀ {c s u}, TableEffect c s u → P s → P u)
    (h : StepEffect s u) (hs : P s) : P u := by
  have same {s u : State} (hs : P s) (hu : SameLists s u) : P u := law.congr hs hu
  cases h with
  | idle => exact hs
  | message t v r _ heffect =>
    have hconsumed : P (consume t s) := same hs ⟨fun _ => rfl, fun _ => rfl, fun _ => rfl, fun _ => rfl, fun _ => rfl⟩
    refine same (s := v) ?_ ⟨fun _ => rfl, fun _ => rfl, fun _ => rfl, fun _ => rfl, fun _ => rfl⟩
    cases heffect with
    | answer => exact hconsumed
    | table h => exact htable h hconsumed
    | setTiming => exact same hconsumed (setHead_sameLists rfl rfl)
    | startHead => exact same hconsumed (setHead_sameLists rfl rfl)
    | stopHead => exact law.lineLaw.stopRunning hconsumed
    | reclaim => exact law.reclaim _ hconsumed
    | clearNotices => exact law.setNotice (fun _ _ => ⟨rfl, rfl, rfl, rfl, rfl⟩) hconsumed
    | setMask => exact law.setNotice (fun _ hr => hr) hconsumed
  | channel => exact same hs ⟨fun _ => rfl, fun _ => rfl, fun _ => rfl, fun _ => rfl, fun _ => rfl⟩
  | reset => exact same hreset ⟨fun _ => rfl, fun _ => rfl, fun _ => rfl, fun _ => rfl, fun _ => rfl⟩
  | rise => exact same hs ⟨fun _ => rfl, fun _ => rfl, fun _ => rfl, fun _ => rfl, fun _ => rfl⟩
  | lineStart h => exact law.lineLaw.endLine (fun hf => hf.elim) hs
  | activeStart h => exact law.takeDeadline h (same hs (setHead_sameLists rfl rfl))
  | pixel h =>
    obtain ⟨sh, e⟩ := advanceAssembler_eq (s.head h)
    rw [e]
    exact same hs (setHead_sameLists rfl rfl)
  | mark h =>
    have hmark := takeMark_sameStore (s.head h)
    exact same hs (setHead_sameLists hmark.commitQueue hmark.depthList)
  | issue t r => exact law.issue t r hs
  | response t status data => exact law.respondTag t status data hs

/-- Such a law is kept by every step. -/
theorem TableLaw.of_step (hreset : P State.reset) (htable : ∀ {c s u}, TableEffect c s u → P s → P u) (hs : P s)
    (h : step s = .next u) : P u :=
  step_keeps (fun _ _ hs => law.congr hs ⟨fun _ => rfl, fun _ => rfl, fun _ => rfl, fun _ => rfl, fun _ => rfl⟩)
    (fun _ _ hs he => law.of_effect hreset htable he hs) hs h
end

end Sys2Proof.Machine
end

section
/-! The queue of waiting commands and the host side over a step (95, 10.2): every command completes, the FIFOs keep their
limits, and channels follow their clients (R137, R161). -/

namespace Sys2Proof.Machine

/-- Settles O1: a step is defined by the front of the queue. -/
theorem stepTakesFrontOfQueue : Obligations.StepTakesFrontOfQueue := by
  refine ⟨fun c s => rfl, fun s hs => ?_⟩
  unfold step
  rw [hs]

/-! ### What no effect on the tables touches -/

/-- The channels, the queue of waiting commands and the plain fields that hosts see are the same. -/
structure KeepsOutside (s u : State) : Prop where
  channels  : u.channels = s.channels
  resetHeld : u.resetHeld = s.resetHeld
  pointer   : u.pointer = s.pointer
  readData  : u.readData = s.readData
  pending   : u.pending = s.pending

section
variable {s u v : State}

theorem KeepsHost.outside (h : KeepsHost s u) : KeepsOutside s u :=
  ⟨h.channels, h.resetHeld, h.pointer, h.readData, h.pending⟩

theorem KeepsOutside.trans (a : KeepsOutside s u) (b : KeepsOutside u v) : KeepsOutside s v :=
  ⟨b.channels.trans a.channels, b.resetHeld.trans a.resetHeld, b.pointer.trans a.pointer,
    b.readData.trans a.readData, b.pending.trans a.pending⟩

theorem KeepsOutside.channel (h : KeepsOutside s u) (c : ClientId) : u.channel c = s.channel c := by
  simp only [State.channel, h.channels]

theorem ageTags_outside (h : HeadId) (s : State) : KeepsOutside s (ageTags h s) := by
  have keeps {β : Type} (f : State → β) (hf : ∀ u c r, f (u.setNotice c r) = f u)
      (ht : f { s with tags := Vector.ofFn fun i => s.tags[i].aged h } = f s) : f (ageTags h s) = f s :=
    (ageTags_keeps h s f fun u w => hf u 0 _).trans ht
  exact ⟨keeps State.channels (fun _ _ _ => rfl) rfl, keeps State.resetHeld (fun _ _ _ => rfl) rfl,
    keeps State.pointer (fun _ _ _ => rfl) rfl, keeps State.readData (fun _ _ _ => rfl) rfl,
    keeps State.pending (fun _ _ _ => rfl) rfl⟩

/-- The parts of a line start do not touch the outside. -/
theorem lineLaw_outside (s : State) : LineLaw False (KeepsOutside s) where
  counters _ hs := hs.trans (setHead_keepsHost _ _ _).outside
  notify hs := hs.trans (notify_keepsHost _ _ _).outside
  emptySlot h k hs := hs.trans (emptySlot_keepsHost _ h k).outside
  resolve n _ hs := hs.trans (resolveInto_keepsHost _ _ n _).outside
  apply h hs := hs.trans (applyQueue_keepsHost _ h).outside
  stale p hs := hs.trans (staleTags_keepsHost _ p).outside
  age h hs := hs.trans (ageTags_outside h _)
  draws _ hs := hs.trans ⟨rfl, rfl, rfl, rfl, rfl⟩

theorem takeDeadline_keepsHost (h : HeadId) (s : State) : KeepsHost s (takeDeadline h s) := by
  unfold takeDeadline
  simp only []
  repeat' split
  · exact .refl s
  · exact (setHead_keepsHost s _ _).trans ((staleTags_keepsHost _ _).trans
      ((notifyOwners_keepsHost _ _ _).trans (releaseRefs_keepsHost _ _)))
  · exact setHead_keepsHost s _ _
  · exact .refl s
  · exact .refl s
  · exact .refl s

theorem okResponse_keepsHost (t : TagNo) (data : List Byte) (s : State) : KeepsHost s (okResponse t data s) := by
  unfold okResponse
  simp only []
  refine KeepsHost.trans ?_ (freeTag_keepsHost _ t)
  repeat' split
  · exact setSlot_keepsHost s _ _ _ _
  · exact .refl s
  · exact .refl s

theorem dropSegment_keepsHost (h : HeadId) (k : SlotNo) (i j : Nat) (s : State) :
    KeepsHost s (dropSegment h k i j s) := by
  unfold dropSegment
  simp only []
  repeat' split
  · exact setSlot_keepsHost s _ _ _ _
  · exact (setSlot_keepsHost s _ _ _ _).trans (releaseRef_keepsHost _ _)
  · exact .refl s
  · exact .refl s

theorem respondTag_keepsHost (t : TagNo) (status : RespStatus) (data : List Byte) (s : State) :
    KeepsHost s (respondTag t status data s) := by
  unfold respondTag
  split
  · exact okResponse_keepsHost t data s
  · rw [errorResponse_eq]
    exact (dropSegment_keepsHost _ _ _ _ s).trans ((staleTags_keepsHost _ _).trans
      ((setFault_keepsHost _ _ _).trans (freeTag_keepsHost _ t)))
  · exact freeTag_keepsHost s t
  · exact freeTag_keepsHost s t
  · exact notify_keepsHost s _ _

theorem setStaged_keepsHost (w : WindowId) (st : Staged) (s : State) : KeepsHost s (setStaged w st s) := by
  unfold setStaged
  simp only []
  split
  · exact setWindow_keepsHost s _ _
  · exact setWindow_keepsHost s _ _
  · exact .refl s

theorem closeOnHead_keepsHost (n : ClientId) (s : State) (h : HeadId) : KeepsHost s (closeOnHead n s h) := by
  unfold closeOnHead
  repeat' split
  · exact applyClients_keepsHost s h [n]
  · exact .refl s
  · exact setHead_keepsHost s _ _
  · exact .refl s

theorem drainWindows_keepsHost (n : ClientId) (s : State) : KeepsHost s (drainWindows n s) := by
  have hreserved : KeepsHost s (freeReserved n s) := .foldl _ (fun s w => by
    split
    · split
      · exact freeWindow_keepsHost s w
      · exact .refl s
    · exact .refl s) allWindows s
  have hlive (u : State) : KeepsHost u (retireLive n u) := .foldl _ (fun s w => by
    split
    · split
      · exact setStaged_keepsHost w _ s
      · exact .refl s
    · exact .refl s) allWindows u
  exact ((hreserved.trans (hlive _)).trans (closeOnHead_keepsHost n _ 0)).trans (closeOnHead_keepsHost n _ 1)

/-- R161: CLOSE_CLIENT closes the channel of the client and touches no other. -/
theorem closeClient_keepsHost (n : ClientId) (s : State) : KeepsHost (closeChannel n s) (closeClient n s) := by
  have hdrained : KeepsHost (closeChannel n s) (drainWindows n (closingOf n (closeChannel n s))) :=
    (setClient_keepsHost _ n _).trans (drainWindows_keepsHost n _)
  rw [closeClient_eq]
  split
  · exact hdrained.trans (enterClosed_keepsHost _ n)
  · exact hdrained

theorem stopRunning_outside (h : HeadId) (s : State) : KeepsOutside s (stopRunning h s) :=
  (lineLaw_outside s).stopRunning (KeepsHost.refl s).outside

theorem endLine_outside (h : HeadId) (s : State) : KeepsOutside s (endLine h s) :=
  (lineLaw_outside s).endLine (fun hf => hf.elim) (KeepsHost.refl s).outside

theorem reclaim_keepsHost (ts : List TagNo) (s : State) : KeepsHost s (ts.foldl (fun s t => freeTag t s) s) :=
  .foldl _ (fun s t => freeTag_keepsHost s t) ts s

/-- A table effect leaves the outside alone, but for the channel of a client that opens or closes. -/
theorem TableEffect.outside {c : ClientId} (h : TableEffect c s u) :
    KeepsOutside s u ∨ (c = 0 ∧ ∃ n ch, n ≠ 0 ∧ KeepsOutside (s.setChannel n ch) u) := by
  cases h with
  | reserve w h => exact .inl ((setWindow_keepsHost s w _).trans (setClient_keepsHost _ c _)).outside
  | stage w _ st => exact .inl (setStaged_keepsHost w st s).outside
  | retire w => exact .inl (freeWindow_keepsHost s w).outside
  | enqueue h => exact .inl (setHead_keepsHost s h _).outside
  | apply h => exact .inl (applyClients_keepsHost s h [c]).outside
  | openClient n _ _ _ hc hn => exact .inr ⟨hc, n, _, hn, ⟨rfl, rfl, rfl, rfl, rfl⟩⟩
  | closeClient n hc hn => exact .inr ⟨hc, n, _, hn, (closeClient_keepsHost n s).outside⟩
  | setAperture n => exact .inl (setClient_keepsHost s n _).outside
  | setHeads n => exact .inl (setClient_keepsHost s n _).outside

/-- So does the body of a message command. -/
theorem BodyEffect.outside {c : ClientId} (h : BodyEffect c s u) :
    KeepsOutside s u ∨ (c = 0 ∧ ∃ n ch, n ≠ 0 ∧ KeepsOutside (s.setChannel n ch) u) := by
  cases h with
  | answer => exact .inl (KeepsHost.refl s).outside
  | table h => exact h.outside
  | setTiming h => exact .inl (setHead_keepsHost s h _).outside
  | startHead h => exact .inl (setHead_keepsHost s h _).outside
  | stopHead h => exact .inl (stopRunning_outside h s)
  | reclaim => exact .inl (reclaim_keepsHost _ s).outside
  | clearNotices => exact .inl (setNotice_keepsHost s c _).outside
  | setMask => exact .inl (setNotice_keepsHost s c _).outside

/-! ### Every command completes (95) -/

theorem BodyEffect.pending {c : ClientId} (h : BodyEffect c s u) : u.pending = s.pending := by
  rcases h.outside with h | ⟨-, n, ch, -, h⟩
  · exact h.pending
  · exact h.pending

theorem StepEffect.pending (h : StepEffect s u) : u.pending = s.pending := by
  cases h with
  | message t v r _ heffect => exact heffect.pending
  | lineStart h => exact (endLine_outside h s).pending
  | activeStart h => exact (takeDeadline_keepsHost h _).pending
  | issue t r => rfl
  | response t status data => exact (respondTag_keepsHost t status data s).pending
  | _ => rfl
end

/-- Settles O2: each command has one of the effects of a step, and none of these touches the queue. -/
theorem everyCommandCompletes : Obligations.EveryCommandCompletes := by
  intro c s
  obtain ⟨u, hu, heffect⟩ := exec_effect s c
  exact ⟨u, hu, heffect.pending⟩

end Sys2Proof.Machine
end

section
/-! Laws about windows, clients and notices, from what one record's change does to them: `RecordLaw` for the events,
`BodyLaw` for the commands besides. -/

namespace Sys2Proof.Machine

/-- What an event can make of the life of a window that stays: a fault is noted (R4), or an apply processes the window
(R36, R37). -/
inductive LifeStep : Life → Life → Prop
  | same (l : Life) : LifeStep l l
  | fault (l : Life) (address : Nat) : LifeStep l (l.failAt address)
  | taken {l : Life} {hd : Held} (held : l.held? = some hd) (active : l.isRetiring = false) :
      LifeStep l (.live hd hd.staged.image none)
  | retired (hd : Held) (img : Image) (f : Option Nat) : LifeStep (.live hd img f) (.retiring hd img f)

theorem LifeStep.held? {l l' : Life} (h : LifeStep l l') : l'.held? = l.held? := by
  cases h with
  | same => rfl
  | fault => exact Life.held?_failAt _ _
  | taken held => exact held.symm
  | retired => rfl

/-- A law about windows, clients and notices that a change of one record in an event keeps. -/
structure RecordLaw (P : State → Prop) : Prop where
  congr     : ∀ {s u}, P s → (∀ w, u.window w = s.window w) → (∀ c, u.client c = s.client c) →
    (∀ c, u.notice c = s.notice c) → P u
  setNotice : ∀ {s c r}, (c ≠ 0 → (s.notice c).noSupervisorKind → r.noSupervisorKind) → P s → P (s.setNotice c r)
  rewindow  : ∀ {s w} {v : Window}, LifeStep (s.window w).life v.life → P s → P (s.setWindow w v)
  free      : ∀ {s} (w), P s → P (freeWindow w s)

section
variable {P : State → Prop} (law : RecordLaw P) {s : State}
include law

theorem RecordLaw.same {u : State} (hs : P s) (hu : SameLists s u) : P u :=
  law.congr hs hu.windows hu.clients hu.notices

theorem RecordLaw.setHead {h : HeadId} {v : Head} (hs : P s) : P (s.setHead h v) :=
  law.congr hs (fun _ => rfl) (fun _ => rfl) fun _ => rfl

theorem RecordLaw.processWindow (w : WindowId) (hs : P s) : P (processWindow w s) := by
  rcases processWindow_cases s w with ⟨hd, hl, e⟩ | ⟨hd, img, f, hl, -, e⟩ | ⟨hd, img, f, hl, -, -, e⟩ |
    ⟨hd, img, f, -, -, -, e⟩ | ⟨-, e⟩ <;> rw [e]
  · exact law.rewindow (.taken (by rw [hl]; rfl) (by rw [hl]; rfl)) hs
  · exact law.rewindow (.taken (by rw [hl]; rfl) (by rw [hl]; rfl)) hs
  · exact law.rewindow (by rw [hl]; exact .retired hd img f) hs
  · exact law.free w hs
  · exact hs

omit law in
/-- What one element's turn keeps, the whole fold keeps. -/
theorem foldl_keeps_law {P : State → Prop} {α : Type} {f : State → α → State} (hf : ∀ s a, P s → P (f s a)) (l : List α)
    {s : State} (hs : P s) : P (l.foldl f s) := by
  induction l generalizing s with
  | nil => exact hs
  | cons a l ih => exact ih (hf s a hs)

theorem RecordLaw.applyClient (h : HeadId) (c : ClientId) (hs : P s) : P (applyClient h s c) :=
  foldl_keeps_law (fun s w hs => by
    split
    · exact law.processWindow w hs
    · exact hs) allWindows hs

theorem RecordLaw.setCommitted (h : HeadId) (c : ClientId) (hs : P s) : P (setCommitted h s c) := by
  unfold Machine.setCommitted
  split
  · exact hs
  · exact law.setNotice (fun _ hr => hr) hs

theorem RecordLaw.applyClients (h : HeadId) (cs : List ClientId) (hs : P s) : P (applyClients h cs s) := by
  have happlied : P (cs.foldl (Machine.applyClient h) s) :=
    foldl_keeps_law (fun s c hs => law.applyClient h c hs) cs hs
  unfold Machine.applyClients
  simp only []
  refine foldl_keeps_law (fun s c hs => law.setCommitted h c hs) cs ?_
  split
  · exact law.setHead happlied
  · exact happlied

theorem RecordLaw.tableLaw : TableLaw P where
  congr hs hu := law.same hs hu
  setNotice := law.setNotice
  rewindow {s w v} hv hs := by
    refine law.rewindow ?_ hs
    rcases hv with e | ⟨a, e⟩ <;> rw [e]
    · exact .same _
    · exact .fault _ a
  free _ hs := law.free _ hs
  apply h hs := by
    rw [applyQueue_eq]
    exact law.setHead (law.applyClients h _ hs)
end

/-- A law that edits of staged images keep as well, and so what CLOSE_CLIENT does with windows. -/
structure StageLaw (P : State → Prop) : Prop extends RecordLaw P where
  stage : ∀ {s w hd st}, (s.window w).life.held? = some hd → EditsStaged s hd st → P s → P (setStaged w st s)

section
variable {P : State → Prop} (law : StageLaw P) {s : State}
include law

theorem StageLaw.closeOnHead (n : ClientId) (h : HeadId) (hs : P s) : P (closeOnHead n s h) := by
  unfold Machine.closeOnHead
  repeat' split
  · exact law.toRecordLaw.applyClients h [n] hs
  · exact hs
  · exact law.toRecordLaw.setHead hs
  · exact hs

theorem StageLaw.freeReserved (n : ClientId) (hs : P s) : P (freeReserved n s) := by
  unfold Machine.freeReserved
  refine foldl_keeps_law (fun s w hs => ?_) allWindows hs
  split
  · split
    · exact law.free w hs
    · exact hs
  · exact hs

theorem StageLaw.retireLive (n : ClientId) (hs : P s) : P (retireLive n s) := by
  unfold Machine.retireLive
  refine foldl_keeps_law (fun s w hs => ?_) allWindows hs
  split
  · next hd _ _ hl =>
    split
    · exact law.stage (hd := hd) (by rw [hl]; rfl) (.of_same rfl rfl rfl rfl) hs
    · exact hs
  · exact hs

theorem StageLaw.drainWindows (n : ClientId) (hs : P s) : P (drainWindows n s) := by
  have hprepared : P (prepareWindows n s) := by
    rw [prepareWindows]
    exact law.retireLive n (law.freeReserved n hs)
  unfold Machine.drainWindows closeOnHeads
  generalize prepareWindows n s = v at hprepared ⊢
  exact law.closeOnHead n 1 (law.closeOnHead n 0 hprepared)
end

/-- A law that the commands on windows and clients keep as well. -/
structure BodyLaw (P : State → Prop) : Prop extends StageLaw P where
  reset       : P State.reset
  reserve     : ∀ {s w c h}, (s.client c).heads.has h = true → (s.client c).held ≠ (s.client c).quota →
    (s.window w).life = .free → P s → P (reserveWindow w c h s)
  openClient  : ∀ {s n quota ap heads}, n ≠ 0 → (s.client n).state = .closed → P s → P (openClient n quota ap heads s)
  closing     : ∀ {s n}, n ≠ 0 → (s.client n).state = .opened → P s → P (closingOf n s)
  closed      : ∀ {s n}, n ≠ 0 → (s.client n).held = 0 → P s → P (enterClosed n s)
  setAperture : ∀ {s n ap}, n ≠ 0 → (s.client n).state = .opened → s.windowsFit n ap = true → P s →
    P (s.setClient n { s.client n with aperture := some ap })
  setHeads    : ∀ {s n heads}, n ≠ 0 → (s.client n).state = .opened → P s →
    P (s.setClient n { s.client n with heads := heads })

section
variable {P : State → Prop} (law : BodyLaw P) {s u : State}
include law

theorem BodyLaw.closeClient {n : ClientId} (hn : n ≠ 0) (ho : (s.client n).state = .opened) (hs : P s) :
    P (closeClient n s) := by
  have hchannel : P (closeChannel n s) := law.congr hs (fun _ => rfl) (fun _ => rfl) fun _ => rfl
  have hdrained := law.toStageLaw.drainWindows n (law.closing hn (s := closeChannel n s) ho hchannel)
  rw [closeClient_eq]
  split
  · next hz => exact law.closed hn hz.2 hdrained
  · exact hdrained

theorem BodyLaw.of_tableEffect {c : ClientId} (h : TableEffect c s u) (hs : P s) : P u := by
  cases h with
  | reserve w h hp hr hf => exact law.reserve hp hr hf hs
  | stage w hd st hh _ he => exact law.stage hh he hs
  | retire w => exact law.free w hs
  | enqueue => exact law.toStageLaw.toRecordLaw.setHead hs
  | apply h => exact law.toStageLaw.toRecordLaw.applyClients h [c] hs
  | openClient n _ _ _ _ hn hc => exact law.openClient hn hc hs
  | closeClient n _ hn ho => exact law.closeClient hn ho hs
  | setAperture n ap _ hn ho hf => exact law.setAperture hn ho hf hs
  | setHeads n _ _ hn ho => exact law.setHeads hn ho hs

/-- Such a law is kept by every effect of a step. -/
theorem BodyLaw.of_effect (h : StepEffect s u) (hs : P s) : P u :=
  law.toStageLaw.toRecordLaw.tableLaw.of_effect law.reset law.of_tableEffect h hs

/-- Such a law is kept by every step. -/
theorem BodyLaw.of_step (hs : P s) (h : step s = .next u) : P u :=
  law.toStageLaw.toRecordLaw.tableLaw.of_step law.reset law.of_tableEffect hs h
end

end Sys2Proof.Machine
end

section
/-! The laws that `BodyLaw` carries over every step: client 0's record (R137), held counts (R18, R136), apertures and image
ranges (R7, 1.1.1), and notice records of tenants (R151). -/

namespace Sys2Proof.Machine

/-! ### What staging, freeing and closing make of a record -/

section
variable {s : State}

/-- R25: the two things that writing a staged image back can do. -/
theorem setStaged_cases {w : WindowId} {hd : Held} (st : Staged) (hheld : (s.window w).life.held? = some hd) :
    (∃ l : Life, setStaged w st s = s.setWindow w { s.window w with life := l } ∧
      l.held? = some { hd with staged := st } ∧ l.liveImage? = (s.window w).life.liveImage?) ∨
    setStaged w st s = s := by
  cases hl : (s.window w).life with
  | free => rw [hl] at hheld; cases hheld
  | reserved hd' =>
    rw [hl] at hheld
    cases hheld
    exact .inl ⟨.reserved { hd with staged := st }, by simp only [setStaged, hl], rfl, rfl⟩
  | live hd' img f =>
    rw [hl] at hheld
    cases hheld
    exact .inl ⟨.live { hd with staged := st } img f, by simp only [setStaged, hl], rfl, rfl⟩
  | retiring hd' img f => exact .inr (by simp only [setStaged, hl])

theorem LifeStep.owner? {v v' : Window} (h : LifeStep v.life v'.life) : v'.owner? = v.owner? := by
  rw [Window.owner?, Window.owner?, h.held?]

/-- R36: a live image after an event was live before it, or staged. -/
theorem LifeStep.liveImage? {l l' : Life} (h : LifeStep l l') {img : Image} (himg : l'.liveImage? = some img) :
    l.liveImage? = some img ∨ ∃ hd, l.held? = some hd ∧ img = hd.staged.image := by
  cases h with
  | same => exact .inl himg
  | fault l address => cases l <;> exact .inl himg
  | taken held => exact .inr ⟨_, held, (Option.some.inj himg).symm⟩
  | retired => exact .inl himg

/-- R11, R144: a client's record after its held count has fallen, unless it is CLOSED. -/
theorem dropHeld_client_kept {c x : ClientId} (hx : ((dropHeld c s).client x).state ≠ .closed) :
    ∃ n, (dropHeld c s).client x = { s.client x with held := n } := by
  by_cases hcx : c = x
  · subst hcx
    rcases dropHeld_cases s c with ⟨-, -, e⟩ | ⟨-, e⟩
    · rw [e, enterClosed_client, if_pos rfl] at hx
      exact absurd rfl hx
    · exact ⟨_, by rw [e, State.client_setClient_self]⟩
  · exact ⟨(s.client x).held, by rw [dropHeld_client_of_ne s c hcx]⟩

theorem freeWindow_client_kept {w : WindowId} {x : ClientId} (hx : ((freeWindow w s).client x).state ≠ .closed) :
    ∃ n, (freeWindow w s).client x = { s.client x with held := n } := by
  rcases freeWindow_cases s w with ⟨-, e⟩ | ⟨hd, -, e⟩ | ⟨hd, -, -, e⟩ <;> rw [e] at hx ⊢
  · exact ⟨(s.client x).held, rfl⟩
  · exact dropHeld_client_kept hx
  · exact dropHeld_client_kept hx

/-- R11: a window of the table after an entry to FREE is the window it was, or FREE. -/
theorem freeWindow_held? {w x : WindowId} {hd : Held} (h : ((freeWindow w s).window x).life.held? = some hd) :
    (freeWindow w s).window x = s.window x := by
  rw [freeWindow_window] at h ⊢
  split
  · next e => rw [if_pos e] at h; cases h
  · rfl

/-- R152, R144: the notice records of tenants after a fall of the held count hold no kind they did not hold. -/
theorem dropHeld_notice_of_tenant {c x : ClientId} (hx : x ≠ 0) :
    (dropHeld c s).notice x = s.notice x ∨ (dropHeld c s).notice x = NoticeRecord.cleared := by
  rcases dropHeld_cases s c with ⟨-, -, e⟩ | ⟨-, e⟩ <;> rw [e]
  · rw [enterClosed_notice, if_neg hx]
    split
    · exact .inr rfl
    · exact .inl rfl
  · exact .inl rfl
end

/-! ### Client 0 (R137) -/

section
variable {s u : State}

/-- The law speaks of one record only, and not of its held count. -/
theorem SupervisorLaw.of_client (hs : SupervisorLaw s) {n : Nat} (hu : u.client 0 = { s.client 0 with held := n }) :
    SupervisorLaw u := by
  unfold SupervisorLaw at hs ⊢
  rw [hu, hs]

theorem SupervisorLaw.of_client_eq (hs : SupervisorLaw s) (hu : u.client 0 = s.client 0) : SupervisorLaw u :=
  hs.of_client (n := (s.client 0).held) hu

theorem SupervisorLaw.opened (hs : SupervisorLaw s) : (s.client 0).state = .opened := by
  rw [hs]
  rfl

theorem SupervisorLaw.dropHeld (hs : SupervisorLaw s) (c : ClientId) : SupervisorLaw (dropHeld c s) := by
  by_cases hc : c = 0
  · subst hc
    rcases dropHeld_cases s 0 with ⟨hclosing, -, -⟩ | ⟨-, e⟩
    · rw [hs.opened] at hclosing
      cases hclosing
    · exact hs.of_client (by rw [e, State.client_setClient_self])
  · exact hs.of_client_eq (dropHeld_client_of_ne s c hc)

theorem SupervisorLaw.setTenant (hs : SupervisorLaw s) {n : ClientId} (hn : n ≠ 0) (k : Client) :
    SupervisorLaw (s.setClient n k) := hs.of_client_eq (State.client_setClient_of_ne s hn k)

theorem supervisorLaw_bodyLaw : BodyLaw SupervisorLaw where
  congr hs _ hc _ := hs.of_client_eq (hc 0)
  setNotice _ hs := hs.of_client_eq rfl
  rewindow _ hs := hs.of_client_eq rfl
  free {s} w hs := by
    have drop {v : State} (hv : v.client 0 = s.client 0) (c : ClientId) : SupervisorLaw (dropHeld c v) :=
      SupervisorLaw.dropHeld (hs.of_client_eq hv) c
    rcases freeWindow_cases s w with ⟨-, e⟩ | ⟨hd, -, e⟩ | ⟨hd, -, -, e⟩ <;> rw [e]
    · exact hs
    · refine drop ?_ _
      rfl
    · refine drop ?_ _
      rfl
  reset := by
    unfold SupervisorLaw
    rw [State.reset_client, if_pos rfl]
  reserve {s w c h} _ _ _ hs := by
    by_cases hc : c = 0
    · subst hc
      exact hs.of_client (by rw [reserveWindow]; exact State.client_setClient_self _ _ _)
    · exact hs.of_client_eq (by rw [reserveWindow]; exact State.client_setClient_of_ne _ hc _)
  stage {s w hd st} hheld _ hs := by
    rcases setStaged_cases st hheld with ⟨l, e, -, -⟩ | e <;> rw [e]
    · exact hs.of_client_eq rfl
    · exact hs
  openClient hn _ hs := hs.of_client_eq (State.client_setClient_of_ne _ hn _)
  closing hn _ hs := hs.setTenant hn _
  closed {s n} hn _ hs := hs.of_client_eq (by rw [enterClosed_client, if_neg hn])
  setAperture hn _ _ hs := hs.setTenant hn _
  setHeads hn _ hs := hs.setTenant hn _
end

/-! ### Held counts (R18, R136) -/

section
variable {s u : State}

/-- A record is as R18 and R136 say, for a client that holds `n` windows. -/
def Client.Counts (k : Client) (n : Nat) : Prop := k.held = n ∧ k.held ≤ k.quota ∧ (k.state = .closed → k = Client.closedRecord)

/-- The record of one client changes, its windows do not. -/
theorem HeldLaw.setClient (hs : HeldLaw s) {n : ClientId} {k : Client} (hk : k.Counts (s.ownedBy n).length) :
    HeldLaw (s.setClient n k) := by
  intro c
  show ((s.setClient n k).client c).Counts (s.ownedBy c).length
  rw [State.client_setClient]
  split
  · next e => subst e; exact hk
  · exact hs c

/-- A client without windows may become CLOSED. -/
theorem HeldLaw.enterClosed (hs : HeldLaw s) {n : ClientId} (hn : (s.client n).held = 0) : HeldLaw (enterClosed n s) := by
  obtain ⟨hheld, -, -⟩ := hs n
  have hset : HeldLaw (s.setClient n Client.closedRecord) :=
    hs.setClient ⟨by rw [← hheld, hn]; rfl, Nat.le_refl _, fun _ => rfl⟩
  exact hset.of_owners (fun _ => rfl) fun _ => rfl

theorem HeldLaw.closed_held (hs : HeldLaw s) {n : ClientId} (hn : (s.client n).state = .closed) :
    (s.ownedBy n).length = 0 := by
  obtain ⟨hheld, -, hrecord⟩ := hs n
  rw [← hheld, hrecord hn]
  rfl

/-- R9: the reserving client holds one window more. -/
theorem HeldLaw.reserveWindow (hs : HeldLaw s) {w : WindowId} {c : ClientId} {h : HeadId}
    (hroom : (s.client c).held ≠ (s.client c).quota) (hfree : (s.window w).life = .free) :
    HeldLaw (Machine.reserveWindow w c h s) := by
  have howner (x : WindowId) :
      ((Machine.reserveWindow w c h s).window x).owner? = if w = x then some c else (s.window x).owner? := by
    rw [Machine.reserveWindow, State.window_setClient, State.window_setWindow]
    split <;> rfl
  have hbefore (x : WindowId) :
      (s.window x).owner? = if w = x then none else ((Machine.reserveWindow w c h s).window x).owner? := by
    rw [howner]
    split
    · next e => subst e; rw [Window.owner?, hfree]; rfl
    · rfl
  intro y
  have herase := ownedBy_erase hbefore y
  obtain ⟨hheld, hquota, hrecord⟩ := hs y
  by_cases hy : c = y
  · subst hy
    have hmem : w ∈ (Machine.reserveWindow w c h s).ownedBy c := State.mem_ownedBy.mpr (by rw [howner, if_pos rfl])
    have hlength := List.length_erase_of_mem hmem
    have hpos := List.length_pos_of_mem hmem
    have hclient : (Machine.reserveWindow w c h s).client c = { s.client c with held := (s.client c).held + 1 } := by
      rw [Machine.reserveWindow, State.client_setClient_self]
      rfl
    rw [hclient]
    refine ⟨?_, ?_, fun hclosed => ?_⟩
    · show (s.client c).held + 1 = _
      rw [hheld, herase, hlength]
      omega
    · show (s.client c).held + 1 ≤ (s.client c).quota
      omega
    · rw [hrecord hclosed] at hroom
      exact absurd rfl hroom
  · have hmem : w ∉ (Machine.reserveWindow w c h s).ownedBy y := fun hmem => by
      rw [State.mem_ownedBy, howner, if_pos rfl] at hmem
      exact hy (Option.some.inj hmem)
    have hclient : (Machine.reserveWindow w c h s).client y = s.client y := by
      rw [Machine.reserveWindow, State.client_setClient_of_ne _ hy]
      rfl
    rw [hclient, ← List.erase_of_not_mem hmem, ← herase]
    exact ⟨hheld, hquota, hrecord⟩

theorem HeldLaw.setStaged (hs : HeldLaw s) {w : WindowId} {hd : Held} {st : Staged}
    (hheld : (s.window w).life.held? = some hd) : HeldLaw (setStaged w st s) := by
  rcases setStaged_cases st hheld with ⟨l, e, hl, -⟩ | e <;> rw [e]
  · refine hs.of_owners (fun _ => rfl) fun x => ?_
    rw [State.window_setWindow]
    split
    · next e => subst e; rw [Window.owner?, Window.owner?, hl, hheld]; rfl
    · rfl
  · exact hs

theorem heldLaw_bodyLaw : BodyLaw HeldLaw where
  congr hs hw hc _ := hs.of_owners hc fun w => by rw [hw]
  setNotice _ hs := hs.of_owners (fun _ => rfl) fun _ => rfl
  rewindow hv hs := hs.of_owners (fun _ => rfl) fun x => by
    rw [State.window_setWindow]
    split
    · next e => subst e; exact hv.owner?
    · rfl
  free w hs := hs.freeWindow w
  reset c := by
    have howned : State.reset.ownedBy c = [] := List.filter_eq_nil_iff.mpr fun w _ => by
      rw [State.reset_window]
      simp [Window.owner?, Life.held?]
    rw [howned, State.reset_client]
    split
    · exact ⟨rfl, by decide, fun h => nomatch h⟩
    · exact ⟨rfl, Nat.le_refl _, fun _ => rfl⟩
  reserve _ hroom hfree hs := hs.reserveWindow hroom hfree
  stage hheld _ hs := hs.setStaged hheld
  openClient {s n quota ap heads} _ hclosed hs := by
    have hset : HeldLaw (s.setClient n ⟨.opened, quota, 0, some ap, heads⟩) :=
      hs.setClient ⟨(hs.closed_held hclosed).symm, Nat.zero_le _, fun h => nomatch h⟩
    exact hset.of_owners (fun _ => rfl) fun _ => rfl
  closing {s n} _ _ hs := hs.setClient ⟨(hs n).1, (hs n).2.1, fun h => nomatch h⟩
  closed _ hheld hs := hs.enterClosed hheld
  setAperture {s n ap} _ ho _ hs := hs.setClient ⟨(hs n).1, (hs n).2.1, fun h => nomatch ho.symm.trans h⟩
  setHeads {s n heads} _ ho hs := hs.setClient ⟨(hs n).1, (hs n).2.1, fun h => nomatch ho.symm.trans h⟩
end

/-- Settles O52: held counts change with the windows. -/
theorem stepKeepsHeldCounts : Obligations.StepKeepsHeldCounts := fun _ _ hs h => heldLaw_bodyLaw.of_step hs h

/-! ### Laws about the images of every window (R7, 1.1.1) -/

/-- The staged image of a window and its live image, if it has one, have a property. -/
def Life.BothImages (Q : Image → Prop) (l : Life) : Prop :=
  ∀ hd, l.held? = some hd → Q hd.staged.image ∧ ∀ img, l.liveImage? = some img → Q img

theorem LifeStep.bothImages {Q : Image → Prop} {l l' : Life} (h : LifeStep l l') (hl : l.BothImages Q) :
    l'.BothImages Q := by
  intro hd hheld
  rw [h.held?] at hheld
  obtain ⟨hstaged, hlive⟩ := hl hd hheld
  refine ⟨hstaged, fun img himg => ?_⟩
  rcases h.liveImage? himg with hi | ⟨hd', hh, rfl⟩
  · exact hlive img hi
  · rw [hheld] at hh
    cases hh
    exact hstaged

theorem Life.bothImages_free (Q : Image → Prop) : Life.BothImages Q .free := fun _ h => nomatch h

/-- 1.1.1, R26, R27: the ranges of an image. -/
def Image.Lawful (img : Image) : Prop := img.inRange ∧ img.pitchFits

section
variable {s u : State}

/-- One window changes. -/
theorem ImageLaw.setWindow (hs : ImageLaw s) {w : WindowId} {v : Window}
    (hv : v.life.BothImages Image.Lawful) : ImageLaw (s.setWindow w v) := by
  intro x
  rw [State.window_setWindow]
  split
  · exact hv
  · exact hs x

theorem ImageLaw.of_windows (hs : ImageLaw s) (hw : ∀ w, u.window w = s.window w) : ImageLaw u := fun w => by
  rw [hw]
  exact hs w

/-- R2: the image of a window just RESERVED is in range. -/
theorem fresh_lawful : Staged.fresh.image.Lawful := by
  refine ⟨⟨by decide, ?_, ?_, ?_⟩, ?_⟩ <;> intro _ <;> simp [Staged.fresh]

theorem imageLaw_bodyLaw : BodyLaw ImageLaw where
  congr hs hw _ _ := hs.of_windows hw
  setNotice _ hs := hs.of_windows fun _ => rfl
  rewindow {s w _} hv hs := hs.setWindow (hv.bothImages (hs w))
  free {s} w hs := fun x => by
    rw [freeWindow_window]
    split
    · exact Life.bothImages_free Image.Lawful
    · exact hs x
  reset w := by
    rw [State.reset_window]
    exact Life.bothImages_free Image.Lawful
  reserve {s w c h} _ _ _ hs := by
    have hset : ImageLaw (s.setWindow w { s.window w with life := .reserved ⟨c, h, Staged.fresh⟩ }) :=
      hs.setWindow fun hd hheld => ⟨by cases hheld; exact fresh_lawful, fun _ himg => nomatch himg⟩
    exact hset.of_windows fun _ => rfl
  stage {s w hd st} hheld hedit hs := by
    rcases setStaged_cases st hheld with ⟨l, e, hl, hlive⟩ | e <;> rw [e]
    · obtain ⟨hstaged, himages⟩ := hs w hd hheld
      refine hs.setWindow fun hd' hheld' => ⟨?_, fun img himg => himages img (hlive ▸ himg)⟩
      rw [hl] at hheld'
      cases hheld'
      exact hedit.inRange hstaged
    · exact hs
  openClient _ _ hs := hs.of_windows fun _ => rfl
  closing _ _ hs := hs.of_windows fun _ => rfl
  closed _ _ hs := hs.of_windows fun _ => rfl
  setAperture _ _ _ hs := hs.of_windows fun _ => rfl
  setHeads _ _ hs := hs.of_windows fun _ => rfl

/-! ### Apertures (R7), with held counts right (R18) -/

/-- R7: the images of a window fit the aperture of its owner in `s`. -/
def Life.FitsIn (s : State) (l : Life) : Prop :=
  ∀ hd, l.held? = some hd → l.BothImages fun img => img.fits (s.client hd.owner).aperture = true

theorem apertureLaw_iff : ApertureLaw s ↔ ∀ w, (s.window w).life.FitsIn s :=
  ⟨fun hs w hd hheld hd' hheld' => by
      rw [hheld] at hheld'
      cases hheld'
      exact hs w hd hheld,
    fun hs w hd hheld => hs w hd hheld hd hheld⟩

theorem ApertureLaw.fitsIn (hs : ApertureLaw s) (w : WindowId) : (s.window w).life.FitsIn s := apertureLaw_iff.mp hs w

/-- The apertures of the owners of windows are the same, and every window that has changed fits. -/
theorem ApertureLaw.of_owners (hs : ApertureLaw s)
    (hu : ∀ w hd, (u.window w).life.held? = some hd → (u.client hd.owner).aperture = (s.client hd.owner).aperture)
    (hw : ∀ w, u.window w = s.window w ∨ (u.window w).life.FitsIn s) : ApertureLaw u := by
  intro w hd hheld
  rw [hu w hd hheld]
  rcases hw w with e | hfits
  · rw [e] at hheld ⊢
    exact hs w hd hheld
  · exact hfits hd hheld hd hheld

theorem ApertureLaw.of_windows (hs : ApertureLaw s) (hc : ∀ c, (u.client c).aperture = (s.client c).aperture)
    (hw : ∀ w, u.window w = s.window w) : ApertureLaw u := hs.of_owners (fun _ _ _ => hc _) fun w => .inl (hw w)

theorem LifeStep.fitsIn {l l' : Life} (h : LifeStep l l') (hl : l.FitsIn s) : l'.FitsIn s := fun hd hheld =>
  h.bothImages (hl hd (h.held? ▸ hheld))

/-- A window after `setWindow` is the window it was, or the one written. -/
theorem window_setWindow_same_or {Q : Life → Prop} {w : WindowId} {v : Window} (hv : Q v.life) (x : WindowId) :
    (s.setWindow w v).window x = s.window x ∨ Q ((s.setWindow w v).window x).life := by
  rw [State.window_setWindow]
  split
  · exact .inr hv
  · exact .inl rfl

/-- R136: an owner of a window keeps its aperture when another client's record changes; so does every owner when the one
whose record changes has no windows. -/
theorem ApertureLaw.withoutWindows (hs : ApertureLaw s) {n : ClientId} (hn : ∀ w, (s.window w).owner? ≠ some n)
    (hc : ∀ c, c ≠ n → u.client c = s.client c) (hw : ∀ w, u.window w = s.window w) : ApertureLaw u := by
  refine hs.of_owners (fun w hd hheld => ?_) fun w => .inl (hw w)
  rw [hw] at hheld
  rw [hc]
  rintro rfl
  exact hn w (by rw [Window.owner?, hheld]; rfl)

theorem HeldLaw.no_windows (hs : HeldLaw s) {n : ClientId} (hn : (s.client n).held = 0) (w : WindowId) :
    (s.window w).owner? ≠ some n := fun hw => by
  have hpos : 0 < (s.ownedBy n).length := List.length_pos_of_mem (State.mem_ownedBy.mpr hw)
  rw [← (hs n).1, hn] at hpos
  exact Nat.lt_irrefl 0 hpos

/-- R146: the windows of client `n` fit the aperture that SET_APERTURE gives it. -/
theorem fits_of_windowsFit {n : ClientId} {ap : Aperture} (hf : s.windowsFit n ap = true) {w : WindowId} {hd : Held}
    (hheld : (s.window w).life.held? = some hd) (hown : hd.owner = n) :
    (s.window w).life.BothImages fun img => img.fits (some ap) = true := by
  have hw := List.all_eq_true.mp hf w (List.mem_finRange w)
  have howner : (s.window w).owner? = some n := by rw [Window.owner?, hheld, ← hown]; rfl
  have hfits : (s.window w).fits ap = true := by simpa [howner] using hw
  obtain ⟨hstaged, hlive⟩ := Bool.and_eq_true_iff.mp hfits
  rw [hheld] at hstaged
  intro hd' hheld'
  rw [hheld] at hheld'
  cases hheld'
  refine ⟨hstaged, fun img himg => ?_⟩
  rw [himg] at hlive
  exact hlive

theorem ApertureLaw.setAperture (hs : ApertureLaw s) {n : ClientId} {ap : Aperture} (hf : s.windowsFit n ap = true) :
    ApertureLaw (s.setClient n { s.client n with aperture := some ap }) := by
  intro w hd hheld
  rw [State.client_setClient]
  split
  · next e => exact fits_of_windowsFit hf hheld e.symm hd hheld
  · exact hs w hd hheld

/-- R144: an owner of a window is not CLOSED, so the entry to FREE of another window leaves its aperture. -/
theorem ApertureLaw.freeWindow (hs : ApertureLaw s) (hheld : HeldLaw s) (w : WindowId) :
    ApertureLaw (freeWindow w s) := by
  intro x hd hx
  have hne := (hheld.freeWindow w).not_closed (c := hd.owner) (by rw [Window.owner?, hx]; rfl)
  obtain ⟨n, e⟩ := freeWindow_client_kept hne
  have hsame := freeWindow_held? hx
  rw [e, hsame]
  rw [hsame] at hx
  exact hs x hd hx

theorem ApertureLaw.setStaged (hs : ApertureLaw s) {w : WindowId} {hd : Held} {st : Staged}
    (hheld : (s.window w).life.held? = some hd) (hedit : EditsStaged s hd st) : ApertureLaw (setStaged w st s) := by
  rcases setStaged_cases st hheld with ⟨l, e, hl, hlive⟩ | e <;> rw [e]
  · refine hs.of_owners (fun _ _ _ => rfl) (window_setWindow_same_or fun hd' hh' => ?_)
    obtain ⟨hstaged, himages⟩ := hs w hd hheld
    rw [hl] at hh'
    cases hh'
    intro hd' hh'
    rw [hl] at hh'
    cases hh'
    exact ⟨hedit.fits hstaged, fun img himg => himages img (hlive ▸ himg)⟩
  · exact hs

/-- R2: a window just RESERVED has no extent. -/
theorem reserved_fitsIn (s : State) (c : ClientId) (h : HeadId) : Life.FitsIn s (.reserved ⟨c, h, Staged.fresh⟩) := by
  intro _ _ hd hheld
  cases hheld
  exact ⟨rfl, fun _ himg => nomatch himg⟩

/-- R7 with what its preservation rests on. -/
def ApertureAndHeldLaw (s : State) : Prop := ApertureLaw s ∧ HeldLaw s

theorem apertureLaw_bodyLaw : BodyLaw ApertureAndHeldLaw where
  congr hs hw hc hn := ⟨hs.1.of_windows (fun c => by rw [hc]) hw, heldLaw_bodyLaw.congr hs.2 hw hc hn⟩
  setNotice hr hs := ⟨hs.1.of_windows (fun _ => rfl) fun _ => rfl, heldLaw_bodyLaw.setNotice hr hs.2⟩
  rewindow {s w _} hv hs :=
    ⟨hs.1.of_owners (fun _ _ _ => rfl) (window_setWindow_same_or (hv.fitsIn (hs.1.fitsIn w))),
      heldLaw_bodyLaw.rewindow hv hs.2⟩
  free w hs := ⟨hs.1.freeWindow hs.2 w, hs.2.freeWindow w⟩
  reset := ⟨fun w _ hheld => (by rw [State.reset_window] at hheld; cases hheld), heldLaw_bodyLaw.reset⟩
  reserve {s w c h} hp hroom hfree hs := by
    have hset : ApertureLaw (s.setWindow w { s.window w with life := .reserved ⟨c, h, Staged.fresh⟩ }) :=
      hs.1.of_owners (fun _ _ _ => rfl) (window_setWindow_same_or (reserved_fitsIn s c h))
    refine ⟨hset.of_windows (fun y => ?_) fun _ => rfl, hs.2.reserveWindow hroom hfree⟩
    rw [reserveWindow, State.client_setClient]
    split
    · next e => subst e; rfl
    · rfl
  stage hheld hedit hs := ⟨hs.1.setStaged hheld hedit, hs.2.setStaged hheld⟩
  openClient {s n quota ap heads} hn hclosed hs :=
    ⟨hs.1.withoutWindows (fun _ hw => hs.2.not_closed hw hclosed)
      (fun c hc => State.client_setClient_of_ne s (Ne.symm hc) _) fun _ => rfl,
      heldLaw_bodyLaw.openClient hn hclosed hs.2⟩
  closing {s n} hn ho hs := by
    refine ⟨hs.1.of_windows (fun c => ?_) fun _ => rfl, heldLaw_bodyLaw.closing hn ho hs.2⟩
    rw [closingOf, State.client_setClient]
    split
    · next e => subst e; rfl
    · rfl
  closed {s n} _ hheld hs :=
    ⟨hs.1.withoutWindows (hs.2.no_windows hheld) (fun c hc => by rw [enterClosed_client, if_neg (Ne.symm hc)])
      fun _ => rfl, hs.2.enterClosed hheld⟩
  setAperture hn ho hf hs := ⟨hs.1.setAperture hf, heldLaw_bodyLaw.setAperture hn ho hf hs.2⟩
  setHeads {s n heads} hn ho hs := by
    refine ⟨hs.1.of_windows (fun c => ?_) fun _ => rfl, heldLaw_bodyLaw.setHeads hn ho hs.2⟩
    rw [State.client_setClient]
    split
    · next e => subst e; rfl
    · rfl
end

/-- Settles O55: every edit passes the extent check (R7), and an apply copies a staged image that has passed it. -/
theorem stepKeepsImagesInApertures : Obligations.StepKeepsImagesInApertures :=
  ⟨fun _ _ hs hheld h => (apertureLaw_bodyLaw.of_step ⟨hs, hheld⟩ h).1, fun _ _ hs h => imageLaw_bodyLaw.of_step hs h⟩

/-! ### Notice records of tenants (R151) -/

section
variable {s u : State}

theorem cleared_noSupervisorKind : NoticeRecord.cleared.noSupervisorKind := ⟨rfl, rfl, rfl, rfl, rfl⟩

theorem TenantNoticeLaw.of_notices (hs : TenantNoticeLaw s)
    (hu : ∀ c, c ≠ 0 → u.notice c = s.notice c ∨ u.notice c = NoticeRecord.cleared) : TenantNoticeLaw u := by
  intro c hc
  rcases hu c hc with e | e <;> rw [e]
  · exact hs c hc
  · exact cleared_noSupervisorKind

theorem TenantNoticeLaw.setNotice (hs : TenantNoticeLaw s) {c : ClientId} {r : NoticeRecord}
    (hr : c ≠ 0 → (s.notice c).noSupervisorKind → r.noSupervisorKind) : TenantNoticeLaw (s.setNotice c r) := by
  intro x hx
  rw [State.notice_setNotice]
  split
  · next e => subst e; exact hr hx (hs _ hx)
  · exact hs x hx

theorem TenantNoticeLaw.dropHeld (hs : TenantNoticeLaw s) (c : ClientId) : TenantNoticeLaw (dropHeld c s) :=
  hs.of_notices fun _ hx => dropHeld_notice_of_tenant hx

theorem tenantNoticeLaw_bodyLaw : BodyLaw TenantNoticeLaw where
  congr hs _ _ hn := hs.of_notices fun c _ => .inl (hn c)
  setNotice hr hs := hs.setNotice hr
  rewindow _ hs := hs
  free {s} w hs := by
    rcases freeWindow_cases s w with ⟨-, e⟩ | ⟨hd, -, e⟩ | ⟨hd, -, -, e⟩ <;> rw [e]
    · exact hs
    · exact TenantNoticeLaw.dropHeld (s := s.setWindow w _) hs _
    · exact TenantNoticeLaw.dropHeld (TenantNoticeLaw.setNotice (s := s.setWindow w _) hs fun _ hr =>
        NoticeRecord.noSupervisorKind_set (n := .retired w) trivial hr) _
  reset c _ := by
    rw [State.reset_notice]
    exact cleared_noSupervisorKind
  reserve _ _ _ hs := hs
  stage {s w hd st} hheld _ hs := by
    rcases setStaged_cases st hheld with ⟨l, e, -, -⟩ | e <;> rw [e] <;> exact hs
  openClient {s n quota ap heads} _ _ hs :=
    TenantNoticeLaw.setNotice (s := (s.setClient n _).setChannel n _) hs fun _ _ => cleared_noSupervisorKind
  closing _ _ hs := hs
  closed {s n} _ _ hs := hs.of_notices fun x hx => by
    rw [enterClosed_notice, if_neg hx]
    split
    · exact .inr rfl
    · exact .inl rfl
  setAperture _ _ _ hs := hs
  setHeads _ _ hs := hs
end

end Sys2Proof.Machine
end

section
/-! The channels over a step (R137, R161, R168): FIFO limits, and a channel CLOSED exactly while its client is not OPEN. -/

namespace Sys2Proof.Machine

/-! ### Which clients are OPEN -/

/-- The same clients are OPEN. -/
def OpenedKept (s u : State) : Prop := ∀ c, (u.client c).state = .opened ↔ (s.client c).state = .opened

section
variable {s u v : State}

theorem OpenedKept.refl (s : State) : OpenedKept s s := fun _ => Iff.rfl

theorem OpenedKept.trans (a : OpenedKept s u) (b : OpenedKept u v) : OpenedKept s v := fun c => (b c).trans (a c)

theorem OpenedKept.of_state (h : ∀ c, (u.client c).state = (s.client c).state) : OpenedKept s u := fun c => by rw [h]

/-- A client's record changes, its state does not. -/
theorem setClient_openedKept {c : ClientId} {k : Client} (hk : k.state = (s.client c).state) :
    OpenedKept s (s.setClient c k) := .of_state fun x => by
  rw [State.client_setClient]
  split
  · next e => subst e; exact hk
  · rfl

/-- R144: a client that becomes CLOSED was not OPEN. -/
theorem enterClosed_openedKept {c : ClientId} (hc : (s.client c).state ≠ .opened) : OpenedKept s (enterClosed c s) := by
  intro x
  rw [enterClosed_client]
  split
  · next e => subst e; exact ⟨fun h => (nomatch h), fun h => absurd h hc⟩
  · exact Iff.rfl

theorem dropHeld_openedKept (c : ClientId) (s : State) : OpenedKept s (dropHeld c s) := by
  have hset : OpenedKept s (s.setClient c { s.client c with held := (s.client c).held - 1 }) := setClient_openedKept rfl
  rcases dropHeld_cases s c with ⟨hclosing, -, e⟩ | ⟨-, e⟩ <;> rw [e]
  · refine hset.trans (enterClosed_openedKept ?_)
    rw [State.client_setClient_self]
    exact fun h => nomatch hclosing.symm.trans h
  · exact hset

theorem freeWindow_openedKept (w : WindowId) (s : State) : OpenedKept s (freeWindow w s) := by
  have drop {v : State} (hv : OpenedKept s v) (c : ClientId) : OpenedKept s (dropHeld c v) :=
    hv.trans (dropHeld_openedKept c v)
  rcases freeWindow_cases s w with ⟨-, e⟩ | ⟨hd, -, e⟩ | ⟨hd, -, -, e⟩ <;> rw [e]
  · exact .refl s
  · refine drop ?_ _
    exact .refl s
  · refine drop ?_ _
    exact .refl s

/-- The events and the edits of windows open no client and close no OPEN one. -/
theorem openedKept_stageLaw (s : State) : StageLaw (OpenedKept s) where
  congr hs _ hc _ := hs.trans (.of_state fun c => by rw [hc])
  setNotice _ hs := hs
  rewindow _ hs := hs
  free w hs := hs.trans (freeWindow_openedKept w _)
  stage {v w hd st} hheld _ hs := by
    rcases setStaged_cases st hheld with ⟨l, e, -, -⟩ | e <;> rw [e] <;> exact hs

theorem drainWindows_openedKept (n : ClientId) (s : State) : OpenedKept s (drainWindows n s) :=
  (openedKept_stageLaw s).drainWindows n (.refl s)

/-- R142: the clients that are OPEN after CLOSE_CLIENT of client `n`. -/
theorem closeClient_opened (n : ClientId) (s : State) (c : ClientId) :
    ((closeClient n s).client c).state = .opened ↔ c ≠ n ∧ (s.client c).state = .opened := by
  have hclosing : ((closingOf n (closeChannel n s)).client c).state = .opened ↔ c ≠ n ∧ (s.client c).state = .opened := by
    rw [closingOf, State.client_setClient]
    split
    · next e => exact ⟨fun h => (nomatch h), fun h => absurd e.symm h.1⟩
    · next e => exact ⟨fun h => ⟨Ne.symm e, h⟩, And.right⟩
  have hdrained := (drainWindows_openedKept n (closingOf n (closeChannel n s)) c).trans hclosing
  rw [closeClient_eq]
  split
  · next hz => exact (enterClosed_openedKept (fun h => nomatch hz.1.symm.trans h) c).trans hdrained
  · exact hdrained
end

/-! ### Channels -/

/-- R161: what `ChannelLaw` says of one channel. -/
def Channel.Lawful (ch : Channel) (opened : Prop) : Prop :=
  ch.commands.length ≤ fifoDepth ∧ ch.responses.length ≤ fifoDepth ∧ (ch.state = .closed ↔ ¬ opened) ∧
    (ch.state = .closed → ch.commands = [])

section
variable {s u : State}

theorem channelLaw_iff : ChannelLaw s ↔ ∀ c, (s.channel c).Lawful ((s.client c).state = .opened) := Iff.rfl

theorem Channel.Lawful.congr {ch : Channel} {p q : Prop} (h : ch.Lawful p) (hpq : q ↔ p) : ch.Lawful q := by
  rw [Channel.Lawful, hpq]
  exact h

theorem ChannelLaw.of_same (hs : ChannelLaw s) (hch : ∀ c, u.channel c = s.channel c) (ho : OpenedKept s u) :
    ChannelLaw u := fun c => by
  rw [hch]
  exact Channel.Lawful.congr (hs c) (ho c)

theorem ChannelLaw.outside (hs : ChannelLaw s) (hch : KeepsOutside s u) (ho : OpenedKept s u) : ChannelLaw u :=
  hs.of_same hch.channel ho

theorem ChannelLaw.setChannel (hs : ChannelLaw s) {c : ClientId} {ch : Channel}
    (h : ch.Lawful ((s.client c).state = .opened)) : ChannelLaw (s.setChannel c ch) := by
  intro x
  rw [State.channel_setChannel]
  split
  · next e => subst e; exact h
  · exact hs x

/-- R162 to R164: a host access keeps the limits. -/
theorem ChannelAccess.lawful {ch ch' : Channel} (h : ChannelAccess ch ch') {p : Prop} (hch : ch.Lawful p) :
    ch'.Lawful p := by
  obtain ⟨hcommands, hresponses, hstate, hempty⟩ := hch
  have hopen (ho : ch.state = .opened) : p := by
    by_contra hp
    exact nomatch ho.symm.trans (hstate.mpr hp)
  cases h with
  | same => exact ⟨hcommands, hresponses, hstate, hempty⟩
  | word w ho hroom =>
    refine ⟨?_, hresponses, hstate, fun hc => nomatch ho.symm.trans hc⟩
    rw [List.length_append]
    exact hroom
  | overflow ho => exact ⟨hcommands, hresponses, ⟨fun h => (nomatch h), fun h => absurd (hopen ho) h⟩, fun h => nomatch h⟩
  | resync =>
    refine ⟨Nat.zero_le _, hresponses, ?_, fun _ => rfl⟩
    rw [← hstate]
    dsimp only
    split
    · next hl => rw [hl]; simp
    · rfl
  | read w rest ho =>
    refine ⟨hcommands, ?_, hstate, hempty⟩
    rw [ho] at hresponses
    exact Nat.le_of_succ_le hresponses

/-- R167, R170: the words of the message taken leave the command FIFO. -/
theorem ChannelLaw.consume (hs : ChannelLaw s) {t : Taken} (ht : s.nextMessage = some t) :
    ChannelLaw (consume t s) := by
  obtain ⟨hopened, -, hdr, hcommands, -, -, -⟩ := eligible?_eq_some.mp (nextMessage_eligible ht)
  obtain ⟨hlength, hresponses, hstate, -⟩ := hs t.client
  have hrest : t.rest.length ≤ fifoDepth := by
    rw [hcommands, List.length_cons, List.length_append] at hlength
    omega
  have hset : ChannelLaw (s.setChannel t.client { s.channel t.client with commands := t.rest }) :=
    hs.setChannel ⟨hrest, hresponses, hstate, fun hc => nomatch hopened.symm.trans hc⟩
  exact hset

theorem TableEffect.channelLaw {c : ClientId} (h : TableEffect c s u) (hs : ChannelLaw s) : ChannelLaw u := by
  cases h with
  | reserve w h =>
    exact hs.outside ((setWindow_keepsHost s w _).trans (setClient_keepsHost _ c _)).outside (setClient_openedKept rfl)
  | stage w hd st hh _ he =>
    exact hs.outside (setStaged_keepsHost w st s).outside ((openedKept_stageLaw s).stage hh he (.refl s))
  | retire w => exact hs.outside (freeWindow_keepsHost s w).outside (freeWindow_openedKept w s)
  | enqueue h => exact hs.outside (setHead_keepsHost s h _).outside (.refl s)
  | apply h =>
    exact hs.outside (applyClients_keepsHost s h [c]).outside
      ((openedKept_stageLaw s).toRecordLaw.applyClients h [c] (.refl s))
  | openClient n quota ap heads =>
    intro x
    show Channel.Lawful (((s.setClient n _).setChannel n _).channel x) (((s.setClient n _).client x).state = .opened)
    rw [State.channel_setChannel, State.client_setClient]
    split
    · exact ⟨Nat.zero_le _, Nat.zero_le _, ⟨fun h => (nomatch h), fun h => absurd rfl h⟩, fun h => nomatch h⟩
    · exact hs x
  | closeClient n =>
    intro x
    rw [(closeClient_keepsHost n s).outside.channel]
    refine Channel.Lawful.congr ?_ (closeClient_opened n s x)
    rw [closeChannel, State.channel_setChannel]
    split
    · next e =>
      subst e
      exact ⟨Nat.zero_le _, (hs n).2.1, ⟨fun _ h => h.1 rfl, fun _ => rfl⟩, fun _ => rfl⟩
    · next e => exact Channel.Lawful.congr (hs x) ⟨And.right, fun h => ⟨Ne.symm e, h⟩⟩
  | setAperture n => exact hs.outside (setClient_keepsHost s n _).outside (setClient_openedKept rfl)
  | setHeads n => exact hs.outside (setClient_keepsHost s n _).outside (setClient_openedKept rfl)

theorem BodyEffect.channelLaw {c : ClientId} (h : BodyEffect c s u) (hs : ChannelLaw s) : ChannelLaw u := by
  have hlaw := (openedKept_stageLaw s).toRecordLaw.tableLaw
  cases h with
  | answer => exact hs
  | table h => exact h.channelLaw hs
  | setTiming h => exact hs.outside (setHead_keepsHost s h _).outside (.refl s)
  | startHead h => exact hs.outside (setHead_keepsHost s h _).outside (.refl s)
  | stopHead h => exact hs.outside (stopRunning_outside h s) (hlaw.lineLaw.stopRunning (.refl s))
  | reclaim => exact hs.outside (reclaim_keepsHost _ s).outside (hlaw.reclaim _ (.refl s))
  | clearNotices => exact hs.outside (setNotice_keepsHost s c _).outside (.refl s)
  | setMask => exact hs.outside (setNotice_keepsHost s c _).outside (.refl s)

/-- The channel of the client whose message it is stays as it is over the body: CLOSE_CLIENT and OPEN_CLIENT are about
tenants, and only client 0 may give them. -/
theorem BodyEffect.channel_self {c : ClientId} (h : BodyEffect c s u) : u.channel c = s.channel c := by
  rcases h.outside with h | ⟨hc, n, ch, hn, h⟩
  · exact h.channel c
  · rw [h.channel, State.channel_setChannel_of_ne s (hc ▸ hn)]

/-- R168, R173: there is room for a response of at most 8 words. -/
theorem ChannelLaw.respond (hu : ChannelLaw u) {c : ClientId} {m : Message} {r : Reply} (hr : r.results.length ≤ 7)
    (hroom : (u.channel c).responses.length + 8 ≤ 16) : ChannelLaw (respond c m r u) := by
  obtain ⟨hcommands, -, hstate, hempty⟩ := hu c
  refine hu.setChannel ⟨hcommands, ?_, hstate, hempty⟩
  show ((u.channel c).responses ++ responseHeader m r :: r.results).length ≤ 16
  rw [List.length_append, List.length_cons]
  omega

theorem channelLaw_reset : ChannelLaw State.reset := channelLaw_iff.mpr fun c => by
  rw [State.reset_channel, State.reset_client]
  split
  · exact ⟨Nat.zero_le _, Nat.zero_le _, ⟨fun h => (nomatch h), fun h => absurd rfl h⟩, fun _ => rfl⟩
  · exact ⟨Nat.zero_le _, Nat.zero_le _, ⟨fun _ h => (nomatch h), fun _ => rfl⟩, fun _ => rfl⟩

theorem StepEffect.channelLaw (h : StepEffect s u) (hs : ChannelLaw s) : ChannelLaw u := by
  have hlaw := (openedKept_stageLaw s).toRecordLaw.tableLaw
  cases h with
  | idle => exact hs
  | message t v r ht heffect hr =>
    obtain ⟨-, hroom, -⟩ := eligible_spec (nextMessage_eligible ht)
    refine (heffect.channelLaw (hs.consume ht)).respond hr ?_
    rw [heffect.channel_self]
    show ((s.setChannel t.client { s.channel t.client with commands := t.rest }).channel t.client).responses.length +
      8 ≤ 16
    rw [State.channel_setChannel_self]
    exact hroom
  | channel c ch _ haccess =>
    exact (hs.setChannel (haccess.lawful (hs c))).of_same (fun _ => rfl) (.refl _)
  | reset => exact channelLaw_reset.of_same (fun _ => rfl) (.refl State.reset)
  | rise => exact hs.of_same (fun _ => rfl) (.refl s)
  | lineStart h => exact hs.outside (endLine_outside h s) (hlaw.lineLaw.endLine (fun hf => hf.elim) (.refl s))
  | activeStart h =>
    exact hs.outside ((setHead_keepsHost s h _).trans (takeDeadline_keepsHost h _)).outside
      (hlaw.takeDeadline h (OpenedKept.refl s))
  | pixel h => exact hs.outside (setHead_keepsHost s h _).outside (.refl s)
  | mark h => exact hs.outside (setHead_keepsHost s h _).outside (.refl s)
  | issue t r => exact hs.of_same (fun _ => rfl) (.refl s)
  | response t status data =>
    exact hs.outside (respondTag_keepsHost t status data s).outside (hlaw.respondTag t status data (.refl s))
end

/-- Settles O58: a channel changes with its client's state, and a message is taken only when its answer fits. -/
theorem stepKeepsChannelsAndSupervisor : Obligations.StepKeepsChannelsAndSupervisor := fun _ _ hs hsup h =>
  ⟨step_keeps (fun _ _ hs => hs) (fun _ _ hs he => he.channelLaw hs) hs h, supervisorLaw_bodyLaw.of_step hsup h⟩

end Sys2Proof.Machine
end

section
/-! What a step does to the Raster Timer of a head (R49, R58, R60, R70): `TimerStep`; and the laws about timers that every
step keeps. -/

namespace Sys2Proof.Machine

/-! ### Steps that leave the timer -/

/-- The Raster Timer of a head is the same, and EMPTY slots stay EMPTY. -/
structure HeadQuiet (hd v : Head) : Prop where
  counters : v.counters = hd.counters
  empty    : hd.SlotsEmpty → v.SlotsEmpty

/-- The Raster Timers are the same, and a head with EMPTY slots keeps them EMPTY. -/
def TimersKept (s u : State) : Prop := ∀ x, HeadQuiet (s.head x) (u.head x)

theorem HeadQuiet.refl (hd : Head) : HeadQuiet hd hd := ⟨rfl, id⟩

theorem HeadQuiet.trans {a b c : Head} (h : HeadQuiet a b) (k : HeadQuiet b c) : HeadQuiet a c :=
  ⟨k.counters.trans h.counters, fun he => k.empty (h.empty he)⟩

/-- The lists of a head are not its timer's. -/
theorem HeadQuiet.lists (hd : Head) (q : List ClientId) (l : List WindowId) :
    HeadQuiet hd { hd with commitQueue := q, depthList := l } := ⟨rfl, id⟩

theorem HeadQuiet.queue (hd : Head) (q : List ClientId) : HeadQuiet hd { hd with commitQueue := q } := ⟨rfl, id⟩

section
variable {s u v : State}

theorem TimersKept.refl (s : State) : TimersKept s s := fun x => .refl (s.head x)

theorem TimersKept.trans (a : TimersKept s u) (b : TimersKept u v) : TimersKept s v := fun x => (a x).trans (b x)

theorem TimersKept.of_heads (h : ∀ x, u.head x = s.head x) : TimersKept s u := fun x => h x ▸ .refl (s.head x)

theorem SameFetch.timers (h : SameFetch s u) : TimersKept s u := fun x => by
  obtain ⟨q, l, e⟩ := h.heads x
  rw [e]
  exact .lists _ q l

theorem HeadKept.quiet {x : HeadId} (h : HeadKept s u x) : HeadQuiet (s.head x) (u.head x) := by
  rw [h]
  exact .queue _ _

theorem setHead_timersKept {h : HeadId} {hd : Head} (hq : HeadQuiet (s.head h) hd) : TimersKept s (s.setHead h hd) :=
  fun x => by
    rw [State.head_setHead]
    split
    · next e => subst e; exact hq
    · exact .refl _

theorem releaseRef_timersKept (w : WindowId) (s : State) : TimersKept s (releaseRef w s) := fun x => by
  obtain ⟨q, -, e⟩ := releaseRef_head s w x
  rw [e]
  exact .queue _ q

theorem releaseRefs_timersKept (ws : List WindowId) (s : State) : TimersKept s (releaseRefs ws s) := fun x => by
  obtain ⟨q, -, e⟩ := releaseRefs_head s ws x
  rw [e]
  exact .queue _ q

theorem freeTag_timersKept (t : TagNo) (s : State) : TimersKept s (freeTag t s) :=
  releaseRef_timersKept (s.tag t).window (s.setTag t { s.tag t with state := .free })

theorem reclaim_timersKept (ts : List TagNo) (s : State) : TimersKept s (ts.foldl (fun s t => freeTag t s) s) := by
  induction ts generalizing s with
  | nil => exact .refl s
  | cons t ts ih => exact (freeTag_timersKept t s).trans (ih (freeTag t s))

/-- Content put into a slot that is not EMPTY. -/
theorem setSlot_timersKept {h : HeadId} {k : SlotNo} {a : Slot} {p : Option Pos} (hk : (s.head h).slots[k] ≠ .empty) :
    TimersKept s (setSlot h k a p s) := setHead_timersKept ⟨rfl, fun he => absurd (he k) hk⟩

theorem okResponse_timersKept (t : TagNo) (data : List Byte) (s : State) : TimersKept s (okResponse t data s) := by
  unfold okResponse
  simp only []
  refine TimersKept.trans ?_ (freeTag_timersKept t _)
  split
  · next a ha =>
    split
    · exact setSlot_timersKept (by rw [ha]; exact fun h => nomatch h)
    · exact .refl s
  · exact .refl s

theorem dropSegment_timersKept (h : HeadId) (k : SlotNo) (i j : Nat) (s : State) :
    TimersKept s (dropSegment h k i j s) := by
  unfold dropSegment
  split
  · next a ha =>
    have hput {b : Slot} {p : Option Pos} : TimersKept s (setSlot h k b p s) :=
      setSlot_timersKept (by rw [ha]; exact fun h => nomatch h)
    split
    · simp only []
      split
      · exact hput
      · exact hput.trans (releaseRef_timersKept _ _)
    · exact .refl s
  · exact .refl s

theorem respondTag_timersKept (t : TagNo) (status : RespStatus) (data : List Byte) (s : State) :
    TimersKept s (respondTag t status data s) := by
  unfold respondTag
  split
  · exact okResponse_timersKept t data s
  · rw [errorResponse_eq]
    have hdropped := dropSegment_timersKept (s.tag t).head (s.tag t).slot (s.tag t).span (s.tag t).layer s
    refine (hdropped.trans (.of_heads fun x => ?_)).trans (freeTag_timersKept t _)
    rw [setFault_head, staleTags_head]
  · exact freeTag_timersKept t s
  · exact freeTag_timersKept t s
  · exact .refl s

theorem takeDeadline_timersKept (h : HeadId) (s : State) : TimersKept s (takeDeadline h s) := by
  unfold takeDeadline
  simp only []
  split
  · split
    · exact .refl s
    · next k _ =>
      split
      · next a ha =>
        have hactive : ¬ (s.head h).SlotsEmpty := fun he => nomatch ha.symm.trans (he k)
        split
        · refine TimersKept.trans ?_ (releaseRefs_timersKept _ _)
          refine TimersKept.trans ?_ (.of_heads fun x => notifyOwners_head _ _ _ x)
          refine TimersKept.trans ?_ (.of_heads fun x => staleTags_head _ _ x)
          exact setHead_timersKept ⟨rfl, fun he => absurd he hactive⟩
        · exact setHead_timersKept ⟨rfl, fun he => absurd he hactive⟩
        · exact .refl s
      · exact .refl s
  · exact .refl s

theorem issue_timersKept (t : TagNo) (r : Request) (s : State) : TimersKept s (issue t r s) :=
  setHead_timersKept (s := s) (h := r.head) ⟨rfl, id⟩
end

/-! ### What a step does to a timer -/

/-- What a step does to the Raster Timer of a head. -/
inductive TimerStep (hd v : Head) : Prop
  | same (kept : HeadQuiet hd v)
  | timed (ts : TimingSet) (stopped : hd.state = .stopped) (valid : ts.valid = true)
      (kept : HeadQuiet { hd with timing := some ts } v)
  | started (st : HeadState) (stopped : hd.state = .stopped) (timed : hd.timing ≠ none)
      (mode : st = .freeRun ∨ st = .seeking) (kept : HeadQuiet (hd.started st) v)
  | halted (counters : v.counters = hd.halted.counters) (empty : v.SlotsEmpty)
  | line (t : TimingSet) (timed : hd.timing = some t) (due : hd.lineStartDue = true)
      (counters : v.counters = (hd.takeLine (lineKind hd t)).counters)
  | active (due : hd.activeStartDue = true) (kept : HeadQuiet { hd with pixel := hd.pixel + 1 } v)
  | advanced (running : hd.state.running = true) (noLine : hd.lineStartDue = false)
      (kept : HeadQuiet { hd with pixel := hd.pixel + 1 } v)
  | mark (kept : HeadQuiet hd.takeMark v)
  | reset (e : v = Head.reset)

theorem Head.timing_of_due {hd : Head} (h : hd.lineStartDue = true) : ∃ t, hd.timing = some t := by
  unfold Head.lineStartDue at h
  split at h
  · cases h
  · next t ht => exact ⟨t, ht⟩

section
variable {s u : State}

/-- A step of one head's timer is no step of another's. -/
theorem TimerStep.of_setHead {h : HeadId} {v : Head} (hv : TimerStep (s.head h) v) (x : HeadId) :
    TimerStep (s.head x) ((s.setHead h v).head x) := by
  rw [State.head_setHead]
  split
  · next e => subst e; exact hv
  · exact .same (.refl _)

theorem stopRunning_timer (h : HeadId) (s : State) (x : HeadId) : TimerStep (s.head x) ((stopRunning h s).head x) := by
  rw [stopRunning_eq]
  by_cases hx : h = x
  · subst hx
    obtain ⟨l, e⟩ := applyQueue_head h (stopAndEmpty h s)
    rw [e, stopAndEmpty_head_self]
    exact .halted rfl fun k => Vector.getElem_replicate _
  · have hne : x ≠ h := Ne.symm hx
    exact .same (((stopAndEmpty_quiet h s (fun _ r => r)).others x hne).quiet.trans
      ((applyQueue_part h (stopAndEmpty h s)).others x hne).quiet)

theorem BodyEffect.timer {c : ClientId} (h : BodyEffect c s u) (x : HeadId) : TimerStep (s.head x) (u.head x) := by
  cases h with
  | answer => exact .same (.refl _)
  | table h => exact .same (h.sameFetch.timers x)
  | setTiming h ts _ hs hv => exact (TimerStep.timed ts hs hv (.refl _)).of_setHead x
  | startHead h st _ hs ht hm => exact (TimerStep.started st hs ht hm (.refl _)).of_setHead x
  | stopHead h => exact stopRunning_timer h s x
  | reclaim => exact .same (reclaim_timersKept _ s x)
  | clearNotices => exact .same (.refl _)
  | setMask => exact .same (.refl _)

theorem endLine_timer {h : HeadId} (hd : (s.head h).lineStartDue = true) (x : HeadId) :
    TimerStep (s.head x) ((endLine h s).head x) := by
  obtain ⟨t, ht⟩ := Head.timing_of_due hd
  by_cases hx : h = x
  · subst hx
    exact .line t ht hd (endLine_counters h s ht)
  · exact .same ((endLine_part h s ht).others x (Ne.symm hx)).quiet

theorem takeActiveStart_timer {h : HeadId} (hd : (s.head h).activeStartDue = true) (x : HeadId) :
    TimerStep (s.head x) ((takeActiveStart h s).head x) := by
  have hkept := takeDeadline_timersKept h (s.setHead h { s.head h with pixel := (s.head h).pixel + 1 }) x
  rw [State.head_setHead] at hkept
  unfold takeActiveStart
  split at hkept
  · next e => subst e; exact .active hd hkept
  · exact .same hkept

/-- What every effect of a step does to the timers. -/
theorem StepEffect.timer (h : StepEffect s u) (x : HeadId) : TimerStep (s.head x) (u.head x) := by
  cases h with
  | idle => exact .same (.refl _)
  | message t v r _ heffect => exact heffect.timer (s := consume t s) x
  | channel => exact .same (.refl _)
  | reset => exact .reset (State.reset_head x)
  | rise => exact .same (.refl _)
  | lineStart h hd => exact endLine_timer hd x
  | activeStart h hd => exact takeActiveStart_timer hd x
  | pixel h hr hn =>
    obtain ⟨sh, e⟩ := advanceAssembler_eq (s.head h)
    rw [e]
    refine TimerStep.of_setHead (.advanced hr hn ?_) x
    exact ⟨rfl, id⟩
  | mark h => exact (TimerStep.mark (.refl _)).of_setHead x
  | issue t r => exact .same (issue_timersKept t r s x)
  | response t status data => exact .same (respondTag_timersKept t status data s x)
end

/-! ### The follow record (R68, R76, R77) -/

/-- R68: what `FollowLaw` says of one head. -/
def Head.FollowFits (hd : Head) : Prop :=
  match hd.state with
  | .holdover => 1 ≤ hd.misses ∧ hd.misses ≤ 2
  | .seeking => hd.misses = 0 ∨ hd.misses = 3
  | .locked => hd.misses = 0
  | _ => hd.misses = 0 ∧ hd.tally = .zero ∧ hd.bandMark = false ∧ hd.pendingWrap = false

section
variable {hd v : Head}

theorem Head.FollowFits.of_counters (h : hd.FollowFits) (e : v.counters = hd.counters) : v.FollowFits := by
  obtain ⟨hstate, -, -, -, -, hmisses, htally, hband, hwrap, -⟩ := Head.fields_of_counters e
  rw [Head.FollowFits, hstate, hmisses, htally, hband, hwrap]
  exact h

theorem Head.FollowFits.of_clear (hs : hd.state = .stopped ∨ hd.state = .freeRun ∨ hd.state = .seeking)
    (hm : hd.misses = 0) (ht : hd.tally = .zero) (hb : hd.bandMark = false) (hw : hd.pendingWrap = false) :
    hd.FollowFits := by
  unfold Head.FollowFits
  rcases hs with hs | hs | hs <;> rw [hs]
  · exact ⟨hm, ht, hb, hw⟩
  · exact ⟨hm, ht, hb, hw⟩
  · exact .inl hm

theorem Head.FollowFits.takeMark (h : hd.FollowFits) : hd.takeMark.FollowFits := by
  unfold Head.FollowFits at h ⊢
  unfold Head.takeMark
  cases hs : hd.state <;> cases ht : hd.timing <;> simp only [hs] at h ⊢ <;> exact h

/-- R71, R75: what locks is a mark of a SEEKING head, and only LOCKED and HOLDOVER frames are judged. -/
theorem lineKind_locks (hd : Head) (t : TimingSet) :
    (lineKind hd t).locks = (hd.state == .seeking && hd.pendingWrap) ∧
      ((lineKind hd t).judged = true → hd.state.judged = true) := by
  unfold lineKind
  split
  · exact ⟨rfl, fun h => nomatch h⟩
  · exact ⟨rfl, fun h => (Bool.and_eq_true_iff.mp h).2⟩

/-- R76, R77: a judgement moves the miss count and the state together. -/
theorem Head.FollowFits.takeLine (h : hd.FollowFits) {k : LineKind}
    (hlocks : k.locks = (hd.state == .seeking && hd.pendingWrap)) (hjudged : k.judged = true → hd.state.judged = true) :
    (hd.takeLine k).FollowFits := by
  obtain ⟨line, frameEnd, corrected, locks, judged, good⟩ := k
  unfold Head.FollowFits at h ⊢
  simp only [Head.takeLine, stateAfter, missesAfter, losesLock, missLimit] at hlocks hjudged ⊢
  subst hlocks
  cases hs : hd.state with
  | stopped => simp_all [HeadState.judged]
  | freeRun => simp_all [HeadState.judged]
  | seeking => cases hw : hd.pendingWrap <;> simp_all [HeadState.judged]
  | locked => cases judged <;> cases good <;> simp_all
  | holdover =>
    simp only [hs] at h
    have hm : hd.misses = 1 ∨ hd.misses = 2 := by omega
    cases judged <;> cases good <;> rcases hm with hm | hm <;> simp_all
end

/-- R68: every step of a timer keeps its follow record in step. -/
theorem TimerStep.followFits {hd v : Head} (h : TimerStep hd v) (hf : hd.FollowFits) : v.FollowFits := by
  cases h with
  | same k => exact hf.of_counters k.counters
  | timed ts _ _ k => exact Head.FollowFits.of_counters (hd := { hd with timing := some ts }) hf k.counters
  | started st _ _ hm k =>
    refine Head.FollowFits.of_counters (hd := hd.started st) ?_ k.counters
    exact .of_clear (.inr hm) rfl rfl rfl rfl
  | halted e _ => exact Head.FollowFits.of_counters (hd := hd.halted) (.of_clear (.inl rfl) rfl rfl rfl rfl) e
  | line t _ _ e => exact (hf.takeLine (lineKind_locks hd t).1 (lineKind_locks hd t).2).of_counters e
  | active _ k => exact Head.FollowFits.of_counters (hd := { hd with pixel := hd.pixel + 1 }) hf k.counters
  | advanced _ _ k => exact Head.FollowFits.of_counters (hd := { hd with pixel := hd.pixel + 1 }) hf k.counters
  | mark k => exact hf.takeMark.of_counters k.counters
  | reset e => rw [e]; exact .of_clear (.inl rfl) rfl rfl rfl rfl

/-- Settles O57: a line start judges the frame, and a start, a stop and a reset clear the record. -/
theorem stepKeepsFollowRecords : Obligations.StepKeepsFollowRecords := fun _ _ hs h =>
  step_keeps (P := FollowLaw) (fun _ _ hs => hs) (fun _ _ hs he x => (he.timer x).followFits (hs x)) hs h

/-! ### Counters within the timing set (R46, R49) -/

/-- R46, R49: what `TimingLaw` says of one head. -/
def Head.TimingFits (hd : Head) : Prop :=
  match hd.timing with
  | none => hd.state = .stopped
  | some t => t.valid = true ∧ (hd.state ≠ .stopped → hd.pixel < t.lineTotal ∧ hd.line < t.frameTotal)

section
variable {hd v : Head}

theorem Head.TimingFits.of_counters (h : hd.TimingFits) (e : v.counters = hd.counters) : v.TimingFits := by
  obtain ⟨hstate, htiming, hpixel, hline, -⟩ := Head.fields_of_counters e
  rw [Head.TimingFits, hstate, htiming, hpixel, hline]
  exact h

theorem Head.timingFits_of_timing {t : TimingSet} (ht : hd.timing = some t) :
    hd.TimingFits ↔ t.valid = true ∧ (hd.state ≠ .stopped → hd.pixel < t.lineTotal ∧ hd.line < t.frameTotal) := by
  rw [Head.TimingFits, ht]

theorem Head.TimingFits.of_stopped (h : hd.TimingFits) (ht : v.timing = hd.timing) (hs : v.state = .stopped) :
    v.TimingFits := by
  unfold Head.TimingFits at h ⊢
  rw [ht]
  split
  · exact hs
  · next e => rw [e] at h; exact ⟨h.1, fun hr => absurd hs hr⟩

/-- R47: both totals of a valid set are positive, and the active start pixel lies within the line. -/
theorem TimingSet.valid_totals {t : TimingSet} (h : t.valid = true) :
    0 < t.lineTotal ∧ 0 < t.frameTotal ∧ 0 < t.activeWidth ∧ t.activeStartPixel < t.lineTotal := by
  simp only [TimingSet.valid, TimingSet.inRange, Bool.and_eq_true, decide_eq_true_eq] at h
  omega

/-- R50: the line that begins lies within the frame. -/
theorem lineKind_line_lt {t : TimingSet} (h : hd.line < t.frameTotal) : (lineKind hd t).line < t.frameTotal := by
  have hpos : 0 < t.frameTotal := Nat.zero_lt_of_lt h
  unfold lineKind
  simp only []
  split
  · exact hpos
  · dsimp only
    split
    · exact hpos
    · next hn =>
      have hne : hd.line + 1 ≠ t.frameTotal := fun e => hn (by simp [e])
      omega

theorem Head.TimingFits.advance {t : TimingSet} (h : hd.TimingFits) (ht : hd.timing = some t)
    (hp : hd.pixel + 1 < t.lineTotal) : Head.TimingFits { hd with pixel := hd.pixel + 1 } := by
  obtain ⟨hvalid, hwithin⟩ := (Head.timingFits_of_timing ht).mp h
  exact (Head.timingFits_of_timing (hd := { hd with pixel := hd.pixel + 1 }) ht).mpr
    ⟨hvalid, fun hr => ⟨hp, (hwithin hr).2⟩⟩

theorem Head.running_of_lineStartDue (h : hd.lineStartDue = true) : hd.state ≠ .stopped := by
  unfold Head.lineStartDue at h
  split at h
  · cases h
  · exact HeadState.running_iff.mp (Bool.and_eq_true_iff.mp h).1

/-- R51: the active start is due within the line. -/
theorem Head.activeStart_within (h : hd.activeStartDue = true) :
    ∃ t, hd.timing = some t ∧ hd.pixel + 1 = t.activeStartPixel := by
  unfold Head.activeStartDue Head.raster at h
  split at h
  · cases h
  · next t hr =>
    refine ⟨t, ?_, beq_iff_eq.mp (Bool.and_eq_true_iff.mp h).2⟩
    split at hr
    · exact hr
    · cases hr

/-- R70 to R73: a mark moves neither the state nor the counters. -/
theorem takeMark_place (hd : Head) : hd.takeMark.state = hd.state ∧ hd.takeMark.pixel = hd.pixel ∧
    hd.takeMark.line = hd.line ∧ hd.takeMark.startPending = hd.startPending := by
  unfold Head.takeMark
  split <;> exact ⟨rfl, rfl, rfl, rfl⟩

/-- R71, R75 to R77: no line start stops a head. -/
theorem stateAfter_ne_stopped {k : LineKind} (h : hd.state ≠ .stopped) : stateAfter hd k ≠ .stopped := by
  unfold stateAfter
  repeat' split
  · exact fun h => nomatch h
  · exact fun h => nomatch h
  · exact fun h => nomatch h
  · exact fun h => nomatch h
  · exact h
end

/-- R49: every step of a timer keeps its counters within the timing set. -/
theorem TimerStep.timingFits {hd v : Head} (h : TimerStep hd v) (hf : hd.TimingFits) : v.TimingFits := by
  cases h with
  | same k => exact hf.of_counters k.counters
  | timed ts hs hv k =>
    refine Head.TimingFits.of_counters (hd := { hd with timing := some ts }) ?_ k.counters
    exact ⟨hv, fun hr => absurd hs hr⟩
  | started st _ ht _ k =>
    refine Head.TimingFits.of_counters (hd := hd.started st) ?_ k.counters
    obtain ⟨t, ht⟩ := Option.ne_none_iff_exists'.mp ht
    obtain ⟨hvalid, -⟩ := (Head.timingFits_of_timing ht).mp hf
    obtain ⟨hline, hframe, -⟩ := TimingSet.valid_totals hvalid
    exact (Head.timingFits_of_timing (hd := hd.started st) ht).mpr ⟨hvalid, fun _ => ⟨hline, hframe⟩⟩
  | halted e _ => exact Head.TimingFits.of_counters (hd := hd.halted) (hf.of_stopped rfl rfl) e
  | line t ht hdue e =>
    refine Head.TimingFits.of_counters ?_ e
    obtain ⟨hvalid, hwithin⟩ := (Head.timingFits_of_timing ht).mp hf
    obtain ⟨-, hline⟩ := hwithin (Head.running_of_lineStartDue hdue)
    exact (Head.timingFits_of_timing (hd := hd.takeLine (lineKind hd t)) ht).mpr
      ⟨hvalid, fun _ => ⟨(TimingSet.valid_totals hvalid).1, lineKind_line_lt hline⟩⟩
  | active hdue k =>
    obtain ⟨t, ht, hp⟩ := Head.activeStart_within hdue
    obtain ⟨hvalid, -⟩ := (Head.timingFits_of_timing ht).mp hf
    exact (hf.advance ht (hp ▸ (TimingSet.valid_totals hvalid).2.2.2)).of_counters k.counters
  | advanced hr hn k =>
    have hrun : hd.state ≠ .stopped := HeadState.running_iff.mp hr
    cases ht : hd.timing with
    | none => rw [Head.TimingFits, ht] at hf; exact absurd hf hrun
    | some t =>
      obtain ⟨-, hwithin⟩ := (Head.timingFits_of_timing ht).mp hf
      have hne : hd.pixel + 1 ≠ t.lineTotal := fun e => by
        rw [Head.lineStartDue, ht] at hn
        simp [hr, e] at hn
      exact (hf.advance ht (Nat.lt_of_le_of_ne (hwithin hrun).1 hne)).of_counters k.counters
  | mark k =>
    refine Head.TimingFits.of_counters ?_ k.counters
    obtain ⟨hstate, hpixel, hline, -⟩ := takeMark_place hd
    rw [Head.TimingFits, (takeMark_sameStore hd).timing, hstate, hpixel, hline]
    exact hf
  | reset e => rw [e]; exact rfl

/-- Every step keeps the counters within the timing set. -/
theorem StepEffect.timingLaw {s u : State} (h : StepEffect s u) (hs : TimingLaw s) : TimingLaw u := fun x =>
  (h.timer x).timingFits (hs x)

/-! ### EMPTY slots before the first line start (R42, R59) -/

/-- A head that is STOPPED, or whose first line start has not come, has EMPTY slots. -/
def Head.EmptyBeforeLines (hd : Head) : Prop := hd.state = .stopped ∨ hd.startPending = true → hd.SlotsEmpty

theorem HeadQuiet.emptyBeforeLines {hd v : Head} (k : HeadQuiet hd v) (h : hd.EmptyBeforeLines) :
    v.EmptyBeforeLines := by
  obtain ⟨hstate, -, -, -, -, -, -, -, -, hpending⟩ := Head.fields_of_counters k.counters
  intro hv
  rw [hstate, hpending] at hv
  exact k.empty (h hv)

theorem Head.reset_slotsEmpty : Head.reset.SlotsEmpty := fun _ => Vector.getElem_replicate _

theorem TimerStep.emptyBeforeLines {hd v : Head} (h : TimerStep hd v) (he : hd.EmptyBeforeLines) :
    v.EmptyBeforeLines := by
  cases h with
  | same k => exact k.emptyBeforeLines he
  | timed ts _ _ k => exact HeadQuiet.emptyBeforeLines (hd := { hd with timing := some ts }) k he
  | started st hs _ _ k =>
    exact HeadQuiet.emptyBeforeLines (hd := hd.started st) k fun _ => he (.inl hs)
  | halted _ hempty => exact fun _ => hempty
  | line t _ hdue e =>
    obtain ⟨hstate, -, -, -, -, -, -, -, -, hpending⟩ := Head.fields_of_counters e
    rintro (hv | hv)
    · rw [hstate] at hv
      exact absurd hv (stateAfter_ne_stopped (Head.running_of_lineStartDue hdue))
    · rw [hpending] at hv
      cases hv
  | active _ k => exact HeadQuiet.emptyBeforeLines (hd := { hd with pixel := hd.pixel + 1 }) k he
  | advanced _ _ k => exact HeadQuiet.emptyBeforeLines (hd := { hd with pixel := hd.pixel + 1 }) k he
  | mark k =>
    refine k.emptyBeforeLines fun hm k => ?_
    rw [(takeMark_sameStore hd).slots]
    obtain ⟨hstate, -, -, hpending⟩ := takeMark_place hd
    rw [hstate, hpending] at hm
    exact he hm k
  | reset e => rw [e]; exact fun _ => Head.reset_slotsEmpty

theorem StepEffect.stoppedSlotsEmpty {s u : State} (h : StepEffect s u) (hs : StoppedSlotsEmpty s) :
    StoppedSlotsEmpty u := fun x => (h.timer x).emptyBeforeLines (hs x)

end Sys2Proof.Machine
end

section
/-! Every step keeps each Depth List the one built from the windows (R38). -/

namespace Sys2Proof.Machine

/-- The depths at which windows are listed are the same, and so are the Depth Lists. -/
structure SameListing (s u : State) : Prop where
  depths : ∀ h w, listedDepth h (u.window w) = listedDepth h (s.window w)
  lists  : ∀ h, (u.head h).depthList = (s.head h).depthList

section
variable {s u v : State}

theorem DepthListLaw.of_same (hs : DepthListLaw s) (hu : SameListing s u) : DepthListLaw u := fun h => by
  rw [hu.lists, hs h, builtDepthList_congr (hu.depths h)]

theorem SameListing.refl (s : State) : SameListing s s := ⟨fun _ _ => rfl, fun _ => rfl⟩

theorem SameListing.trans (a : SameListing s u) (b : SameListing u v) : SameListing s v :=
  ⟨fun h w => (b.depths h w).trans (a.depths h w), fun h => (b.lists h).trans (a.lists h)⟩

theorem SameListing.foldl {α : Type} {f : State → α → State} (hf : ∀ s a, SameListing s (f s a)) (l : List α)
    (s : State) : SameListing s (l.foldl f s) := by
  induction l generalizing s with
  | nil => exact .refl s
  | cons a l ih => exact (hf s a).trans (ih (f s a))

theorem SameListing.of_windows (hw : ∀ w, u.window w = s.window w)
    (hl : ∀ h, (u.head h).depthList = (s.head h).depthList) : SameListing s u := ⟨fun _ w => by rw [hw], hl⟩

/-- One window changes, and not where it is listed. -/
theorem setWindow_sameListing {w : WindowId} {x : Window} (hx : ∀ h, listedDepth h x = listedDepth h (s.window w)) :
    SameListing s (s.setWindow w x) where
  depths h y := by
    rw [State.window_setWindow]
    split
    · next e => subst e; exact hx h
    · rfl
  lists _ := rfl

/-- R38: only a LIVE window is listed. -/
theorem freeWindow_sameListing {w : WindowId} (hw : ∀ h, listedDepth h (s.window w) = none) :
    SameListing s (freeWindow w s) where
  depths h x := by
    rw [freeWindow_window]
    split
    · next e => subst e; rw [hw]; rfl
    · rfl
  lists h := by
    obtain ⟨q, -, e⟩ := freeWindow_head s w h
    rw [e]

theorem listedDepth_reserved {x : Window} {hd : Held} (hx : x.life = .reserved hd) (h : HeadId) :
    listedDepth h x = none := by rw [listedDepth, hx]

theorem listedDepth_retiring {x : Window} (hx : x.life.isRetiring = true) (h : HeadId) : listedDepth h x = none := by
  unfold listedDepth
  split
  · next e => rw [e] at hx; cases hx
  · rfl

theorem listedDepth_free {x : Window} (hx : x.life = .free) (h : HeadId) : listedDepth h x = none := by
  rw [listedDepth, hx]

theorem listedDepth_failAt (x : Window) (address refs : Nat) (h : HeadId) :
    listedDepth h { life := x.life.failAt address, refs := refs } = listedDepth h x := by
  unfold listedDepth
  cases x.life <;> rfl

/-- R25: a staged image is not listed. -/
theorem setStaged_sameListing (w : WindowId) (st : Staged) (s : State) : SameListing s (setStaged w st s) := by
  unfold setStaged
  simp only []
  split
  · next hl => exact setWindow_sameListing fun h => (listedDepth_reserved rfl h).trans (listedDepth_reserved hl h).symm
  · next hl =>
    refine setWindow_sameListing fun h => ?_
    unfold listedDepth
    rw [hl]
  · exact .refl s

theorem setHead_sameListing {h : HeadId} {x : Head} (hx : x.depthList = (s.head h).depthList) :
    SameListing s (s.setHead h x) := .of_windows (fun _ => rfl) fun y => by
  rw [State.head_setHead]
  split
  · next e => subst e; exact hx
  · rfl

theorem enterClosed_sameListing (c : ClientId) (s : State) : SameListing s (enterClosed c s) :=
  .of_windows (fun _ => rfl) fun h => by rw [enterClosed_head]

/-! ### The apply -/

theorem foldl_applyClient_depthList (h x : HeadId) (cs : List ClientId) (s : State) :
    ((cs.foldl (applyClient h) s).head x).depthList = (s.head x).depthList :=
  foldl_keeps (fun u => (u.head x).depthList) (fun u c => by
    obtain ⟨q, e⟩ := applyClient_head h u c x
    rw [e]) cs s

/-- R35: an apply on a head leaves what is listed on the other. -/
theorem foldl_applyClient_listedDepth {h x : HeadId} (hne : h ≠ x) (cs : List ClientId) (s : State) (w : WindowId) :
    listedDepth x ((cs.foldl (applyClient h) s).window w) = listedDepth x (s.window w) :=
  foldl_keeps (fun u => listedDepth x (u.window w)) (fun u c => by
    rw [applyClient_window]
    split
    · next ha =>
      obtain ⟨hbefore, hafter⟩ := listedDepth_of_appliedFor hne ha
      rw [hbefore, hafter]
    · rfl) cs s

/-- R35: clients that hold no window on the head have none processed. -/
theorem foldl_applyClient_idle {h : HeadId} {cs : List ClientId} (hcs : ∀ c ∈ cs, s.holdsOn c h = false) (w : WindowId) :
    (cs.foldl (applyClient h) s).window w = s.window w := by
  have hidle : ∀ (ds : List ClientId) (u : State), (∀ d ∈ ds, d ∈ cs) → (∀ w, u.window w = s.window w) →
      (ds.foldl (applyClient h) u).window w = s.window w := by
    intro ds
    induction ds with
    | nil => exact fun u _ hu => hu w
    | cons d ds ih =>
      intro u hd hu
      rw [List.foldl_cons]
      refine ih _ (fun e he => hd e (List.mem_cons_of_mem d he)) fun x => ?_
      rw [applyClient_window, hu, if_neg fun ha => ?_]
      exact Bool.false_ne_true ((hcs d (hd d (List.mem_cons_self ..))).symm.trans (State.holdsOn_of_appliedFor ha))
  exact hidle cs s (fun _ => id) fun _ => rfl

/-- R38: the Depth List after an apply. -/
theorem applyClients_depthList (h x : HeadId) (cs : List ClientId) (s : State) :
    ((applyClients h cs s).head x).depthList =
      if h = x ∧ cs.any (s.holdsOn · h) = true then builtDepthList h (applyClients h cs s) else (s.head x).depthList := by
  have hbuilt : builtDepthList h (applyClients h cs s) = builtDepthList h (cs.foldl (applyClient h) s) :=
    builtDepthList_congr fun w => by rw [applyClients_window]
  rw [hbuilt]
  unfold applyClients
  simp only []
  rw [foldl_keeps (fun u => u.head x) fun u c => setCommitted_head u h x c]
  by_cases ha : cs.any (s.holdsOn · h) = true
  · rw [if_pos ha, rebuildDepthList, State.head_setHead]
    by_cases hx : h = x
    · rw [if_pos hx, if_pos ⟨hx, ha⟩]
    · rw [if_neg hx, if_neg fun hc => hx hc.1, foldl_applyClient_depthList]
  · rw [if_neg ha, if_neg fun hc => ha hc.2, foldl_applyClient_depthList]

/-- R38: an apply rebuilds the Depth List, or changes no window that could be on it. -/
theorem DepthListLaw.applyClients (hs : DepthListLaw s) (h : HeadId) (cs : List ClientId) :
    DepthListLaw (applyClients h cs s) := by
  intro x
  rw [applyClients_depthList]
  split
  · next hx => rw [hx.1]
  · next hx =>
    rw [hs x]
    refine (builtDepthList_congr fun w => ?_).symm
    rw [applyClients_window]
    by_cases hne : h = x
    · subst hne
      refine congrArg (listedDepth h) (foldl_applyClient_idle (fun c hc => ?_) w)
      exact Bool.eq_false_iff.mpr fun ht => hx ⟨rfl, List.any_eq_true.mpr ⟨c, hc, ht⟩⟩
    · exact foldl_applyClient_listedDepth hne cs s w

theorem depthListLaw_tableLaw : TableLaw DepthListLaw where
  congr hs hu := hs.of_same (.of_windows hu.windows hu.lists)
  setNotice _ hs := hs
  rewindow {s w v} hv hs := by
    refine hs.of_same (setWindow_sameListing fun h => ?_)
    rcases hv with e | ⟨a, e⟩
    · unfold listedDepth
      rw [e]
    · rw [← listedDepth_failAt (s.window w) a v.refs h, ← e]
  free hr hs := hs.of_same (freeWindow_sameListing (listedDepth_retiring hr))
  apply {s} h hs := by
    rw [applyQueue_eq]
    exact (hs.applyClients h _).of_same (setHead_sameListing rfl)

/-- R44: CLOSE_CLIENT frees no LIVE window but by an apply. -/
theorem DepthListLaw.closeClient (hs : DepthListLaw s) (n : ClientId) : DepthListLaw (closeClient n s) := by
  have hbegun : SameListing s (closingOf n (closeChannel n s)) := .of_windows (fun _ => rfl) fun _ => rfl
  have hreserved (u : State) : SameListing u (freeReserved n u) := .foldl (fun u w => by
    split
    · next hd hl =>
      split
      · exact freeWindow_sameListing (listedDepth_reserved hl)
      · exact .refl u
    · exact .refl u) allWindows u
  have hlive (u : State) : SameListing u (retireLive n u) := .foldl (fun u w => by
    split
    · split
      · exact setStaged_sameListing w _ u
      · exact .refl u
    · exact .refl u) allWindows u
  have hhead {u : State} (hu : DepthListLaw u) (h : HeadId) : DepthListLaw (closeOnHead n u h) := by
    unfold closeOnHead
    repeat' split
    · exact hu.applyClients h [n]
    · exact hu
    · exact hu.of_same (setHead_sameListing rfl)
    · exact hu
  have hdrained : DepthListLaw (drainWindows n (closingOf n (closeChannel n s))) := by
    have hprepared := hs.of_same ((hbegun.trans (hreserved _)).trans (hlive _))
    exact hhead (hhead hprepared 0) 1
  rw [closeClient_eq]
  split
  · exact hdrained.of_same (enterClosed_sameListing n _)
  · exact hdrained

/-- The commands on windows and clients keep the Depth Lists the ones built. -/
theorem TableEffect.depthListLaw {c : ClientId} (h : TableEffect c s u) (hs : DepthListLaw s) : DepthListLaw u := by
  cases h with
  | reserve w h _ _ hf =>
    have hset : SameListing s (s.setWindow w { s.window w with life := .reserved ⟨c, h, Staged.fresh⟩ }) :=
      setWindow_sameListing fun x => (listedDepth_reserved rfl x).trans (listedDepth_free hf x).symm
    exact hs.of_same (hset.trans (.of_windows (fun _ => rfl) fun _ => rfl))
  | stage w _ st => exact hs.of_same (setStaged_sameListing w st s)
  | retire w hd hl => exact hs.of_same (freeWindow_sameListing (listedDepth_reserved hl))
  | enqueue h => exact hs.of_same (setHead_sameListing rfl)
  | apply h => exact hs.applyClients h [c]
  | openClient => exact hs.of_same (.of_windows (fun _ => rfl) fun _ => rfl)
  | closeClient n => exact hs.closeClient n
  | setAperture => exact hs.of_same (.of_windows (fun _ => rfl) fun _ => rfl)
  | setHeads => exact hs.of_same (.of_windows (fun _ => rfl) fun _ => rfl)
end

theorem depthListLaw_reset : DepthListLaw State.reset := by
  intro h
  have hlisted : allWindows.filterMap (fun w => (listedDepth h (State.reset.window w)).map fun d => (d, w)) = [] :=
    List.filterMap_eq_nil_iff.mpr fun w _ => by rw [State.reset_window]; rfl
  rw [builtDepthList, hlisted, State.reset_head]
  rfl

/-- Settles O54: what is listed changes at an apply only, which builds the list again. -/
theorem stepKeepsDepthLists : Obligations.StepKeepsDepthLists := fun _ _ hs h =>
  depthListLaw_tableLaw.of_step depthListLaw_reset (fun he hs => he.depthListLaw hs) hs h

end Sys2Proof.Machine
end

section
/-! Every step keeps the Commit Queues well formed (R31): who may be on one, and none on a STOPPED head's. -/

namespace Sys2Proof.Machine

/-! ### Who is on a Commit Queue -/

/-- R31: the Commit Queue of head `x` has no client twice, and only clients with a window on the head or CLOSING ones. -/
def QueueAt (s : State) (x : HeadId) : Prop :=
  (s.head x).commitQueue.Nodup ∧ ∀ c ∈ (s.head x).commitQueue, s.holdsOn c x = true ∨ (s.client c).state = .closing

/-- R31, for both heads. -/
def QueueMembers (s : State) : Prop := ∀ x, QueueAt s x

section
variable {s u v : State} {x : HeadId}

theorem holdsOn_congr {c : ClientId}
    (hw : ∀ w, (u.window w).life.appliedFor c x = (s.window w).life.appliedFor c x) : u.holdsOn c x = s.holdsOn c x := by
  simp only [State.holdsOn, hw]

/-- R45: who is on a Commit Queue after clients that became CLOSED have left it was on it, and has not changed state. -/
theorem QueuesFollow.of_mem (h : QueuesFollow s u) {c : ClientId} (hc : c ∈ (u.head x).commitQueue) :
    c ∈ (s.head x).commitQueue ∧ (u.client c).state = (s.client c).state := by
  rw [h.heads x] at hc
  obtain ⟨hmem, hclose⟩ := List.mem_filter.mp hc
  refine ⟨hmem, (h.states c).resolve_right fun hs => ?_⟩
  exact absurd ⟨by rw [hs.1]; exact fun h => (nomatch h), hs.2⟩ (of_decide_eq_true hclose)

/-- The queue keeps to R31 while the clients on it that are not CLOSING keep a window on the head. -/
theorem QueueAt.follow (hs : QueueAt s x) (h : QueuesFollow s u)
    (hh : ∀ c ∈ (s.head x).commitQueue, (s.client c).state ≠ .closing → s.holdsOn c x = true → u.holdsOn c x = true) :
    QueueAt u x := by
  refine ⟨by rw [h.heads x]; exact hs.1.filter _, fun c hc => ?_⟩
  obtain ⟨hmem, hstate⟩ := h.of_mem hc
  rw [hstate]
  by_cases hclosing : (s.client c).state = .closing
  · exact .inr hclosing
  · exact .inl (hh c hmem hclosing ((hs.2 c hmem).resolve_right hclosing))

theorem QueueAt.congr (hs : QueueAt s x) (hq : (u.head x).commitQueue = (s.head x).commitQueue)
    (hc : ∀ c, (s.client c).state = .closing → (u.client c).state = .closing)
    (hw : ∀ c w, (u.window w).life.appliedFor c x = (s.window w).life.appliedFor c x) : QueueAt u x := by
  rw [QueueAt, hq]
  refine ⟨hs.1, fun c hmem => ?_⟩
  rw [holdsOn_congr (hw c)]
  exact (hs.2 c hmem).imp id (hc c)

theorem QueueAt.of_nil (hq : (u.head x).commitQueue = []) : QueueAt u x := by
  rw [QueueAt, hq]
  exact ⟨List.nodup_nil, fun _ h => nomatch h⟩

theorem setWindow_appliedFor {w : WindowId} {y : Window}
    (hy : ∀ c, y.life.appliedFor c x = (s.window w).life.appliedFor c x) (c : ClientId) (z : WindowId) :
    ((s.setWindow w y).window z).life.appliedFor c x = (s.window z).life.appliedFor c x := by
  rw [State.window_setWindow]
  split
  · next e => subst e; exact hy c
  · rfl

/-- R11: a client that owns another window, or none, keeps its windows when one enters FREE. -/
theorem freeWindow_holdsOn {w : WindowId} {c : ClientId} (hw : (s.window w).life.appliedFor c x = false) :
    (freeWindow w s).holdsOn c x = s.holdsOn c x := holdsOn_congr fun y => by
  rw [freeWindow_window]
  split
  · next e => subst e; rw [hw]; rfl
  · rfl

theorem Life.appliedFor_of_isRetiring {l : Life} (hl : l.isRetiring = true) (c : ClientId) : l.appliedFor c x = false := by
  cases l with
  | retiring => rfl
  | _ => cases hl

/-! ### The apply -/

theorem processWindow_queuesFollow (w : WindowId) (s : State) : QueuesFollow s (processWindow w s) := by
  rcases processWindow_cases s w with ⟨_, -, e⟩ | ⟨_, _, _, -, -, e⟩ | ⟨_, _, _, -, -, -, e⟩ | ⟨_, _, _, -, -, -, e⟩ |
    ⟨-, e⟩ <;> rw [e]
  · exact .of_same (fun _ => rfl) fun _ => rfl
  · exact .of_same (fun _ => rfl) fun _ => rfl
  · exact .of_same (fun _ => rfl) fun _ => rfl
  · exact freeWindow_queuesFollow s w
  · exact .refl s

theorem applyClient_queuesFollow (h : HeadId) (c : ClientId) (s : State) : QueuesFollow s (applyClient h s c) :=
  .foldl _ (fun u w => by
    split
    · exact processWindow_queuesFollow w u
    · exact .refl u) allWindows s

/-- R35: an apply leaves the windows of other clients, and those on the other head. -/
theorem foldl_applyClient_holdsOn {h : HeadId} {cs : List ClientId} {d : ClientId} (hd : x ≠ h ∨ d ∉ cs) :
    (cs.foldl (applyClient h) s).holdsOn d x = s.holdsOn d x := by
  induction cs generalizing s with
  | nil => rfl
  | cons c cs ih =>
    rw [List.foldl_cons, ih (hd.imp id fun hm => fun hmem => hm (List.mem_cons_of_mem c hmem))]
    refine holdsOn_congr fun w => ?_
    rw [applyClient_window]
    split
    · next ha =>
      have hnot : (s.window w).life.appliedFor d x = false := Bool.eq_false_iff.mpr fun hx =>
        hd.elim (fun hne => hne (Life.appliedFor_head_unique hx ha)) fun hm => by
          rw [Life.appliedFor_head_unique hx ha] at hx
          rw [Window.appliedFor_unique ha hx] at hm
          exact hm (List.mem_cons_self ..)
      rw [hnot, Bool.eq_false_iff]
      exact fun hx => Bool.false_ne_true (hnot.symm.trans (Window.appliedFor_of_processed hx))
    · rfl

/-- R38, R39: what follows the processing of the windows leaves the Commit Queues, the clients and the windows. -/
theorem applyClients_lists (h : HeadId) (cs : List ClientId) (s : State) :
    (∀ y, ((applyClients h cs s).head y).commitQueue = ((cs.foldl (applyClient h) s).head y).commitQueue) ∧
      (∀ c, (applyClients h cs s).client c = (cs.foldl (applyClient h) s).client c) ∧
      ∀ w, (applyClients h cs s).window w = (cs.foldl (applyClient h) s).window w := by
  refine ⟨fun y => ?_, fun c => ?_, applyClients_window h s cs⟩
  · unfold applyClients
    simp only []
    rw [foldl_keeps (fun u => u.head y) fun u c => setCommitted_head u h y c]
    split
    · rw [rebuildDepthList, State.head_setHead]
      split
      · next e => subst e; rfl
      · rfl
    · rfl
  · unfold applyClients
    simp only []
    rw [foldl_keeps (fun u => u.client c) fun u d => setCommitted_client h u d c]
    split <;> rfl

/-- R35, R45: an apply on another head, or of clients that are not on the queue or are CLOSING. -/
theorem QueueAt.applyClients (hs : QueueAt s x) {h : HeadId} {cs : List ClientId}
    (hcs : x ≠ h ∨ ∀ c ∈ cs, c ∈ (s.head x).commitQueue → (s.client c).state = .closing) :
    QueueAt (applyClients h cs s) x := by
  obtain ⟨hq, hc, hw⟩ := applyClients_lists h cs s
  have happlied : QueueAt (cs.foldl (applyClient h) s) x := by
    refine hs.follow (.foldl _ (fun u c => applyClient_queuesFollow h c u) cs s) fun c hmem hopen hholds => ?_
    rwa [foldl_applyClient_holdsOn (hcs.imp id fun hall hmem' => hopen (hall c hmem' hmem))]
  exact happlied.congr (hq x) (fun c => by rw [hc]; exact id) fun c w => by rw [hw]

theorem QueueMembers.applyQueue (hs : QueueMembers s) (h : HeadId) : QueueMembers (applyQueue h s) := by
  intro x
  by_cases hx : x = h
  · subst hx
    exact .of_nil (applyQueue_queue s x)
  · rw [applyQueue_eq]
    refine ((hs x).applyClients (.inl hx)).congr ?_ (fun _ => id) fun _ _ => rfl
    rw [State.head_setHead_of_ne _ (Ne.symm hx)]

theorem queueMembers_tableLaw : TableLaw QueueMembers where
  congr hs hu x := (hs x).congr (hu.queues x) (fun c => by rw [hu.clients]; exact id) fun c w => by rw [hu.windows]
  setNotice _ hs x := (hs x).congr rfl (fun _ => id) fun _ _ => rfl
  rewindow {s w v} hv hs x := by
    refine (hs x).congr rfl (fun _ => id) (setWindow_appliedFor fun c => ?_)
    rcases hv with e | ⟨a, e⟩ <;> rw [e]
    cases (s.window w).life <;> rfl
  free {s w} hr hs x := (hs x).follow (freeWindow_queuesFollow s w) fun c _ _ hholds => by
    rwa [freeWindow_holdsOn (Life.appliedFor_of_isRetiring hr c)]
  apply h hs := hs.applyQueue h

/-! ### CLOSE_CLIENT -/

/-- If client `n` is on the Commit Queue of head `x`, it is CLOSING. -/
def ClosingOn (n : ClientId) (x : HeadId) (s : State) : Prop :=
  n ∈ (s.head x).commitQueue → (s.client n).state = .closing

theorem ClosingOn.follow {n : ClientId} (hs : ClosingOn n x s) (h : QueuesFollow s u) : ClosingOn n x u := fun hmem => by
  obtain ⟨hq, hstate⟩ := h.of_mem hmem
  rw [hstate]
  exact hs hq

/-- R31 at head `x`, with client `n` no more than CLOSING on its queue. -/
def DrainsAt (n : ClientId) (x : HeadId) (s : State) : Prop := QueueAt s x ∧ ClosingOn n x s

theorem DrainsAt.freeReserved {n : ClientId} (hs : DrainsAt n x s) : DrainsAt n x (freeReserved n s) := by
  unfold Machine.freeReserved
  refine foldl_keeps_law (P := DrainsAt n x) (fun u w hu => ?_) allWindows hs
  obtain ⟨hqueue, hclosing⟩ := hu
  split
  · next hd hl =>
    split
    · next hown =>
      have hfollow := freeWindow_queuesFollow u w
      refine ⟨hqueue.follow hfollow fun c hmem hopen hholds => ?_, hclosing.follow hfollow⟩
      have hne : hd.owner ≠ c := fun e => hopen (e ▸ hown ▸ hclosing (hown ▸ e ▸ hmem))
      rwa [freeWindow_holdsOn (by rw [hl, Life.appliedFor, beq_false_of_ne hne, Bool.false_and])]
    · exact ⟨hqueue, hclosing⟩
  · exact ⟨hqueue, hclosing⟩

theorem setStaged_lists (w : WindowId) (st : Staged) (s : State) :
    (∀ c y, ((setStaged w st s).window y).life.appliedFor c x = (s.window y).life.appliedFor c x) ∧
      (∀ y, (setStaged w st s).head y = s.head y) ∧ ∀ c, (setStaged w st s).client c = s.client c := by
  unfold setStaged
  simp only []
  split
  · next hl => exact ⟨setWindow_appliedFor fun c => by rw [hl]; rfl, fun _ => rfl, fun _ => rfl⟩
  · next hl => exact ⟨setWindow_appliedFor fun c => by rw [hl]; rfl, fun _ => rfl, fun _ => rfl⟩
  · exact ⟨fun _ _ => rfl, fun _ => rfl, fun _ => rfl⟩

theorem QueueAt.setStaged (hs : QueueAt s x) (w : WindowId) (st : Staged) : QueueAt (setStaged w st s) x := by
  obtain ⟨hw, hh, hc⟩ := setStaged_lists (x := x) w st s
  exact hs.congr (by rw [hh]) (fun c => by rw [hc]; exact id) hw

theorem DrainsAt.retireLive {n : ClientId} (hs : DrainsAt n x s) : DrainsAt n x (retireLive n s) := by
  unfold Machine.retireLive
  refine foldl_keeps_law (P := DrainsAt n x) (fun u w hu => ?_) allWindows hs
  split
  · split
    · obtain ⟨-, hh, hc⟩ := setStaged_lists (x := x) w _ u
      exact ⟨hu.1.setStaged w _, fun hmem => by rw [hc]; rw [hh] at hmem; exact hu.2 hmem⟩
    · exact hu
  · exact hu

theorem QueueAt.enqueue (hs : QueueAt s x) {n : ClientId} {h : HeadId} (hw : s.holdsOn n h = true)
    (hq : n ∉ (s.head h).commitQueue) : QueueAt (enqueue n h s) x := by
  by_cases hx : h = x
  · subst hx
    have hjoined : ((Machine.enqueue n h s).head h).commitQueue = (s.head h).commitQueue ++ [n] := by
      rw [Machine.enqueue, State.head_setHead_self]
    rw [QueueAt, hjoined]
    refine ⟨List.nodup_append'.mpr ⟨hs.1, List.nodup_singleton n, List.disjoint_singleton.mpr hq⟩, fun c hc => ?_⟩
    rcases List.mem_append.mp hc with hc | hc
    · exact hs.2 c hc
    · rw [List.mem_singleton.mp hc]
      exact .inl hw
  · exact hs.congr (by rw [Machine.enqueue, State.head_setHead_of_ne _ hx]) (fun _ => id) fun _ _ => rfl

/-- R44: CLOSE_CLIENT on one head. -/
theorem QueueAt.closeOnHead (hs : QueueAt s x) {n : ClientId} {h : HeadId} (hn : x ≠ h ∨ ClosingOn n x s) :
    QueueAt (closeOnHead n s h) x := by
  unfold Machine.closeOnHead
  split
  · next hw =>
    split
    · refine hs.applyClients (hn.imp id fun hclosing c hc hmem => ?_)
      rw [List.mem_singleton.mp hc] at hmem ⊢
      exact hclosing hmem
    · split
      · exact hs
      · next hq => exact hs.enqueue hw (by simpa using hq)
  · exact hs

/-- R45: a CLOSING client that becomes CLOSED leaves the Commit Queues. -/
theorem enterClosed_follows {c : ClientId} (h : (s.client c).state = .closing) : QueuesFollow s (enterClosed c s) := by
  have hfollow := enterClosed_queuesFollow s c (s.client c) h
  rwa [State.setClient_client_self] at hfollow

theorem QueueAt.enterClosed (hs : QueueAt s x) {c : ClientId} (h : (s.client c).state = .closing) :
    QueueAt (enterClosed c s) x := hs.follow (enterClosed_follows h) fun _ _ _ hholds => hholds

theorem ClosingOn.closeOnHead {n : ClientId} {h : HeadId} (hs : ClosingOn n x s) (hx : x ≠ h) :
    ClosingOn n x (closeOnHead n s h) := by
  unfold Machine.closeOnHead
  repeat' split
  · obtain ⟨hq, hc, -⟩ := applyClients_lists h [n] s
    have happlied : ClosingOn n x ([n].foldl (applyClient h) s) :=
      hs.follow (.foldl _ (fun u c => applyClient_queuesFollow h c u) [n] s)
    intro hmem
    rw [hq] at hmem
    rw [hc]
    exact happlied hmem
  · exact hs
  · intro hmem
    rw [Machine.enqueue, State.head_setHead_of_ne _ (Ne.symm hx)] at hmem
    exact hs hmem
  · exact hs

theorem QueueMembers.drainWindows (hs : QueueMembers s) {n : ClientId} (hn : (s.client n).state = .closing) :
    QueueMembers (drainWindows n s) := by
  have hprepared (x : HeadId) : DrainsAt n x (prepareWindows n s) := by
    rw [prepareWindows]
    exact DrainsAt.retireLive (DrainsAt.freeReserved ⟨hs x, fun _ => hn⟩)
  rw [Machine.drainWindows]
  generalize prepareWindows n s = v at hprepared
  intro x
  by_cases hx : x = 0
  · subst hx
    exact ((hprepared 0).1.closeOnHead (.inr (hprepared 0).2)).closeOnHead (.inl (by decide))
  · exact ((hprepared x).1.closeOnHead (.inl hx)).closeOnHead (.inr ((hprepared x).2.closeOnHead hx))

theorem QueueMembers.closeClient (hs : QueueMembers s) {n : ClientId} : QueueMembers (closeClient n s) := by
  have hclosing : QueueMembers (closingOf n (closeChannel n s)) := fun x =>
    (hs x).congr rfl (fun c hc => by
      rw [closingOf, State.client_setClient]
      split
      · rfl
      · exact hc) fun _ _ => rfl
  have hn : ((closingOf n (closeChannel n s)).client n).state = .closing := by
    rw [closingOf, State.client_setClient_self]
  have hdrained := hclosing.drainWindows hn
  rw [closeClient_eq]
  split
  · next hz => exact fun x => (hdrained x).enterClosed hz.1
  · exact hdrained

/-- The commands on windows and clients keep to R31. -/
theorem TableEffect.queueMembers {c : ClientId} (h : TableEffect c s u) (hs : QueueMembers s) : QueueMembers u := by
  cases h with
  | reserve w h _ _ hf =>
    intro x
    refine ⟨(hs x).1, fun d hd => ?_⟩
    have hstate : ((reserveWindow w c h s).client d).state = (s.client d).state := by
      rw [reserveWindow, State.client_setClient]
      split
      · next e => subst e; rfl
      · rfl
    rw [hstate]
    refine ((hs x).2 d hd).imp (fun hholds => ?_) id
    obtain ⟨y, hy, ha⟩ := List.any_eq_true.mp hholds
    refine List.any_eq_true.mpr ⟨y, hy, ?_⟩
    have hne : w ≠ y := fun e => by
      subst e
      rw [hf] at ha
      cases ha
    rw [reserveWindow, State.window_setClient, State.window_setWindow_of_ne s hne]
    exact ha
  | stage w _ st => exact fun x => (hs x).setStaged w st
  | retire w hd hl hown hsealed =>
    intro x
    refine (hs x).follow (freeWindow_queuesFollow s w) fun d hmem _ hholds => ?_
    rwa [freeWindow_holdsOn ?_]
    rw [hl]
    refine Bool.eq_false_iff.mpr fun ha => hsealed ?_
    obtain ⟨hd', ho, hx, hl' | ⟨_, _, hl'⟩⟩ := Life.appliedFor_iff.mp ha
    · cases hl'
      rw [← hown, ho, hx]
      exact hmem
    · cases hl'
  | enqueue h _ hw hq => exact fun x => (hs x).enqueue hw hq
  | apply h hq =>
    intro x
    refine (hs x).applyClients ?_
    by_cases hx : x = h
    · subst hx
      exact .inr fun d hd hmem => absurd (List.mem_singleton.mp hd ▸ hmem) hq
    · exact .inl hx
  | openClient n _ _ _ _ _ hclosed =>
    refine fun x => (hs x).congr rfl (fun d hd => ?_) fun _ _ => rfl
    show ((s.setClient n _).client d).state = _
    rw [State.client_setClient]
    split
    · next e => subst e; rw [hclosed] at hd; cases hd
    · exact hd
  | closeClient n => exact hs.closeClient
  | setAperture n =>
    refine fun x => (hs x).congr rfl (fun d hd => ?_) fun _ _ => rfl
    rw [State.client_setClient]
    split
    · next e => subst e; exact hd
    · exact hd
  | setHeads n =>
    refine fun x => (hs x).congr rfl (fun d hd => ?_) fun _ _ => rfl
    rw [State.client_setClient]
    split
    · next e => subst e; exact hd
    · exact hd

theorem queueMembers_reset : QueueMembers State.reset := fun x => .of_nil (by rw [State.reset_head]; rfl)
end

end Sys2Proof.Machine
end

section
/-! The Commit Queue of a STOPPED head stays empty (R31), and so every step keeps the Commit Queues well formed. -/

namespace Sys2Proof.Machine

/-- The Commit Queues of the heads that `p` picks are empty. -/
def EmptyQueues (p : HeadId → Prop) (s : State) : Prop := ∀ x, p x → (s.head x).commitQueue = []

/-- R31: a STOPPED head's Commit Queue is empty. -/
def StoppedQueuesEmpty (s : State) : Prop := EmptyQueues (fun x => (s.head x).state = .stopped) s

section
variable {s u : State} {p : HeadId → Prop}

theorem EmptyQueues.of_sublist (hs : EmptyQueues p s)
    (hu : ∀ x, (u.head x).commitQueue.Sublist (s.head x).commitQueue) : EmptyQueues p u := fun x hx =>
  List.sublist_nil.mp (hs x hx ▸ hu x)

theorem EmptyQueues.congr (hs : EmptyQueues p s) (hu : ∀ x, (u.head x).commitQueue = (s.head x).commitQueue) :
    EmptyQueues p u := hs.of_sublist fun x => hu x ▸ .refl _

theorem freeWindow_queue (w : WindowId) (s : State) (x : HeadId) :
    ((freeWindow w s).head x).commitQueue.Sublist (s.head x).commitQueue := by
  obtain ⟨q, hq, e⟩ := freeWindow_head s w x
  rw [e]
  exact hq

/-- R45: an apply takes none but clients that became CLOSED off a queue, and puts none on it. -/
theorem applyClients_queue (h : HeadId) (cs : List ClientId) (s : State) (x : HeadId) :
    ((applyClients h cs s).head x).commitQueue.Sublist (s.head x).commitQueue := by
  have hfollow : QueuesFollow s (cs.foldl (applyClient h) s) := .foldl _ (fun u c => applyClient_queuesFollow h c u) cs s
  rw [(applyClients_lists h cs s).1, hfollow.heads x]
  exact List.filter_sublist

theorem applyQueue_queue_sublist (h : HeadId) (s : State) (x : HeadId) :
    ((applyQueue h s).head x).commitQueue.Sublist (s.head x).commitQueue := by
  rw [applyQueue_eq, State.head_setHead]
  split
  · exact List.nil_sublist _
  · exact applyClients_queue h _ s x

/-- The parts of the events put no client on a Commit Queue. -/
theorem emptyQueues_tableLaw (p : HeadId → Prop) : TableLaw (EmptyQueues p) where
  congr hs hu := hs.congr hu.queues
  setNotice _ hs := hs
  rewindow _ hs := hs
  free _ hs := hs.of_sublist (freeWindow_queue _ _)
  apply h hs := hs.of_sublist (applyQueue_queue_sublist h _)

theorem SameFetch.state (h : SameFetch s u) (x : HeadId) : (u.head x).state = (s.head x).state := by
  obtain ⟨q, l, e⟩ := h.heads x
  rw [e]

theorem TimersKept.state (h : TimersKept s u) (x : HeadId) : (u.head x).state = (s.head x).state :=
  (Head.fields_of_counters (h x).counters).1

/-- Where no head changes its state, the queues that were empty stay so. -/
theorem StoppedQueuesEmpty.of_state (hu : EmptyQueues (fun x => (s.head x).state = .stopped) u)
    (hstate : ∀ x, (u.head x).state = (s.head x).state) : StoppedQueuesEmpty u := fun x hx =>
  hu x ((hstate x).symm.trans hx)

theorem StoppedQueuesEmpty.of_sublist (hs : StoppedQueuesEmpty s) (hf : SameFetch s u)
    (hu : ∀ x, (u.head x).commitQueue.Sublist (s.head x).commitQueue) : StoppedQueuesEmpty u :=
  .of_state (EmptyQueues.of_sublist hs hu) hf.state

/-- R32: only a running head's queue takes a client. -/
theorem StoppedQueuesEmpty.enqueue (hs : StoppedQueuesEmpty s) {n : ClientId} {h : HeadId}
    (hr : (s.head h).state ≠ .stopped) : StoppedQueuesEmpty (enqueue n h s) := by
  intro x hx
  rw [Machine.enqueue, State.head_setHead] at hx ⊢
  split at hx
  · next e => subst e; exact absurd hx hr
  · next e => rw [if_neg e]; exact hs x hx

theorem StoppedQueuesEmpty.closeOnHead (hs : StoppedQueuesEmpty s) (n : ClientId) (h : HeadId) :
    StoppedQueuesEmpty (closeOnHead n s h) := by
  unfold Machine.closeOnHead
  split
  · split
    · exact hs.of_sublist (applyClients_sameFetch h [n] s) (applyClients_queue h [n] s)
    · next hr =>
      split
      · exact hs
      · exact hs.enqueue hr
  · exact hs

theorem StoppedQueuesEmpty.enterClosed (hs : StoppedQueuesEmpty s) (n : ClientId) :
    StoppedQueuesEmpty (enterClosed n s) := hs.of_sublist (enterClosed_sameFetch n s) fun x => by
  rw [enterClosed_head]
  exact List.filter_sublist

theorem StoppedQueuesEmpty.closeClient (hs : StoppedQueuesEmpty s) (n : ClientId) :
    StoppedQueuesEmpty (closeClient n s) := by
  have hreserved : StoppedQueuesEmpty (freeReserved n (closingOf n (closeChannel n s))) := by
    unfold freeReserved
    refine foldl_keeps_law (fun u w hu => ?_) allWindows hs
    split
    · split
      · exact hu.of_sublist (freeWindow_sameFetch w u) (freeWindow_queue w u)
      · exact hu
    · exact hu
  have hprepared : StoppedQueuesEmpty (prepareWindows n (closingOf n (closeChannel n s))) := by
    rw [prepareWindows]
    unfold retireLive
    refine foldl_keeps_law (fun u w hu => ?_) allWindows hreserved
    split
    · split
      · exact hu.of_sublist (setStaged_sameFetch w _ u) fun x => by rw [(setStaged_lists (x := x) w _ u).2.1]
      · exact hu
    · exact hu
  have hdrained : StoppedQueuesEmpty (drainWindows n (closingOf n (closeChannel n s))) := by
    rw [drainWindows]
    generalize prepareWindows n _ = v at hprepared
    exact (hprepared.closeOnHead n 0).closeOnHead n 1
  rw [closeClient_eq]
  split
  · exact hdrained.enterClosed n
  · exact hdrained

theorem TableEffect.stoppedQueues {c : ClientId} (h : TableEffect c s u) (hs : StoppedQueuesEmpty s) :
    StoppedQueuesEmpty u := by
  have hf := h.sameFetch
  cases h with
  | reserve => exact hs
  | stage w _ st => exact hs.of_sublist hf fun x => by rw [(setStaged_lists (x := x) w st s).2.1]
  | retire w => exact hs.of_sublist hf (freeWindow_queue w s)
  | enqueue h hr => exact hs.enqueue hr
  | apply h => exact hs.of_sublist hf (applyClients_queue h [c] s)
  | openClient => exact hs
  | closeClient n => exact hs.closeClient n
  | setAperture => exact hs
  | setHeads => exact hs

/-- Only one head's state changes, and if it is STOPPED then its queue is empty. -/
theorem StoppedQueuesEmpty.of_head {h : HeadId} (hu : EmptyQueues (fun x => (s.head x).state = .stopped) u)
    (hstate : ∀ x, x ≠ h → (u.head x).state = (s.head x).state)
    (hh : (u.head h).state = .stopped → (u.head h).commitQueue = []) : StoppedQueuesEmpty u := by
  intro x hx
  by_cases e : x = h
  · subst e; exact hh hx
  · exact hu x ((hstate x e).symm.trans hx)

theorem HeadKept.state {x : HeadId} (h : HeadKept s u x) : (u.head x).state = (s.head x).state := by rw [h]

theorem BodyEffect.stoppedQueues {c : ClientId} (h : BodyEffect c s u) (hs : StoppedQueuesEmpty s) :
    StoppedQueuesEmpty u := by
  have hlaw := emptyQueues_tableLaw fun x => (s.head x).state = .stopped
  cases h with
  | answer => exact hs
  | table h => exact h.stoppedQueues hs
  | setTiming h =>
    refine .of_state (hlaw.congr hs (setHead_sameLists rfl rfl)) fun x => ?_
    rw [State.head_setHead]
    split
    · next e => subst e; rfl
    · rfl
  | startHead h st _ _ _ hm =>
    refine .of_head (h := h) (hlaw.congr hs (setHead_sameLists rfl rfl)) (fun x hx => ?_) fun hst => ?_
    · rw [State.head_setHead_of_ne s (Ne.symm hx)]
    · rw [State.head_setHead_self] at hst
      exact absurd hst (by rcases hm with rfl | rfl <;> exact fun h => nomatch h)
  | stopHead h =>
    refine .of_head (h := h) (hlaw.lineLaw.stopRunning hs) (fun x hx => ?_) fun _ => ?_
    · rw [stopRunning_eq, ((applyQueue_part h (stopAndEmpty h s)).others x hx).state,
        ((stopAndEmpty_quiet h s (fun _ r => r)).others x hx).state]
    · rw [stopRunning_eq]
      exact applyQueue_queue _ h
  | reclaim => exact .of_state (hlaw.reclaim _ hs) (reclaim_timersKept _ s).state
  | clearNotices => exact hs
  | setMask => exact hs

theorem StepEffect.stoppedQueues (h : StepEffect s u) (hs : StoppedQueuesEmpty s) : StoppedQueuesEmpty u := by
  have hlaw := emptyQueues_tableLaw fun x => (s.head x).state = .stopped
  cases h with
  | idle => exact hs
  | message t v r _ heffect => exact heffect.stoppedQueues (s := consume t s) hs
  | channel => exact hs
  | reset =>
    intro x _
    show (State.reset.head x).commitQueue = []
    rw [State.reset_head]
    rfl
  | rise => exact hs
  | lineStart h hd =>
    obtain ⟨t, ht⟩ := Head.timing_of_due hd
    refine .of_head (h := h) (hlaw.lineLaw.endLine (fun hf => hf.elim) hs) (fun x hx => ?_) fun hst => ?_
    · exact ((endLine_part h s ht).others x hx).state
    · rw [(Head.fields_of_counters (endLine_counters h s ht)).1] at hst
      exact absurd hst (stateAfter_ne_stopped (Head.running_of_lineStartDue hd))
  | activeStart h =>
    refine .of_state (hlaw.takeDeadline h (hlaw.congr hs (setHead_sameLists rfl rfl))) fun x => ?_
    rw [takeActiveStart, (takeDeadline_timersKept h _).state, State.head_setHead]
    split
    · next e => subst e; rfl
    · rfl
  | pixel h =>
    obtain ⟨sh, e⟩ := advanceAssembler_eq (s.head h)
    rw [e]
    refine .of_state (hlaw.congr hs (setHead_sameLists rfl rfl)) fun x => ?_
    rw [State.head_setHead]
    split
    · next e => subst e; rfl
    · rfl
  | mark h =>
    have hmark := takeMark_sameStore (s.head h)
    refine .of_state (hlaw.congr hs (setHead_sameLists hmark.commitQueue hmark.depthList)) fun x => ?_
    rw [State.head_setHead]
    split
    · next e => subst e; exact (takeMark_place _).1
    · rfl
  | issue t r => exact .of_state (hlaw.issue t r hs) (issue_timersKept t r s).state
  | response t status data =>
    exact .of_state (hlaw.respondTag t status data hs) (respondTag_timersKept t status data s).state

theorem queueLaw_iff : QueueLaw s ↔ QueueMembers s ∧ StoppedQueuesEmpty s :=
  ⟨fun h => ⟨fun x => ⟨(h x).1, (h x).2.1⟩, fun x => (h x).2.2⟩, fun h x => ⟨(h.1 x).1, (h.1 x).2, h.2 x⟩⟩

theorem StepEffect.queueLaw (h : StepEffect s u) (hs : QueueLaw s) : QueueLaw u := by
  obtain ⟨hmembers, hstopped⟩ := queueLaw_iff.mp hs
  exact queueLaw_iff.mpr ⟨queueMembers_tableLaw.of_effect queueMembers_reset (fun he hs => he.queueMembers hs) h hmembers,
    h.stoppedQueues hstopped⟩
end

/-- Settles O53: who is on a queue, and that a STOPPED head's is empty, are kept each by itself. -/
theorem stepKeepsCommitQueues : Obligations.StepKeepsCommitQueues := fun _ _ hs h =>
  step_keeps (P := QueueLaw) (fun _ _ hs => hs) (fun _ _ hs he => he.queueLaw hs) hs h

end Sys2Proof.Machine
end

section
/-! Span resolution stage by stage (R89 to R95): runs that tile the line, what they show, and the walk of the byte
budget. -/

namespace Sys2Proof.Machine

/-! ### Cut points (R89) -/

theorem mem_insertCut {x y : Nat} {cuts : List Nat} : y ∈ insertCut x cuts ↔ y = x ∨ y ∈ cuts := by
  induction cuts with
  | nil => simp [insertCut]
  | cons z cuts ih =>
    rw [insertCut]
    split
    · simp
    · split
      · next e => subst e; simp
      · rw [List.mem_cons, ih, List.mem_cons]
        exact or_left_comm

theorem insertCut_pairwise {x : Nat} {cuts : List Nat} (h : cuts.Pairwise (· < ·)) :
    (insertCut x cuts).Pairwise (· < ·) := by
  induction cuts with
  | nil => simp [insertCut]
  | cons z cuts ih =>
    obtain ⟨hz, hcuts⟩ := List.pairwise_cons.mp h
    rw [insertCut]
    split
    · next hx =>
      refine List.pairwise_cons.mpr ⟨fun y hy => ?_, h⟩
      rcases List.mem_cons.mp hy with rfl | hy
      · exact hx
      · exact hx.trans (hz y hy)
    · split
      · exact h
      · next hx hne =>
        refine List.pairwise_cons.mpr ⟨fun y hy => ?_, ih hcuts⟩
        rcases mem_insertCut.mp hy with rfl | hy
        · omega
        · exact hz y hy

section
variable {width : Nat} {covers : List Cover}

theorem mem_cutPoints {y : Nat} :
    y ∈ cutPoints width covers ↔ y = 0 ∨ y = width ∨ ∃ c ∈ covers, c.lo = y ∨ c.past = y := by
  have hfold (edges : List Nat) : y ∈ edges.foldr insertCut (insertCut 0 (insertCut width [])) ↔
      y ∈ edges ∨ y = 0 ∨ y = width := by
    induction edges with
    | nil => simp [mem_insertCut]
    | cons e edges ih => rw [List.foldr_cons, mem_insertCut, ih, List.mem_cons, or_assoc]
  rw [cutPoints, hfold]
  simp only [List.mem_flatMap, List.mem_cons, List.not_mem_nil, or_false, eq_comm (a := y)]
  exact ⟨fun h => h.elim (fun h => .inr (.inr h)) (fun h => h.imp id .inl),
    fun h => h.elim (fun h => .inr (.inl h)) fun h => h.elim (fun h => .inr (.inr h)) .inl⟩

theorem cutPoints_pairwise (width : Nat) (covers : List Cover) : (cutPoints width covers).Pairwise (· < ·) := by
  unfold cutPoints
  generalize covers.flatMap (fun c => [c.lo, c.past]) = edges
  induction edges with
  | nil => exact insertCut_pairwise (insertCut_pairwise List.Pairwise.nil)
  | cons e edges ih => exact insertCut_pairwise ih

/-- R89: the first cut point is column 0. -/
theorem cutPoints_cons (width : Nat) (covers : List Cover) : ∃ cuts, cutPoints width covers = 0 :: cuts := by
  have hzero : 0 ∈ cutPoints width covers := mem_cutPoints.mpr (.inl rfl)
  have hsorted := cutPoints_pairwise width covers
  cases hcuts : cutPoints width covers with
  | nil => rw [hcuts] at hzero; cases hzero
  | cons y cuts =>
    rw [hcuts] at hzero hsorted
    rcases List.mem_cons.mp hzero with rfl | hmem
    · exact ⟨cuts, rfl⟩
    · exact absurd ((List.pairwise_cons.mp hsorted).1 0 hmem) (Nat.not_lt_zero y)
end

/-! ### Runs that tile a line -/

/-- Runs that begin at column `x`, are contiguous and not empty, and end just before column `past`. -/
def RunsTile (x past : Nat) : List Run → Prop
  | [] => x = past
  | r :: rest => r.x = x ∧ x < r.past ∧ RunsTile r.past past rest

section
variable {x m past : Nat} {rs qs : List Run}

theorem RunsTile.le (h : RunsTile x past rs) : x ≤ past := by
  induction rs generalizing x with
  | nil => exact Nat.le_of_eq h
  | cons r rs ih => exact h.2.1.le.trans (ih h.2.2)

theorem runsTile_append : RunsTile x past (rs ++ qs) ↔ ∃ m, RunsTile x m rs ∧ RunsTile m past qs := by
  induction rs generalizing x with
  | nil => exact ⟨fun h => ⟨x, rfl, h⟩, fun ⟨m, hm, h⟩ => hm ▸ h⟩
  | cons r rs ih =>
    rw [List.cons_append, RunsTile, ih]
    exact ⟨fun ⟨hx, hp, m, h, k⟩ => ⟨m, ⟨hx, hp, h⟩, k⟩, fun ⟨m, ⟨hx, hp, h⟩, k⟩ => ⟨hx, hp, m, h, k⟩⟩

theorem RunsTile.not_empty (h : RunsTile x past rs) : ∀ r ∈ rs, r.x < r.past := by
  induction rs generalizing x with
  | nil => exact nofun
  | cons r rs ih =>
    obtain ⟨rfl, hp, hrest⟩ := h
    intro q hq
    rcases List.mem_cons.mp hq with rfl | hq
    · exact hp
    · exact ih hrest q hq

theorem RunsTile.map_limitRun (h : RunsTile x past rs) : RunsTile x past (rs.map limitRun) := by
  induction rs generalizing x with
  | nil => exact h
  | cons r rs ih => exact ⟨h.1, h.2.1, ih h.2.2⟩

/-- R89: the elementary intervals tile the line between the first and the last cut point. -/
theorem intervals_tile (covers : List Cover) {a width : Nat} {cuts : List Nat} (hs : (a :: cuts).Pairwise (· < ·))
    (hle : ∀ y ∈ a :: cuts, y ≤ width) (hmem : width ∈ a :: cuts) : RunsTile a width (intervals covers (a :: cuts)) := by
  induction cuts generalizing a with
  | nil => exact (List.mem_singleton.mp hmem).symm
  | cons b cuts ih =>
    obtain ⟨ha, hcuts⟩ := List.pairwise_cons.mp hs
    have hab : a < b := ha b (List.mem_cons_self ..)
    have hbw : b ≤ width := hle b (List.mem_cons_of_mem a (List.mem_cons_self ..))
    refine ⟨rfl, hab, ih hcuts (fun y hy => hle y (List.mem_cons_of_mem a hy)) ?_⟩
    exact (List.mem_cons.mp hmem).resolve_left fun e => by omega

/-- R92: merging keeps the line tiled. -/
theorem RunsTile.mergeRuns (h : RunsTile x past rs) : RunsTile x past (mergeRuns rs) := by
  induction rs generalizing x with
  | nil => exact h
  | cons r rs ih =>
    obtain ⟨hx, hp, hrest⟩ := h
    have hmerged := ih hrest
    rw [Machine.mergeRuns]
    split
    · next e =>
      rw [e] at hmerged
      exact ⟨hx, hp, hmerged⟩
    · next q qs e =>
      rw [e] at hmerged
      split
      · exact ⟨hx, hp.trans hmerged.2.1, hmerged.2.2⟩
      · exact ⟨hx, hp, hmerged⟩

/-- R93: the two forms of a line after the span limit. -/
theorem limitSpans_cases (width : Nat) (rs : List Run) :
    (rs.length ≤ maxSpans ∧ limitSpans width rs = rs) ∨
    ∃ front r q rest, rs = front ++ r :: q :: rest ∧ front.length = maxSpans - 1 ∧
      limitSpans width rs = front ++ [{ x := r.x, past := width, stack := [] }] := by
  have hsplit := List.take_append_drop (maxSpans - 1) rs
  unfold limitSpans
  split
  · next r q rest e =>
    refine .inr ⟨rs.take (maxSpans - 1), r, q, rest, by rw [← e, hsplit], ?_, rfl⟩
    have hlength := congrArg List.length e
    rw [List.length_drop, List.length_cons, List.length_cons] at hlength
    rw [List.length_take]
    omega
  · next hshort =>
    refine .inl ⟨?_, rfl⟩
    have hdrop : (rs.drop (maxSpans - 1)).length ≤ 1 := by
      cases hd : rs.drop (maxSpans - 1) with
      | nil => exact Nat.zero_le 1
      | cons r rest =>
        cases rest with
        | nil => exact Nat.le_refl 1
        | cons q rest => exact absurd hd (hshort r q rest)
    rw [List.length_drop, maxSpans] at hdrop
    rw [maxSpans]
    omega

theorem RunsTile.limitSpans (h : RunsTile x past rs) : RunsTile x past (limitSpans past rs) := by
  rcases limitSpans_cases past rs with ⟨-, e⟩ | ⟨front, r, q, rest, hrs, -, e⟩ <;> rw [e]
  · exact h
  · rw [hrs] at h
    obtain ⟨m, hfront, hx, hp, hrest⟩ := runsTile_append.mp h
    exact runsTile_append.mpr ⟨m, hfront, hx, hp.trans_le hrest.le, rfl⟩

theorem limitSpans_length (width : Nat) (rs : List Run) : (limitSpans width rs).length ≤ maxSpans := by
  rcases limitSpans_cases width rs with ⟨hlength, e⟩ | ⟨front, r, q, rest, -, hlength, e⟩ <;> rw [e]
  · exact hlength
  · rw [List.length_append, hlength]
    exact Nat.le_refl 32
end

/-- The runs of a line as R92 leaves them. -/
def mergedRuns (width : Nat) (covers : List Cover) : List Run :=
  mergeRuns ((intervals covers (cutPoints width covers)).map limitRun)

/-- The covers of a line are not empty and within its width. -/
def Clipped (width : Nat) (covers : List Cover) : Prop := ∀ c ∈ covers, c.lo < c.past ∧ c.past ≤ width

section
variable {width : Nat} {covers : List Cover}

theorem Clipped.cutPoints_le (h : Clipped width covers) {y : Nat} (hy : y ∈ cutPoints width covers) : y ≤ width := by
  rcases mem_cutPoints.mp hy with rfl | rfl | ⟨c, hc, rfl | rfl⟩
  · exact Nat.zero_le _
  · exact Nat.le_refl _
  · exact (h c hc).1.le.trans (h c hc).2
  · exact (h c hc).2

/-- R89: the elementary intervals tile the active width. -/
theorem intervals_tile_line (h : Clipped width covers) :
    RunsTile 0 width (intervals covers (cutPoints width covers)) := by
  obtain ⟨cuts, e⟩ := cutPoints_cons width covers
  have hsorted := cutPoints_pairwise width covers
  have hmem : width ∈ cutPoints width covers := mem_cutPoints.mpr (.inr (.inl rfl))
  have hle : ∀ y ∈ cutPoints width covers, y ≤ width := fun y hy => h.cutPoints_le hy
  rw [e] at hsorted hmem hle ⊢
  exact intervals_tile covers hsorted hle hmem

theorem mergedRuns_tile (h : Clipped width covers) : RunsTile 0 width (mergedRuns width covers) :=
  (intervals_tile_line h).map_limitRun.mergeRuns
end

/-! ### What a run shows (R90 to R92) -/

/-- R90, R91: the run has the limited stack of its first column, with the same windows at each of its columns. -/
def Run.Shows (covers : List Cover) (r : Run) : Prop :=
  r.stack = (fullStack covers r.x).take maxLayers ∧
  ∀ x, r.x ≤ x → x < r.past →
    r.stack.map Cover.window = ((fullStack covers x).take maxLayers).map Cover.window

section
variable {width : Nat} {covers : List Cover}

/-- R89: between two cut points the same covers cover each column. -/
theorem fullStack_between {a b x : Nat} (hcuts : ∀ c ∈ covers, (c.lo ≤ a ∨ b ≤ c.lo) ∧ (c.past ≤ a ∨ b ≤ c.past))
    (ha : a ≤ x) (hb : x < b) : fullStack covers x = fullStack covers a := by
  refine congrArg cutAtOpaque (List.filter_congr fun c hc => ?_)
  obtain ⟨hlo, hpast⟩ := hcuts c hc
  rw [Bool.eq_iff_iff]
  simp only [Bool.and_eq_true, decide_eq_true_eq]
  omega

theorem intervals_shows {a : Nat} {cuts : List Nat} (hs : (a :: cuts).Pairwise (· < ·))
    (hedges : ∀ c ∈ covers, (c.lo ≤ a ∨ c.lo ∈ cuts) ∧ (c.past ≤ a ∨ c.past ∈ cuts)) :
    ∀ r ∈ (intervals covers (a :: cuts)).map limitRun, r.Shows covers := by
  induction cuts generalizing a with
  | nil => exact nofun
  | cons b cuts ih =>
    obtain ⟨-, hcuts⟩ := List.pairwise_cons.mp hs
    have hfrom {y : Nat} (hy : y ∈ b :: cuts) : b ≤ y := by
      rcases List.mem_cons.mp hy with rfl | hy
      · exact Nat.le_refl _
      · exact ((List.pairwise_cons.mp hcuts).1 y hy).le
    have hlater {y : Nat} (hy : y ≤ a ∨ y ∈ b :: cuts) (hab : a < b) : y ≤ b ∨ y ∈ cuts := by
      rcases hy with hy | hy
      · exact .inl (by omega)
      · exact (List.mem_cons.mp hy).imp Nat.le_of_eq id
    have hab : a < b := (List.pairwise_cons.mp hs).1 b (List.mem_cons_self ..)
    intro r hr
    rw [intervals, List.map_cons] at hr
    rcases List.mem_cons.mp hr with rfl | hr
    · refine ⟨rfl, fun x ha hb => ?_⟩
      rw [fullStack_between (fun c hc => ⟨(hedges c hc).1.imp id hfrom, (hedges c hc).2.imp id hfrom⟩) ha hb]
      rfl
    · exact ih hcuts (fun c hc => ⟨hlater (hedges c hc).1 hab, hlater (hedges c hc).2 hab⟩) r hr

theorem sameStack_iff {r q : Run} : sameStack r q = true ↔ r.stack.map Cover.window = q.stack.map Cover.window := by
  rw [sameStack, beq_iff_eq]

theorem mergeRuns_shows {x past : Nat} {rs : List Run} (ht : RunsTile x past rs) (h : ∀ r ∈ rs, r.Shows covers) :
    ∀ r ∈ mergeRuns rs, r.Shows covers := by
  induction rs generalizing x with
  | nil => exact nofun
  | cons p rs ih =>
    obtain ⟨hp, hrs⟩ := List.forall_mem_cons.mp h
    have hmerged := ih ht.2.2 hrs
    have htile := ht.2.2.mergeRuns
    rw [mergeRuns]
    split
    · exact List.forall_mem_cons.mpr ⟨hp, nofun⟩
    · next q qs e =>
      rw [e] at hmerged htile
      split
      · next hsame =>
        refine List.forall_mem_cons.mpr ⟨⟨hp.1, fun y hy hy' => ?_⟩, (List.forall_mem_cons.mp hmerged).2⟩
        by_cases hin : y < p.past
        · exact hp.2 y hy hin
        · have hq : q.x ≤ y := by
            rw [htile.1]
            exact Nat.le_of_not_lt hin
          exact (sameStack_iff.mp hsame).trans ((List.forall_mem_cons.mp hmerged).1.2 y hq hy')
      · exact List.forall_mem_cons.mpr ⟨hp, hmerged⟩

/-- R92: after merging, neighbouring runs have different windows. -/
theorem mergeRuns_chain (rs : List Run) :
    (mergeRuns rs).IsChain fun r q => r.stack.map Cover.window ≠ q.stack.map Cover.window := by
  induction rs with
  | nil => exact .nil
  | cons r rs ih =>
    rw [mergeRuns]
    split
    · exact .singleton r
    · next q qs e =>
      rw [e] at ih
      split
      · next hsame =>
        cases qs with
        | nil => exact .singleton _
        | cons p ps =>
          rw [List.isChain_cons_cons] at ih ⊢
          exact ⟨fun he => ih.1 ((sameStack_iff.mp hsame).symm.trans he), ih.2⟩
      · next hdiff => exact List.isChain_cons_cons.mpr ⟨fun he => hdiff (sameStack_iff.mpr he), ih⟩

theorem mergedRuns_shows (h : Clipped width covers) : ∀ r ∈ mergedRuns width covers, r.Shows covers := by
  obtain ⟨cuts, e⟩ := cutPoints_cons width covers
  refine mergeRuns_shows (intervals_tile_line h).map_limitRun ?_
  have hedge {y : Nat} (hy : y ∈ cutPoints width covers) : y ≤ 0 ∨ y ∈ cuts := by
    rw [e] at hy
    exact (List.mem_cons.mp hy).imp Nat.le_of_eq id
  have hsorted := cutPoints_pairwise width covers
  rw [e] at hsorted ⊢
  exact intervals_shows hsorted fun c hc =>
    ⟨hedge (mem_cutPoints.mpr (.inr (.inr ⟨c, hc, .inl rfl⟩))), hedge (mem_cutPoints.mpr (.inr (.inr ⟨c, hc, .inr rfl⟩)))⟩
end

/-! ### Opaque layers (R90, R97) -/

/-- No key follows an absent one. -/
def OpaqueKeys : List (Option Word) → Prop
  | [] => True
  | [_] => True
  | k :: rest => k ≠ none ∧ OpaqueKeys rest

theorem opaqueLast_iff (ls : List Layer) : OpaqueLast ls ↔ OpaqueKeys (ls.map Layer.key) := by
  induction ls with
  | nil => exact Iff.rfl
  | cons l ls ih =>
    cases ls with
    | nil => exact Iff.rfl
    | cons l' ls => exact and_congr Iff.rfl ih

theorem opaqueKeys_cons {k : Option Word} {ks : List (Option Word)} (hk : k ≠ none) (h : OpaqueKeys ks) :
    OpaqueKeys (k :: ks) := by
  cases ks with
  | nil => trivial
  | cons k' ks => exact ⟨hk, h⟩

theorem cutAtOpaque_opaqueKeys (cs : List Cover) : OpaqueKeys ((cutAtOpaque cs).map Cover.key) := by
  induction cs with
  | nil => trivial
  | cons c cs ih =>
    rw [cutAtOpaque]
    split
    · trivial
    · next hk => exact opaqueKeys_cons hk ih

theorem OpaqueKeys.take {ks : List (Option Word)} (h : OpaqueKeys ks) (n : Nat) : OpaqueKeys (ks.take n) := by
  induction ks generalizing n with
  | nil => rw [List.take_nil]; trivial
  | cons k ks ih =>
    cases n with
    | zero => trivial
    | succ n =>
      cases ks with
      | nil => rw [List.take_succ_cons, List.take_nil]; trivial
      | cons k' ks => exact opaqueKeys_cons h.1 (ih h.2 n)

/-- R91, R97: at most 4 layers, none after an opaque one. -/
def StackFits (cs : List Cover) : Prop := cs.length ≤ maxLayers ∧ OpaqueKeys (cs.map Cover.key)

theorem stackFits_of_shows {covers : List Cover} {r : Run} (h : r.Shows covers) : StackFits r.stack := by
  rw [h.1]
  refine ⟨List.length_take_le _ _, ?_⟩
  rw [List.map_take]
  exact (cutAtOpaque_opaqueKeys _).take _

theorem limitSpans_stackFits {width : Nat} {rs : List Run} (h : ∀ r ∈ rs, StackFits r.stack) :
    ∀ r ∈ limitSpans width rs, StackFits r.stack := by
  rcases limitSpans_cases width rs with ⟨-, e⟩ | ⟨front, r, q, rest, hrs, -, e⟩ <;> rw [e]
  · exact h
  · intro p hp
    rcases List.mem_append.mp hp with hp | hp
    · exact h p (hrs ▸ List.mem_append_left _ hp)
    · rw [List.mem_singleton.mp hp]
      exact ⟨Nat.zero_le _, trivial⟩

/-! ### The walk of the byte budget (R95) -/

/-- R95: a walk of segments from a budget used to a budget used: a segment is PENDING when its cost fits, and else
ABSENT. -/
def Charged (used : Nat) : List (Nat × SegStatus) → Nat → Prop
  | [], past => past = used
  | (cost, status) :: rest, past =>
    if used + cost ≤ byteBudget then status = .pending ∧ Charged (used + cost) rest past
    else status = .absent ∧ Charged used rest past

section
variable {used m past : Nat} {segs more : List (Nat × SegStatus)}

theorem Charged.append (h : Charged used segs m) (k : Charged m more past) : Charged used (segs ++ more) past := by
  induction segs generalizing used with
  | nil => rw [Charged] at h; subst h; exact k
  | cons seg segs ih =>
    obtain ⟨cost, status⟩ := seg
    rw [Charged] at h
    rw [List.cons_append, Charged]
    split at h
    · next hfits => rw [if_pos hfits]; exact ⟨h.1, ih h.2⟩
    · next hfits => rw [if_neg hfits]; exact ⟨h.1, ih h.2⟩

theorem pendingCost_pending (cost : Nat) (segs : List (Nat × SegStatus)) :
    pendingCost ((cost, .pending) :: segs) = cost + pendingCost segs := rfl

theorem pendingCost_absent (cost : Nat) (segs : List (Nat × SegStatus)) :
    pendingCost ((cost, .absent) :: segs) = pendingCost segs := rfl

/-- R95: the budget used grows by the cost of the PENDING segments, and not past the limit. -/
theorem Charged.past_eq (h : Charged used segs past) : past = used + pendingCost segs := by
  induction segs generalizing used with
  | nil => exact h
  | cons seg segs ih =>
    obtain ⟨cost, status⟩ := seg
    rw [Charged] at h
    split at h
    · obtain ⟨rfl, h⟩ := h
      rw [ih h, pendingCost_pending, Nat.add_assoc]
    · obtain ⟨rfl, h⟩ := h
      rw [ih h, pendingCost_absent]

theorem Charged.past_le (h : Charged used segs past) (hu : used ≤ byteBudget) : past ≤ byteBudget := by
  induction segs generalizing used with
  | nil => rw [Charged] at h; exact h ▸ hu
  | cons seg segs ih =>
    obtain ⟨cost, status⟩ := seg
    rw [Charged] at h
    split at h
    · next hfits => exact ih h.2 hfits
    · exact ih h.2 hu

/-- R95: the status of one segment of the walk, by the budget used before it. -/
theorem Charged.status {before rest : List (Nat × SegStatus)} {cost : Nat} {status : SegStatus}
    (h : Charged used (before ++ (cost, status) :: rest) past) :
    status = if used + pendingCost before + cost ≤ byteBudget then .pending else .absent := by
  induction before generalizing used with
  | nil =>
    rw [List.nil_append, Charged] at h
    have hzero : pendingCost [] = 0 := rfl
    rw [hzero, Nat.add_zero]
    split at h
    · next hfits => rw [if_pos hfits]; exact h.1
    · next hfits => rw [if_neg hfits]; exact h.1
  | cons seg before ih =>
    obtain ⟨cost', status'⟩ := seg
    rw [List.cons_append, Charged] at h
    split at h
    · obtain ⟨rfl, h⟩ := h
      rw [ih h, pendingCost_pending, Nat.add_assoc used cost']
    · obtain ⟨rfl, h⟩ := h
      rw [ih h, pendingCost_absent]
end

section
variable (row x width used : Nat) (cs : List Cover)

/-- R94: but for the status, the layers of a stack are those of its covers. -/
theorem chargeStack_layers : (chargeStack row x width used cs).1.map (fun l => { l with status := .absent }) =
    cs.map (layerOf row x · .absent) := by
  induction cs generalizing used with
  | nil => rfl
  | cons c cs ih =>
    rw [chargeStack]
    split <;> exact congrArg (layerOf row x c .absent :: ·) (ih _)

theorem chargeStack_map {β : Type} {f : Layer → β} (hf : ∀ l : Layer, f l = f { l with status := .absent }) :
    (chargeStack row x width used cs).1.map f = cs.map fun c => f (layerOf row x c .absent) := by
  have hmap := congrArg (List.map f) (chargeStack_layers row x width used cs)
  rw [List.map_map, List.map_map] at hmap
  exact (List.map_congr_left fun l _ => hf l).trans hmap

theorem chargeStack_windows : (chargeStack row x width used cs).1.map Layer.window = cs.map Cover.window :=
  chargeStack_map row x width used cs fun _ => rfl

theorem chargeStack_keys : (chargeStack row x width used cs).1.map Layer.key = cs.map Cover.key :=
  chargeStack_map row x width used cs fun _ => rfl

/-- R95: the walk down one stack. -/
theorem chargeStack_charged :
    Charged used ((chargeStack row x width used cs).1.map fun l => (width * l.format.bytes, l.status))
      (chargeStack row x width used cs).2.1 := by
  induction cs generalizing used with
  | nil => rfl
  | cons c cs ih =>
    rw [chargeStack]
    split
    · next hfits =>
      dsimp only
      rw [List.map_cons, Charged]
      exact (if_pos hfits).mpr ⟨rfl, ih _⟩
    · next hfits =>
      dsimp only
      rw [List.map_cons, Charged]
      exact (if_neg hfits).mpr ⟨rfl, ih _⟩

/-- R95, R99: what the walk down one stack drops. -/
theorem chargeStack_dropped : (chargeStack row x width used cs).2.2 =
    ((chargeStack row x width used cs).1.filter (fun l => l.status = .absent)).map Layer.window := by
  induction cs generalizing used with
  | nil => rfl
  | cons c cs ih =>
    rw [chargeStack]
    split
    · exact ih _
    · exact congrArg (c.window :: ·) (ih _)
end

section
variable {row used x past : Nat} {rs : List Run}

/-- R94: each run becomes a span. -/
theorem mem_chargeRuns {sp : Span} (h : sp ∈ (chargeRuns row used rs).1) : ∃ r ∈ rs, ∃ before,
    sp = { xStart := r.x, xEnd := r.past - 1, layers := (chargeStack row r.x (r.past - r.x) before r.stack).1 } := by
  induction rs generalizing used with
  | nil => cases h
  | cons r rs ih =>
    rcases List.mem_cons.mp h with rfl | h
    · exact ⟨r, List.mem_cons_self .., used, rfl⟩
    · obtain ⟨q, hq, e⟩ := ih h
      exact ⟨q, List.mem_cons_of_mem r hq, e⟩

/-- R94: what the spans show, one for each run. -/
theorem chargeRuns_outline (row used : Nat) (rs : List Run) :
    (chargeRuns row used rs).1.map (fun sp => (sp.xStart, sp.xEnd, sp.layers.map Layer.window)) =
      rs.map fun r => (r.x, r.past - 1, r.stack.map Cover.window) := by
  induction rs generalizing used with
  | nil => rfl
  | cons r rs ih =>
    rw [chargeRuns]
    simp only []
    rw [List.map_cons, List.map_cons, ih, chargeStack_windows]

theorem chargeRuns_length (row used : Nat) (rs : List Run) : (chargeRuns row used rs).1.length = rs.length := by
  have h := congrArg List.length (chargeRuns_outline row used rs)
  rwa [List.length_map, List.length_map] at h

theorem RunsTile.spans (h : RunsTile x past rs) (row used : Nat) : SpansTile x past (chargeRuns row used rs).1 := by
  induction rs generalizing x used with
  | nil => exact h
  | cons r rs ih =>
    obtain ⟨hx, hp, hrest⟩ := h
    refine ⟨hx, Nat.le_sub_one_of_lt hp, ?_⟩
    show SpansTile (r.past - 1 + 1) past _
    rw [Nat.sub_add_cancel (Nat.zero_lt_of_lt hp)]
    exact ih hrest _

/-- R95: the walk over the spans. -/
theorem chargeRuns_charged (h : ∀ r ∈ rs, r.x < r.past) :
    Charged used (segmentCosts (chargeRuns row used rs).1) (chargeRuns row used rs).2.1 := by
  induction rs generalizing used with
  | nil => rfl
  | cons r rs ih =>
    obtain ⟨hr, hrs⟩ := List.forall_mem_cons.mp h
    have hlength (l : Layer) (layers : List Layer) :
        segmentLength { xStart := r.x, xEnd := r.past - 1, layers := layers } l = (r.past - r.x) * l.format.bytes := by
      unfold segmentLength
      congr 1
      dsimp only
      omega
    have hfirst := chargeStack_charged row r.x (r.past - r.x) used r.stack
    rw [chargeRuns, segmentCosts, List.flatMap_cons]
    simp only [hlength]
    exact hfirst.append (ih hrs)

/-- R95, R99: what the walk drops. -/
theorem chargeRuns_dropped (row used : Nat) (rs : List Run) : (chargeRuns row used rs).2.2 =
    ((walkLayers (chargeRuns row used rs).1).filter (fun l => l.status = .absent)).map Layer.window := by
  induction rs generalizing used with
  | nil => rfl
  | cons r rs ih =>
    rw [chargeRuns, walkLayers, List.flatMap_cons, List.filter_append, List.map_append]
    simp only []
    rw [chargeStack_dropped, ih]
    rfl
end

/-! ### The resolved line (R97) -/

section
variable {row width : Nat} {covers : List Cover}

/-- The runs of a line as R93 leaves them. -/
def limitedRuns (width : Nat) (covers : List Cover) : List Run := limitSpans width (mergedRuns width covers)

theorem resolveLine_spans : (resolveLine row width covers).spans = (chargeRuns row 0 (limitedRuns width covers)).1 := rfl

theorem resolveLine_budget :
    (resolveLine row width covers).budget = (chargeRuns row 0 (limitedRuns width covers)).2.1 := rfl

theorem limitedRuns_tile (h : Clipped width covers) : RunsTile 0 width (limitedRuns width covers) :=
  (mergedRuns_tile h).limitSpans

theorem limitedRuns_stackFits (h : Clipped width covers) : ∀ r ∈ limitedRuns width covers, StackFits r.stack :=
  limitSpans_stackFits fun r hr => stackFits_of_shows (mergedRuns_shows h r hr)

theorem resolveLine_charged (h : Clipped width covers) :
    Charged 0 (segmentCosts (resolveLine row width covers).spans) (resolveLine row width covers).budget :=
  chargeRuns_charged (limitedRuns_tile h).not_empty

theorem resolveLine_spansLaw (hw : 1 ≤ width) (h : Clipped width covers) :
    SpansLaw width (resolveLine row width covers).spans (resolveLine row width covers).budget := by
  have htile := limitedRuns_tile h
  refine ⟨?_, ?_, htile.spans row 0, fun sp hsp => ?_, (resolveLine_charged h).past_le (Nat.zero_le _)⟩
  · rw [resolveLine_spans, chargeRuns_length]
    refine List.length_pos_iff.mpr fun e => ?_
    rw [e] at htile
    have hzero : 0 = width := htile
    omega
  · rw [resolveLine_spans, chargeRuns_length]
    exact limitSpans_length width _
  · rw [resolveLine_spans] at hsp
    obtain ⟨r, hr, before, rfl⟩ := mem_chargeRuns hsp
    obtain ⟨hlength, hkeys⟩ := limitedRuns_stackFits h r hr
    refine ⟨?_, (opaqueLast_iff _).mpr (by rw [chargeStack_keys]; exact hkeys)⟩
    have hwindows := congrArg List.length (chargeStack_windows row r.x (r.past - r.x) before r.stack)
    rw [List.length_map, List.length_map] at hwindows
    exact hwindows ▸ hlength
end

/-- Settles O45: the stages of the resolution keep the line tiled, and the budget walk charges what it enters. -/
theorem resolvedSpansTileTheLine : Obligations.ResolvedSpansTileTheLine := by
  intro row width covers hw hcovers
  have hcharged := resolveLine_charged (row := row) (width := width) hcovers
  refine ⟨resolveLine_spansLaw hw hcovers, hcharged.past_eq.trans (Nat.zero_add _), fun before cost status rest e => ?_⟩
  rw [e] at hcharged
  have hstatus := hcharged.status
  rw [Nat.zero_add, byteBudget] at hstatus
  refine ⟨fun hfits => ?_, fun hfits => ?_⟩
  · rw [hstatus, if_pos hfits]
  · rw [hstatus, if_neg (Nat.not_le_of_lt hfits)]

end Sys2Proof.Machine
end

section
/-! What each column of a resolved line shows, and which windows a resolution drops (R90 to R93, R99). -/

namespace Sys2Proof.Machine

/-! ### The windows at a column -/

/-- The windows that cover column `x`, in Depth List order, down to and including the first opaque one. -/
def columnStack (covers : List Cover) (x : Nat) : List WindowId := (fullStack covers x).map Cover.window

theorem cutAtOpaque_eq (cs : List Cover) : cutAtOpaque cs =
    cs.takeWhile (fun c => c.key ≠ none) ++ (cs.drop (cs.takeWhile (fun c => c.key ≠ none)).length).take 1 := by
  induction cs with
  | nil => rfl
  | cons c cs ih =>
    rw [cutAtOpaque]
    split
    · next hk => rw [List.takeWhile_cons_of_neg (by simp [hk])]; rfl
    · next hk =>
      rw [List.takeWhile_cons_of_pos (by simp [hk]), ih]
      rfl

/-- R90, R91: what a run shows at each of its columns. -/
theorem Run.Shows.windows {covers : List Cover} {r : Run} (h : r.Shows covers) {x : Nat} (hx : r.x ≤ x)
    (hx' : x < r.past) : r.stack.map Cover.window = (columnStack covers x).take 4 :=
  (h.2 x hx hx').trans List.map_take

/-! ### The run that holds a column -/

section
variable {a b x : Nat} {rs : List Run}

theorem RunsTile.exists_run (h : RunsTile a b rs) (ha : a ≤ x) (hb : x < b) : ∃ r ∈ rs, r.x ≤ x ∧ x < r.past := by
  induction rs generalizing a with
  | nil =>
    have hab : a = b := h
    omega
  | cons r rs ih =>
    obtain ⟨rfl, hp, hrest⟩ := h
    by_cases hx : x < r.past
    · exact ⟨r, List.mem_cons_self .., ha, hx⟩
    · obtain ⟨q, hq, hin⟩ := ih hrest (Nat.le_of_not_lt hx)
      exact ⟨q, List.mem_cons_of_mem r hq, hin⟩

theorem RunsTile.bounds (h : RunsTile a b rs) : ∀ r ∈ rs, a ≤ r.x ∧ r.past ≤ b := by
  induction rs generalizing a with
  | nil => exact nofun
  | cons r rs ih =>
    obtain ⟨rfl, hp, hrest⟩ := h
    intro q hq
    rcases List.mem_cons.mp hq with rfl | hq
    · exact ⟨Nat.le_refl _, hrest.le⟩
    · obtain ⟨hlow, hhigh⟩ := ih hrest q hq
      exact ⟨by omega, hhigh⟩

/-- The windows that runs have at column `x`. -/
def runsAt (rs : List Run) (x : Nat) : List WindowId :=
  (rs.filter (fun r => r.x ≤ x ∧ x ≤ r.past - 1)).flatMap fun r => r.stack.map Cover.window

theorem runsAt_cons (r : Run) (rs : List Run) (x : Nat) : runsAt (r :: rs) x =
    if r.x ≤ x ∧ x ≤ r.past - 1 then r.stack.map Cover.window ++ runsAt rs x else runsAt rs x := by
  unfold runsAt
  rw [List.filter_cons]
  by_cases h : r.x ≤ x ∧ x ≤ r.past - 1
  · rw [if_pos h, if_pos (decide_eq_true h), List.flatMap_cons]
  · rw [if_neg h, if_neg (by simpa using h)]

theorem runsAt_append (rs qs : List Run) (x : Nat) : runsAt (rs ++ qs) x = runsAt rs x ++ runsAt qs x := by
  unfold runsAt
  rw [List.filter_append, List.flatMap_append]

/-- Columns before the first run and after the last are held by none. -/
theorem RunsTile.runsAt_outside (h : RunsTile a b rs) (hx : x < a ∨ b ≤ x) : runsAt rs x = [] := by
  unfold runsAt
  rw [List.filter_eq_nil_iff.mpr, List.flatMap_nil]
  intro r hr
  obtain ⟨hlow, hhigh⟩ := h.bounds r hr
  have hne := h.not_empty r hr
  simp only [decide_eq_true_eq]
  omega

/-- A column is held by one run of a tiled line. -/
theorem RunsTile.runsAt_of_mem (h : RunsTile a b rs) {r : Run} (hr : r ∈ rs) (hx : r.x ≤ x) (hx' : x < r.past) :
    runsAt rs x = r.stack.map Cover.window := by
  induction rs generalizing a with
  | nil => cases hr
  | cons q rs ih =>
    obtain ⟨rfl, hp, hrest⟩ := h
    rw [runsAt_cons]
    rcases List.mem_cons.mp hr with rfl | hr
    · rw [if_pos ⟨hx, Nat.le_sub_one_of_lt hx'⟩, hrest.runsAt_outside (.inl hx'), List.append_nil]
    · have hlow := (hrest.bounds r hr).1
      rw [if_neg (by omega), ih hrest hr]
end

/-! ### Each window once (R93) -/

section
variable {ws vs seen : List WindowId}

theorem removeAll_of_subset (h : ws ⊆ seen) : ws.removeAll seen = [] := by
  refine List.filter_eq_nil_iff.mpr fun w hw => ?_
  simpa using h hw

/-- Windows that have their place already add nothing. -/
theorem eraseDups_absorb (h : ws ⊆ seen) : (seen ++ (ws ++ vs)).eraseDups = (seen ++ vs).eraseDups := by
  have hsame : vs.removeAll (seen ++ ws) = vs.removeAll seen := by
    refine List.filter_congr fun v _ => ?_
    have hmem : v ∈ ws → v ∈ seen := fun hv => h hv
    by_cases hv : v ∈ seen <;> simp [hv]
    exact fun hw => hv (hmem hw)
  rw [← List.append_assoc, List.eraseDups_append, List.eraseDups_append (as := seen) (bs := ws), removeAll_of_subset h,
    hsame, List.eraseDups_append]
  simp

theorem firstOnly_eq (ws : List WindowId) : firstOnly ws = ws.eraseDups := by
  have hfold : ∀ (ws seen : List WindowId), ws.foldl (fun seen w => if seen.contains w then seen else seen ++ [w]) seen =
      seen ++ (ws.removeAll seen).eraseDups := by
    intro ws
    induction ws with
    | nil => exact fun seen => (List.append_nil seen).symm
    | cons w ws ih =>
      intro seen
      rw [List.foldl_cons, ih]
      by_cases hw : w ∈ seen
      · have hcons : (w :: ws).removeAll seen = ws.removeAll seen := List.filter_cons_of_neg (by simpa using hw)
        rw [if_pos (by simpa using hw), hcons]
      · have hcons : (w :: ws).removeAll seen = w :: ws.removeAll seen := List.filter_cons_of_pos (by simpa using hw)
        have hmore : ws.removeAll (seen ++ [w]) = (ws.removeAll seen).filter (fun b => !b == w) := by
          rw [List.removeAll, List.removeAll, List.filter_filter]
          exact List.filter_congr fun v _ => by rw [Bool.eq_iff_iff]; simp [and_comm]
        rw [if_neg (by simpa using hw), hcons, List.eraseDups_cons, hmore, List.append_assoc]
        rfl
  have h := hfold ws []
  have hall : ws.removeAll [] = ws := List.filter_eq_self.mpr fun _ _ => rfl
  rwa [hall, List.nil_append] at h

/-- The windows of runs, column by column, are those of the runs, run by run, with each window in its first place. -/
theorem RunsTile.eraseDups_columns {a b : Nat} {rs : List Run} (h : RunsTile a b rs) {f : Nat → List WindowId}
    (hf : ∀ r ∈ rs, ∀ x, r.x ≤ x → x < r.past → f x = r.stack.map Cover.window) (seen : List WindowId) :
    (seen ++ (List.range' a (b - a)).flatMap f).eraseDups =
      (seen ++ rs.flatMap fun r => r.stack.map Cover.window).eraseDups := by
  induction rs generalizing a seen with
  | nil =>
    have hab : a = b := h
    rw [hab, Nat.sub_self]
    rfl
  | cons r rs ih =>
    obtain ⟨rfl, hp, hrest⟩ := h
    obtain ⟨hfirst, hlater⟩ := List.forall_mem_cons.mp hf
    have hsplit : List.range' r.x (b - r.x) =
        r.x :: (List.range' (r.x + 1) (r.past - r.x - 1) ++ List.range' r.past (b - r.past)) := by
      have hle := hrest.le
      have hcount : b - r.x = (r.past - r.x - 1) + (b - r.past) + 1 := by omega
      have hnext : r.x + 1 + 1 * (r.past - r.x - 1) = r.past := by omega
      rw [hcount, List.range'_succ, ← List.range'_append, hnext]
    have hin : (List.range' (r.x + 1) (r.past - r.x - 1)).flatMap f ⊆ seen ++ r.stack.map Cover.window := by
      intro w hw
      obtain ⟨x, hx, hw⟩ := List.mem_flatMap.mp hw
      rw [List.mem_range'_1] at hx
      rw [hfirst x (by omega) (by omega)] at hw
      exact List.mem_append_right _ hw
    rw [hsplit, List.flatMap_cons, List.flatMap_append, hfirst r.x (Nat.le_refl _) hp, ← List.append_assoc,
      eraseDups_absorb hin, ih hrest hlater, List.flatMap_cons, List.append_assoc]
end

/-! ### The spans and the runs they are made of -/

section
variable {row width : Nat} {covers : List Cover}

/-- What a span shows where. -/
def Span.outline (sp : Span) : Nat × Nat × List WindowId := (sp.xStart, sp.xEnd, sp.layers.map Layer.window)

/-- What the span of a run shows where. -/
def Run.outline (r : Run) : Nat × Nat × List WindowId := (r.x, r.past - 1, r.stack.map Cover.window)

theorem resolveLine_outline (row width : Nat) (covers : List Cover) :
    (resolveLine row width covers).spans.map Span.outline = (limitedRuns width covers).map Run.outline :=
  chargeRuns_outline row 0 _

/-- The windows shown at column `x` by spans with these outlines. -/
theorem shown_eq {spans : List Span} {rs : List Run} (h : spans.map Span.outline = rs.map Run.outline) (x : Nat) :
    (spans.filter (fun sp => sp.xStart ≤ x ∧ x ≤ sp.xEnd)).flatMap (fun sp => sp.layers.map Layer.window) =
      runsAt rs x := by
  have hspans : (spans.filter (fun sp => sp.xStart ≤ x ∧ x ≤ sp.xEnd)).flatMap (fun sp => sp.layers.map Layer.window) =
      ((spans.map Span.outline).filter (fun o => o.1 ≤ x ∧ x ≤ o.2.1)).flatMap fun o => o.2.2 := by
    rw [List.filter_map, List.flatMap_map]
    rfl
  have hruns : runsAt rs x = ((rs.map Run.outline).filter (fun o => o.1 ≤ x ∧ x ≤ o.2.1)).flatMap fun o => o.2.2 := by
    rw [List.filter_map, List.flatMap_map]
    rfl
  rw [hspans, hruns, h]

/-- R93: a background span to the right edge that is the 32nd, in place of spans that differ. -/
def Replaces (width : Nat) (covers : List Cover) (spans : List Span) (sp : Span) : Prop :=
  spans.length = 32 ∧ sp.xEnd + 1 = width ∧ sp.layers = [] ∧
    ∃ x y, sp.xStart ≤ x ∧ x < y ∧ y ≤ sp.xEnd ∧ (columnStack covers x).take 4 ≠ (columnStack covers y).take 4

/-- The span made of a run. -/
theorem exists_span_of_run {spans : List Span} {rs : List Run} (h : spans.map Span.outline = rs.map Run.outline)
    {r : Run} (hr : r ∈ rs) :
    ∃ sp ∈ spans, sp.xStart = r.x ∧ sp.xEnd = r.past - 1 ∧ sp.layers.map Layer.window = r.stack.map Cover.window := by
  have hmem : r.outline ∈ spans.map Span.outline := h ▸ List.mem_map_of_mem hr
  obtain ⟨sp, hsp, e⟩ := List.mem_map.mp hmem
  simp only [Span.outline, Run.outline, Prod.mk.injEq] at e
  exact ⟨sp, hsp, e⟩

/-- R93: the two forms of a resolved line: all merged runs, or 31 of them and a background span in place of the others,
the first two of which differ. -/
theorem limitedRuns_cases (h : Clipped width covers) :
    ((mergedRuns width covers).length ≤ maxSpans ∧ limitedRuns width covers = mergedRuns width covers) ∨
    ∃ front r q rest, mergedRuns width covers = front ++ r :: q :: rest ∧ front.length = 31 ∧
      limitedRuns width covers = front ++ [{ x := r.x, past := width, stack := [] }] ∧
      RunsTile 0 r.x front ∧ RunsTile r.x width (r :: q :: rest) ∧
      r.stack.map Cover.window ≠ q.stack.map Cover.window := by
  rcases limitSpans_cases width (mergedRuns width covers) with ⟨hlength, e⟩ | ⟨front, r, q, rest, hruns, hlength, e⟩
  · exact .inl ⟨hlength, e⟩
  · have htile := mergedRuns_tile h
    have hchain := mergeRuns_chain ((intervals covers (cutPoints width covers)).map limitRun)
    rw [← mergedRuns, hruns] at hchain
    rw [hruns] at htile
    obtain ⟨m, hfront, hrest⟩ := runsTile_append.mp htile
    obtain rfl : r.x = m := hrest.1
    exact .inr ⟨front, r, q, rest, hruns, hlength, e, hfront, hrest,
      (List.isChain_cons_cons.mp hchain.right_of_append).1⟩

/-- R93: a span of the background run replaces spans that differ. -/
theorem replaces_of_background (h : Clipped width covers) {front rest : List Run} {r q : Run}
    (hruns : mergedRuns width covers = front ++ r :: q :: rest) (hlength : front.length = 31)
    (htile : RunsTile r.x width (r :: q :: rest)) (hdiff : r.stack.map Cover.window ≠ q.stack.map Cover.window)
    (hlimited : limitedRuns width covers = front ++ [{ x := r.x, past := width, stack := [] }]) {sp : Span}
    (hstart : sp.xStart = r.x) (hend : sp.xEnd = width - 1) (hwindows : sp.layers.map Layer.window = []) :
    Replaces width covers (resolveLine row width covers).spans sp := by
  have hshows := mergedRuns_shows h
  rw [hruns] at hshows
  have hr := hshows r (by simp)
  have hq := hshows q (by simp)
  obtain ⟨-, hrp, hqx, hqp, hrest⟩ := htile
  have hqw := hrest.le
  have hcount := congrArg List.length (resolveLine_outline row width covers)
  rw [List.length_map, List.length_map, hlimited, List.length_append, hlength] at hcount
  refine ⟨hcount, by omega, List.map_eq_nil_iff.mp hwindows, r.x, q.x, by omega, by omega, by omega, ?_⟩
  rw [← hr.windows (Nat.le_refl _) hrp, ← hq.windows (Nat.le_refl _) (by omega)]
  exact hdiff

/-- R90 to R93: what each column shows. -/
theorem column_shows (h : Clipped width covers) {x : Nat} (hx : x < width) :
    ∃ sp ∈ (resolveLine row width covers).spans, sp.xStart ≤ x ∧ x ≤ sp.xEnd ∧
      (sp.layers.map Layer.window = (columnStack covers x).take 4 ∨
        Replaces width covers (resolveLine row width covers).spans sp) := by
  have houtline := resolveLine_outline row width covers
  obtain ⟨r, hr, hlow, hhigh⟩ := (mergedRuns_tile h).exists_run (Nat.zero_le x) hx
  have hshows := mergedRuns_shows h r hr
  have hkept (hmem : r ∈ limitedRuns width covers) :
      ∃ sp ∈ (resolveLine row width covers).spans, sp.xStart ≤ x ∧ x ≤ sp.xEnd ∧
        (sp.layers.map Layer.window = (columnStack covers x).take 4 ∨
          Replaces width covers (resolveLine row width covers).spans sp) := by
    obtain ⟨sp, hsp, hstart, hend, hwindows⟩ := exists_span_of_run houtline hmem
    exact ⟨sp, hsp, by omega, by omega, .inl (hwindows.trans (hshows.windows hlow hhigh))⟩
  rcases limitedRuns_cases h with ⟨-, e⟩ | ⟨front, p, q, rest, hruns, hlength, e, hfront, htile, hdiff⟩
  · exact hkept (e ▸ hr)
  · rw [hruns] at hr
    rcases List.mem_append.mp hr with hr | hr
    · exact hkept (e ▸ List.mem_append_left _ hr)
    · have hin := (htile.bounds r hr).1
      obtain ⟨sp, hsp, hstart, hend, hwindows⟩ := exists_span_of_run houtline
        (r := { x := p.x, past := width, stack := [] }) (e ▸ List.mem_append_right _ (List.mem_singleton_self _))
      dsimp only at hstart hend
      exact ⟨sp, hsp, by omega, by omega, .inr (replaces_of_background h hruns hlength htile hdiff e hstart hend hwindows)⟩

/-- R92, R93: neighbouring spans differ, but for the background span in place of others. -/
theorem neighbours_differ (h : Clipped width covers) {before rest : List Span} {sp next : Span}
    (hspans : (resolveLine row width covers).spans = before ++ sp :: next :: rest) :
    sp.layers.map Layer.window ≠ next.layers.map Layer.window ∨
      Replaces width covers (resolveLine row width covers).spans next := by
  have houtline := resolveLine_outline row width covers
  have hchain := mergeRuns_chain ((intervals covers (cutPoints width covers)).map limitRun)
  rw [← mergedRuns] at hchain
  have hpair {before rest : List Span} {rs : List Run}
      (ho : (before ++ sp :: next :: rest).map Span.outline = rs.map Run.outline)
      (hc : rs.IsChain fun r q => r.stack.map Cover.window ≠ q.stack.map Cover.window) :
      sp.layers.map Layer.window ≠ next.layers.map Layer.window := by
    have hmapped : (rs.map Run.outline).IsChain fun o o' => o.2.2 ≠ o'.2.2 := (List.isChain_map _).mpr hc
    rw [← ho, List.isChain_map] at hmapped
    exact (List.isChain_cons_cons.mp hmapped.right_of_append).1
  rcases limitedRuns_cases h with ⟨-, e⟩ | ⟨front, p, q, rest', hruns, hlength, e, -, htile, hdiff⟩
  · rw [e, hspans] at houtline
    exact .inl (hpair houtline hchain)
  · have ho := houtline
    rw [e, hspans, List.map_append (f := Run.outline)] at ho
    obtain ⟨fronts, last, hsplit, hfronts, hlast⟩ := List.map_eq_append_iff.mp ho
    obtain ⟨bg, rfl, hbg⟩ := List.map_eq_singleton_iff.mp hlast
    rw [hruns] at hchain
    rcases List.eq_nil_or_concat rest with rfl | ⟨mid, z, rfl⟩
    · have hnext : next = bg := by
        have hl := congrArg List.getLast? hsplit
        simpa using hl
      subst hnext
      simp only [Span.outline, Run.outline, Prod.mk.injEq, List.map_nil] at hbg
      obtain ⟨hstart, hend, hwindows⟩ := hbg
      exact .inr (replaces_of_background h hruns hlength htile hdiff e hstart hend hwindows)
    · have hfront : before ++ sp :: next :: mid = fronts := by
        have hl : (before ++ sp :: next :: mid) ++ [z] = fronts ++ [bg] := by simpa using hsplit
        exact (List.append_inj' hl rfl).1
      rw [← hfront] at hfronts
      exact .inl (hpair hfronts hchain.left_of_append)

/-! ### The windows dropped (R99) -/

theorem intervals_starts (covers : List Cover) {a width : Nat} {cuts : List Nat} (hs : (a :: cuts).Pairwise (· < ·))
    (hle : ∀ y ∈ a :: cuts, y ≤ width) (hmem : width ∈ a :: cuts) :
    (intervals covers (a :: cuts)).map Run.x = (a :: cuts).filter (· < width) := by
  induction cuts generalizing a with
  | nil => rw [← List.mem_singleton.mp hmem, List.filter_cons_of_neg (by simp)]; rfl
  | cons b cuts ih =>
    obtain ⟨ha, hcuts⟩ := List.pairwise_cons.mp hs
    have hab : a < b := ha b (List.mem_cons_self ..)
    have hbw : b ≤ width := hle b (List.mem_cons_of_mem a (List.mem_cons_self ..))
    rw [intervals, List.map_cons, ih hcuts (fun y hy => hle y (List.mem_cons_of_mem a hy))
      ((List.mem_cons.mp hmem).resolve_left fun e => by omega)]
    exact (List.filter_cons_of_pos (p := fun x => decide (x < width)) (decide_eq_true (hab.trans_le hbw))).symm

/-- R89: an elementary interval begins at column 0 and at each edge of a cover. -/
theorem interval_starts_line (h : Clipped width covers) : (intervals covers (cutPoints width covers)).map Run.x =
    (List.range width).filter (fun x => x = 0 ∨ ∃ c ∈ covers, c.lo = x ∨ c.past = x) := by
  obtain ⟨cuts, e⟩ := cutPoints_cons width covers
  have hsorted := cutPoints_pairwise width covers
  have hmem : width ∈ cutPoints width covers := mem_cutPoints.mpr (.inr (.inl rfl))
  have hle : ∀ y ∈ cutPoints width covers, y ≤ width := fun y hy => h.cutPoints_le hy
  have hstarts : (intervals covers (cutPoints width covers)).map Run.x = (cutPoints width covers).filter (· < width) := by
    rw [e] at hsorted hmem hle ⊢
    exact intervals_starts covers hsorted hle hmem
  rw [hstarts]
  refine List.Pairwise.eq_of_mem_iff (hsorted.filter _) (List.pairwise_lt_range.filter _) fun y => ?_
  simp only [List.mem_filter, mem_cutPoints, List.mem_range, decide_eq_true_eq]
  constructor
  · rintro ⟨rfl | rfl | hedge, hy⟩
    · exact ⟨hy, .inl rfl⟩
    · exact absurd hy (Nat.lt_irrefl _)
    · exact ⟨hy, .inr hedge⟩
  · rintro ⟨hy, rfl | hedge⟩
    · exact ⟨.inl rfl, hy⟩
    · exact ⟨.inr (.inr hedge), hy⟩

theorem intervals_stack (covers : List Cover) (cuts : List Nat) :
    ∀ r ∈ intervals covers cuts, r.stack = fullStack covers r.x := by
  induction cuts with
  | nil => exact nofun
  | cons a cuts ih =>
    cases cuts with
    | nil => exact nofun
    | cons b rest => exact List.forall_mem_cons.mpr ⟨rfl, ih⟩

/-- R91: what the layer limit drops. -/
theorem layerDrops_line (h : Clipped width covers) : (intervals covers (cutPoints width covers)).flatMap layerDrops =
    ((List.range width).filter (fun x => x = 0 ∨ ∃ c ∈ covers, c.lo = x ∨ c.past = x)).flatMap
      (fun x => (columnStack covers x).drop 4) := by
  rw [← interval_starts_line h, List.flatMap_map]
  refine List.flatMap_congr fun r hr => ?_
  rw [layerDrops, intervals_stack covers _ r hr, columnStack, List.map_drop]
  rfl

theorem spanDrops_short {rs : List Run} (h : rs.length ≤ maxSpans) : spanDrops rs = [] := by
  unfold spanDrops
  split
  · next r q rest e =>
    have hlength := congrArg List.length e
    rw [List.length_drop, List.length_cons, List.length_cons] at hlength
    rw [maxSpans] at h hlength
    omega
  · rfl

theorem spanDrops_long {front rest : List Run} {r q : Run} (h : front.length = 31) :
    spanDrops (front ++ r :: q :: rest) = ((r :: q :: rest).flatMap fun t => t.stack.map Cover.window).eraseDups := by
  have hdrop : (front ++ r :: q :: rest).drop (maxSpans - 1) = r :: q :: rest := by
    rw [show maxSpans - 1 = front.length from h.symm, List.drop_left]
  unfold spanDrops
  rw [hdrop]
  exact firstOnly_eq _

/-- R93: what the span limit drops: the windows that their columns should show and do not. -/
theorem spanDrops_line (h : Clipped width covers) : spanDrops (mergedRuns width covers) =
    ((List.range width).flatMap fun x => ((columnStack covers x).take 4).filter
      (fun w => w ∉ runsAt (limitedRuns width covers) x)).eraseDups := by
  have hkept {rs : List Run} {a b x : Nat} (ht : RunsTile a b rs) (hs : ∀ r ∈ rs, r.Shows covers) (ha : a ≤ x)
      (hb : x < b) : runsAt rs x = (columnStack covers x).take 4 := by
    obtain ⟨r, hr, hlow, hhigh⟩ := ht.exists_run ha hb
    rw [ht.runsAt_of_mem hr hlow hhigh, (hs r hr).windows hlow hhigh]
  have hshows := mergedRuns_shows h
  rcases limitedRuns_cases h with ⟨hlength, e⟩ | ⟨front, r, q, rest, hruns, hlength, e, hfront, htile, -⟩
  · rw [spanDrops_short hlength, e, List.flatMap_eq_nil_iff.mpr]
    · rfl
    · intro x hx
      rw [hkept (mergedRuns_tile h) hshows (Nat.zero_le x) (List.mem_range.mp hx)]
      exact List.filter_eq_nil_iff.mpr fun w hw => by simpa using hw
  · rw [hruns] at hshows
    have hbackground : RunsTile r.x width [{ x := r.x, past := width, stack := [] }] :=
      ⟨rfl, htile.2.1.trans_le htile.2.2.le, rfl⟩
    have hlost (x : Nat) (hx : r.x ≤ x) : runsAt (limitedRuns width covers) x = [] := by
      rw [e, runsAt_append, hfront.runsAt_outside (.inr hx), runsAt_cons]
      simp [runsAt]
    have hsplit : List.range width = List.range r.x ++ List.range' r.x (width - r.x) := by
      rw [List.range_eq_range', List.range_eq_range', show List.range' r.x (width - r.x) =
        List.range' (0 + 1 * r.x) (width - r.x) by simp, List.range'_append, Nat.add_sub_cancel' htile.le]
    have hshown (x : Nat) (hx : x ∈ List.range r.x) :
        ((columnStack covers x).take 4).filter (fun w => w ∉ runsAt (limitedRuns width covers) x) = [] := by
      have hx' := List.mem_range.mp hx
      rw [e, runsAt_append, hbackground.runsAt_outside (.inl hx'), List.append_nil,
        hkept hfront (fun t ht => hshows t (List.mem_append_left _ ht)) (Nat.zero_le x) hx']
      exact List.filter_eq_nil_iff.mpr fun w hw => by simpa using hw
    have hcolumns := htile.eraseDups_columns (f := fun x => ((columnStack covers x).take 4).filter
      (fun w => w ∉ runsAt (limitedRuns width covers) x)) (fun t ht x hlow hhigh => by
        rw [hlost x ((htile.bounds t ht).1.trans hlow), (hshows t (List.mem_append_right _ ht)).windows hlow hhigh]
        exact List.filter_eq_self.mpr fun w _ => by simp) []
    rw [List.nil_append, List.nil_append] at hcolumns
    rw [hruns, spanDrops_long hlength, hsplit, List.flatMap_append, List.flatMap_eq_nil_iff.mpr hshown, List.nil_append,
      hcolumns]
end

/-- Settles O46: the merged runs show the columns' stacks, and the span limit replaces the last ones. -/
theorem eachColumnShowsItsTopWindows : Obligations.EachColumnShowsItsTopWindows := by
  intro row width covers _ hcovers r stack shown replaced
  have hstack : stack = columnStack covers := funext fun x => congrArg (List.map Cover.window) (cutAtOpaque_eq _).symm
  have hshown : shown = runsAt (limitedRuns width covers) := funext (shown_eq (resolveLine_outline row width covers))
  clear_value stack shown
  subst hstack hshown
  refine ⟨fun x hx => column_shows hcovers hx, fun before sp next rest hspans => neighbours_differ hcovers hspans, ?_⟩
  show (intervals covers (cutPoints width covers)).flatMap layerDrops ++ spanDrops (mergedRuns width covers) ++
    (chargeRuns row 0 (limitedRuns width covers)).2.2 = _
  rw [layerDrops_line hcovers, spanDrops_line hcovers, chargeRuns_dropped]
  rfl

end Sys2Proof.Machine
end

section
/-! Where the segments of a resolved line lie in memory (R94, R5 to R7). -/

namespace Sys2Proof.Machine

section
variable {row width : Nat} {covers : List Cover}

/-- R90: a cover in the stack of a column covers the column. -/
theorem mem_fullStack {x : Nat} {c : Cover} (h : c ∈ fullStack covers x) : c ∈ covers ∧ c.lo ≤ x ∧ x < c.past := by
  obtain ⟨hc, hin⟩ := List.mem_filter.mp ((cutAtOpaque_sublist _).subset h)
  obtain ⟨hlo, hpast⟩ := Bool.and_eq_true_iff.mp hin
  exact ⟨hc, of_decide_eq_true hlo, of_decide_eq_true hpast⟩

/-- R92: where the covers are of distinct windows, those in the stack of a run cover all of it. -/
theorem Run.Shows.covers_run {r : Run} (h : r.Shows covers) (hr : r.x < r.past) (hnd : (covers.map Cover.window).Nodup)
    {c : Cover} (hc : c ∈ r.stack) : c ∈ covers ∧ c.lo ≤ r.x ∧ r.past ≤ c.past := by
  have hfirst : c ∈ fullStack covers r.x := by
    rw [h.1] at hc
    exact List.mem_of_mem_take hc
  obtain ⟨hmem, hlo, -⟩ := mem_fullStack hfirst
  have hlast := h.windows (x := r.past - 1) (Nat.le_sub_one_of_lt hr) (Nat.sub_one_lt_of_lt hr)
  have hwindow : c.window ∈ (columnStack covers (r.past - 1)).take 4 := hlast ▸ List.mem_map_of_mem hc
  obtain ⟨d, hd, hdc⟩ := List.mem_map.mp (List.mem_of_mem_take hwindow)
  obtain ⟨hdmem, -, hdpast⟩ := mem_fullStack hd
  obtain rfl := List.inj_on_of_nodup_map hnd hdmem hmem hdc
  exact ⟨hmem, hlo, by omega⟩

/-- R94: a layer of a resolved line is the layer record of a cover that covers its whole span. -/
theorem layer_of_cover (h : Clipped width covers) (hnd : (covers.map Cover.window).Nodup) {sp : Span} {l : Layer}
    (hsp : sp ∈ (resolveLine row width covers).spans) (hl : l ∈ sp.layers) : ∃ c ∈ covers, ∃ past,
      sp.xStart < past ∧ sp.xEnd = past - 1 ∧ c.lo ≤ sp.xStart ∧ past ≤ c.past ∧
      { l with status := .absent } = layerOf row sp.xStart c .absent := by
  rw [resolveLine_spans] at hsp
  obtain ⟨r, hr, before, rfl⟩ := mem_chargeRuns hsp
  have hmem : { l with status := .absent } ∈ r.stack.map (layerOf row r.x · .absent) := by
    rw [← chargeStack_layers row r.x (r.past - r.x) before r.stack]
    exact List.mem_map_of_mem (f := fun l : Layer => { l with status := .absent }) hl
  obtain ⟨c, hc, e⟩ := List.mem_map.mp hmem
  have hne := (limitedRuns_tile h).not_empty r hr
  have hmerged : r ∈ mergedRuns width covers := by
    rcases limitedRuns_cases h with ⟨-, e⟩ | ⟨front, p, q, rest, hruns, -, e, -⟩
    · exact e ▸ hr
    · rw [e] at hr
      rcases List.mem_append.mp hr with hr | hr
      · exact hruns ▸ List.mem_append_left _ hr
      · rw [List.mem_singleton.mp hr] at hc
        cases hc
  obtain ⟨hcovers, hlo, hpast⟩ := (mergedRuns_shows h r hmerged).covers_run hne hnd hc
  exact ⟨c, hcovers, r.past, hne, rfl, hlo, hpast, e.symm⟩

/-- The address of a pixel, from its row address (R5, R6). -/
theorem pixelAddress_eq (c : Cover) (row x : Nat) :
    pixelAddress c row x = rowAddress c row + (x - c.geometry.x + c.source.scrollX) * c.source.format.bytes := by
  unfold pixelAddress rowAddress PixelFormat.bytes
  rfl

/-- R5: the row index of a cover lies within the rows of its source extent. -/
theorem rowAddress_le {c : Cover} (hy : c.geometry.y ≤ row) (hy' : row < c.geometry.y + c.geometry.height)
    (hring : ∀ r, c.ringRows = some r → 1 ≤ r) : rowAddress c row ≤ c.source.base +
      ((match c.ringRows with | some r => r | none => c.source.scrollY + c.geometry.height) - 1) * c.source.pitch := by
  unfold rowAddress
  refine Nat.add_le_add_left (Nat.mul_le_mul_right _ ?_) _
  cases hr : c.ringRows with
  | none =>
    show row - c.geometry.y + c.source.scrollY ≤ c.source.scrollY + c.geometry.height - 1
    omega
  | some ring => exact Nat.le_sub_one_of_lt (Nat.mod_lt _ (hring ring hr))

end

/-- Settles O47: a layer's cover covers its span, so the segment lies between the first and the last pixel of a row. -/
theorem segmentsLieInTheSourceExtent : Obligations.SegmentsLieInTheSourceExtent := by
  intro row width covers hcovers hnd sp hsp l hl
  have hclipped : Clipped width covers := fun c hc => ⟨(hcovers c hc).1, (hcovers c hc).2.1⟩
  obtain ⟨c, hc, past, hlt, hend, hlo, hpast, e⟩ := layer_of_cover hclipped hnd hsp hl
  obtain ⟨hne, -, hgx, hclip, hy, hy', hring, -⟩ := hcovers c hc
  simp only [layerOf, Layer.mk.injEq] at e
  obtain ⟨hwindow, hformat, hkey, hrow, hoffset, -⟩ := e
  have hfirst : l.firstByte = pixelAddress c row sp.xStart := by rw [Layer.firstByte, hrow, hoffset, pixelAddress_eq]
  refine ⟨c, hc, hwindow.symm, hformat, hkey, hfirst, ?_, ?_⟩
  · rw [hfirst, pixelAddress, Nat.add_assoc]
    exact Nat.le_add_right _ _
  · have hrows := rowAddress_le hy hy' hring
    have hbytes : 1 ≤ c.source.format.bytes := by cases c.source.format <;> decide
    have hcolumns : (sp.xStart - c.geometry.x + c.source.scrollX) + (past - sp.xStart) ≤
        c.source.scrollX + c.geometry.width := by omega
    have hsegment := Nat.mul_le_mul_right c.source.format.bytes hcolumns
    rw [Nat.add_mul] at hsegment
    have hpositive : 1 ≤ (c.source.scrollX + c.geometry.width) * c.source.format.bytes :=
      Nat.mul_pos (by omega) hbytes
    have hlast : lastByte c.geometry c.source c.ringRows + 1 = c.source.base +
        ((match c.ringRows with | some r => r | none => c.source.scrollY + c.geometry.height) - 1) * c.source.pitch +
        (c.source.scrollX + c.geometry.width) * c.source.format.bytes := by
      show _ + (c.source.scrollX + c.geometry.width) * c.source.format.bytes - 1 + 1 = _
      exact Nat.sub_add_cancel (hpositive.trans (Nat.le_add_left _ _))
    rw [hlast, hfirst, pixelAddress_eq, segmentLength, hformat, show sp.xEnd - sp.xStart + 1 = past - sp.xStart by omega]
    omega

end Sys2Proof.Machine
end

section
/-! Laws about one line slot and the timing set of its head that every step keeps: `SlotwiseLaw`; the lines that slots hold
(R97, R134) and their segment bytes. -/

namespace Sys2Proof.Machine

/-! ### The layers of changed spans -/

section
variable {f : Layer → Layer} {spans : List Span} {i j : Nat}

/-- A layer of spans with one layer changed is a layer of the spans, or the one changed. -/
theorem mem_walkLayers_modifyLayer {l : Layer} (h : l ∈ walkLayers (modifyLayer f spans i j)) :
    ∃ m ∈ walkLayers spans, l = m ∨ l = f m := by
  obtain ⟨sp, hsp, hl⟩ := List.mem_flatMap.mp h
  obtain ⟨x, hx⟩ := List.mem_iff_getElem?.mp hsp
  rw [modifyLayer_getElem?] at hx
  obtain ⟨sp', hsp', e⟩ := Option.map_eq_some_iff.mp hx
  have hmem : sp' ∈ spans := List.mem_of_getElem? hsp'
  subst e
  split at hl
  · obtain ⟨y, hy⟩ := List.mem_iff_getElem?.mp hl
    rw [List.getElem?_modify] at hy
    obtain ⟨m, hm, e⟩ := Option.map_eq_some_iff.mp hy
    refine ⟨m, List.mem_flatMap.mpr ⟨sp', hmem, List.mem_of_getElem? hm⟩, ?_⟩
    subst e
    split
    · exact .inr rfl
    · exact .inl rfl
  · exact ⟨l, List.mem_flatMap.mpr ⟨sp', hmem, hl⟩, .inl rfl⟩

theorem pendingWindows_eq_nil : pendingWindows spans = [] ↔ ∀ l ∈ walkLayers spans, l.status ≠ .pending := by
  simp [pendingWindows]

/-- No segment becomes PENDING by a change that makes none so. -/
theorem pendingWindows_modifyLayer (hf : ∀ l, (f l).status = .pending → l.status = .pending)
    (h : pendingWindows spans = []) : pendingWindows (modifyLayer f spans i j) = [] := by
  rw [pendingWindows_eq_nil] at h ⊢
  intro l hl
  obtain ⟨m, hm, rfl | rfl⟩ := mem_walkLayers_modifyLayer hl
  · exact h l hm
  · exact fun hp => h m hm (hf m hp)

/-- The place and the keys of a span. -/
def Span.form (sp : Span) : Nat × Nat × List (Option Word) := (sp.xStart, sp.xEnd, sp.layers.map Layer.key)

theorem modifyLayer_form (hf : ∀ l, (f l).key = l.key) :
    (modifyLayer f spans i j).map Span.form = spans.map Span.form := by
  apply List.ext_getElem?
  intro x
  rw [List.getElem?_map, modifyLayer_getElem?, List.getElem?_map, Option.map_map]
  congr 1
  funext sp
  simp only [Function.comp_apply]
  split
  · have hkeys : (sp.layers.modify j f).map Layer.key = sp.layers.map Layer.key := by
      apply List.ext_getElem?
      intro y
      rw [List.getElem?_map, List.getElem?_modify, List.getElem?_map, Option.map_eq_map, Option.map_map]
      congr 1
      funext l
      simp only [Function.comp_apply]
      split
      · exact hf l
      · rfl
    simp only [Span.form, hkeys]
  · rfl

theorem missDeadlines_form (spans : List Span) : (missDeadlines spans).map Span.form = spans.map Span.form := by
  rw [missDeadlines, List.map_map]
  refine List.map_congr_left fun sp _ => ?_
  have hkeys : (sp.layers.map Layer.missDeadline).map Layer.key = sp.layers.map Layer.key := by
    rw [List.map_map]
    refine List.map_congr_left fun l _ => ?_
    simp only [Function.comp_apply, Layer.missDeadline]
    split <;> rfl
  simp only [Function.comp_apply, Span.form, hkeys]

theorem mem_walkLayers_missDeadlines {l : Layer} (h : l ∈ walkLayers (missDeadlines spans)) :
    ∃ m ∈ walkLayers spans, l = m.missDeadline := by
  obtain ⟨sp, hsp, hl⟩ := List.mem_flatMap.mp h
  obtain ⟨sp', hsp', rfl⟩ := List.mem_map.mp hsp
  obtain ⟨m, hm, rfl⟩ := List.mem_map.mp hl
  exact ⟨m, List.mem_flatMap.mpr ⟨sp', hsp', hm⟩, rfl⟩

/-- R117: after the deadline no segment is PENDING. -/
theorem pendingWindows_missDeadlines (spans : List Span) : pendingWindows (missDeadlines spans) = [] := by
  rw [pendingWindows_eq_nil]
  intro l hl
  obtain ⟨m, -, rfl⟩ := mem_walkLayers_missDeadlines hl
  unfold Layer.missDeadline
  split
  · exact fun h => nomatch h
  · next h => exact h

theorem Layer.receive_status {sp : Span} {address : Nat} {data : List Byte} {l : Layer}
    (h : (l.receive sp address data).status = .pending) : l.status = .pending := by
  unfold Layer.receive at h
  simp only [] at h
  split at h
  · cases h
  · exact h

/-- R97 speaks of the places and the keys of the spans. -/
theorem spansLaw_of_form {spans' : List Span} (he : spans'.map Span.form = spans.map Span.form) {width budget : Nat}
    (h : SpansLaw width spans budget) : SpansLaw width spans' budget := by
  obtain ⟨hlow, hhigh, htile, hlayers, hbudget⟩ := h
  have hlength : spans'.length = spans.length := by simpa using congrArg List.length he
  have htiles : ∀ (ps qs : List Span) (x : Nat), ps.map Span.form = qs.map Span.form →
      SpansTile x width qs → SpansTile x width ps := by
    intro ps
    induction ps with
    | nil =>
      intro qs x e ht
      rw [List.map_nil, eq_comm, List.map_eq_nil_iff] at e
      rwa [e] at ht
    | cons p ps ih =>
      intro qs x e ht
      cases qs with
      | nil => cases e
      | cons q qs =>
        rw [List.map_cons, List.map_cons, List.cons.injEq] at e
        obtain ⟨hp, hps⟩ := e
        simp only [Span.form, Prod.mk.injEq] at hp
        obtain ⟨hstart, hend, -⟩ := hp
        obtain ⟨hx, hle, hrest⟩ := ht
        exact ⟨hstart.trans hx, hend ▸ hle, hend ▸ ih qs _ hps hrest⟩
  refine ⟨hlength ▸ hlow, hlength ▸ hhigh, htiles _ _ 0 he htile, fun sp hsp => ?_, hbudget⟩
  have hmem : sp.form ∈ spans.map Span.form := he ▸ List.mem_map_of_mem hsp
  obtain ⟨q, hq, e⟩ := List.mem_map.mp hmem
  simp only [Span.form, Prod.mk.injEq] at e
  obtain ⟨-, -, hkeys⟩ := e
  obtain ⟨hcount, hopaque⟩ := hlayers q hq
  have hl : q.layers.length = sp.layers.length := by simpa using congrArg List.length hkeys
  rw [opaqueLast_iff] at hopaque ⊢
  exact ⟨hl ▸ hcount, hkeys ▸ hopaque⟩
end

/-! ### What leaves timing sets and slots alone -/

/-- The timing sets and the slots are the same. -/
def StoreKept (s u : State) : Prop :=
  ∀ h, (u.head h).timing = (s.head h).timing ∧ (u.head h).slots = (s.head h).slots

section
variable {s u v : State}

theorem StoreKept.refl (s : State) : StoreKept s s := fun _ => ⟨rfl, rfl⟩

theorem StoreKept.trans (a : StoreKept s u) (b : StoreKept u v) : StoreKept s v := fun h =>
  ⟨(b h).1.trans (a h).1, (b h).2.trans (a h).2⟩

theorem StoreKept.of_heads (hh : ∀ h, u.head h = s.head h) : StoreKept s u := fun h => by rw [hh]; exact ⟨rfl, rfl⟩

theorem SameFetch.store (h : SameFetch s u) : StoreKept s u := fun x => by
  obtain ⟨q, l, e⟩ := h.heads x
  rw [e]
  exact ⟨rfl, rfl⟩

theorem setHead_storeKept {h : HeadId} {hd : Head} (ht : hd.timing = (s.head h).timing)
    (hs : hd.slots = (s.head h).slots) : StoreKept s (s.setHead h hd) := fun x => by
  rw [State.head_setHead]
  split
  · next e => subst e; exact ⟨ht, hs⟩
  · exact ⟨rfl, rfl⟩

theorem releaseRefs_storeKept (ws : List WindowId) (s : State) : StoreKept s (releaseRefs ws s) := fun x => by
  obtain ⟨q, -, e⟩ := releaseRefs_head s ws x
  rw [e]
  exact ⟨rfl, rfl⟩

theorem releaseRef_storeKept (w : WindowId) (s : State) : StoreKept s (releaseRef w s) := fun x => by
  obtain ⟨q, -, e⟩ := releaseRef_head s w x
  rw [e]
  exact ⟨rfl, rfl⟩

theorem freeTag_storeKept (t : TagNo) (s : State) : StoreKept s (freeTag t s) :=
  releaseRef_storeKept (s.tag t).window (s.setTag t { s.tag t with state := .free })

theorem applyQueue_sameFetch (h : HeadId) (s : State) : SameFetch s (applyQueue h s) := by
  rw [applyQueue_eq]
  exact (applyClients_sameFetch h _ s).trans (setHead_sameFetch h [] _)
end

/-! ### Laws of one slot -/

/-- A law about a line slot and the timing set of its head that each change of the slot keeps. The timing set fulfils
`V`; under `timed` it changes only where the slot is EMPTY. -/
structure SlotwiseLaw (timed : Prop) (V : TimingSet → Prop) (Q : Option TimingSet → Slot → Prop) : Prop where
  empty    : ∀ ts, Q ts .empty
  blank    : ∀ ts n, Q ts (.blank n)
  valid    : ∀ ts : TimingSet, ts.valid = true → V ts
  retime   : ∀ {ts ts' v}, (timed → v = .empty) → Q ts v → Q ts' v
  resolved : ∀ {t row n covers}, V t → Clipped t.activeWidth covers →
    Q (some t) (.active { phase := if pendingWindows (resolveLine row t.activeWidth covers).spans = [] then .complete
                                   else .fetching
                          line := n, spans := (resolveLine row t.activeWidth covers).spans
                          budget := (resolveLine row t.activeWidth covers).budget })
  missed   : ∀ {ts a}, Q ts (.active a) → Q ts (.active { a with phase := .showing, spans := missDeadlines a.spans })
  shown    : ∀ {ts a}, Q ts (.active a) → a.phase = .complete → Q ts (.active { a with phase := .showing })
  received : ∀ {ts a i j sp} (address data), Q ts (.active a) →
    Q ts (.active { a with spans := modifyLayer (Layer.receive sp address data) a.spans i j }.settle)
  dropped  : ∀ {ts a i j}, Q ts (.active a) →
    Q ts (.active { a with spans := modifyLayer (fun l => { l with status := .absent }) a.spans i j }.settle)

/-- The law for every slot of every head. -/
def EverySlot (V : TimingSet → Prop) (Q : Option TimingSet → Slot → Prop) (s : State) : Prop :=
  ∀ h, (∀ t, (s.head h).timing = some t → V t) ∧ ∀ k : SlotNo, Q (s.head h).timing (s.head h).slots[k]

section
variable {timed : Prop} {V : TimingSet → Prop} {Q : Option TimingSet → Slot → Prop} {s u : State}

theorem EverySlot.of_store (hs : EverySlot V Q s) (hu : StoreKept s u) : EverySlot V Q u := fun h => by
  obtain ⟨ht, hslots⟩ := hu h
  rw [ht, hslots]
  exact hs h

theorem Vector.getElem_slot_set {v : Vector Slot 3} {k : SlotNo} {a : Slot} (j : SlotNo) :
    (v.set k a)[j] = if k = j then a else v[j] := by
  by_cases h : k = j
  · subst h; simp
  · have hval : k.val ≠ j.val := fun e => h (Fin.ext e)
    rw [if_neg h]
    exact Vector.getElem_set_ne k.isLt j.isLt hval

/-- One slot of one head is replaced. -/
theorem EverySlot.setSlots (hs : EverySlot V Q s) {h : HeadId} {k : SlotNo} {v : Slot} {hd : Head}
    (hv : Q (s.head h).timing v) (ht : hd.timing = (s.head h).timing) (hk : hd.slots = (s.head h).slots.set k v) :
    EverySlot V Q (s.setHead h hd) := fun x => by
  rw [State.head_setHead]
  split
  · next e =>
    subst e
    obtain ⟨hV, hQ⟩ := hs h
    rw [ht]
    refine ⟨hV, fun j => ?_⟩
    have hj : hd.slots[j] = if k = j then v else (s.head h).slots[j] := by
      simp only [hk]
      exact Vector.getElem_slot_set j
    rw [hj]
    split
    · exact hv
    · exact hQ j
  · exact hs x

theorem EverySlot.setSlot (hs : EverySlot V Q s) {h : HeadId} {k : SlotNo} {v : Slot} {p : Option Pos}
    (hv : Q (s.head h).timing v) : EverySlot V Q (setSlot h k v p s) := hs.setSlots hv rfl rfl

theorem EverySlot.putContent (hs : EverySlot V Q s) {h : HeadId} {k : SlotNo} {a : ActiveLine}
    (ha : Q (s.head h).timing (.active a.settle)) : EverySlot V Q (putContent h k a s) := hs.setSlot ha

variable (law : SlotwiseLaw timed V Q)
include law

theorem SlotwiseLaw.emptySlot (hs : EverySlot V Q s) (h : HeadId) (k : SlotNo) : EverySlot V Q (emptySlot h k s) := by
  have hset : EverySlot V Q (Machine.setSlot h k .empty none s) := hs.setSlot (law.empty _)
  exact (hset.of_store (.of_heads fun x => staleTags_head _ _ x)).of_store (releaseRefs_storeKept _ _)

theorem SlotwiseLaw.resolveInto (hs : EverySlot V Q s) (h : HeadId) (k : SlotNo) (n : Nat) :
    EverySlot V Q (resolveInto h k n s) := by
  cases ht : (s.head h).timing with
  | none => unfold Machine.resolveInto; rw [ht]; exact hs
  | some t =>
    rcases resolveInto_cases h k n s ht with ⟨-, e⟩ | ⟨-, r, rfl, e⟩ <;> rw [e]
    · exact hs.setSlot (law.blank _ n)
    · have hclipped : Clipped t.activeWidth (coversOf (n - t.activeFirstLine) t.activeWidth h s) := fun c hc => by
        obtain ⟨hlo, hpast, -⟩ := (coversAreClippedToTheLine s h (n - t.activeFirstLine) t.activeWidth).1 c hc
        exact ⟨hlo, hpast⟩
      refine EverySlot.of_store (EverySlot.setSlot (h := h) (k := k) hs ?_)
        (.of_heads fun x => by rw [notifyOwners_head, addRefs_head])
      rw [ht]
      exact law.resolved ((hs h).1 t ht) hclipped

theorem SlotwiseLaw.takeDeadline (hs : EverySlot V Q s) (h : HeadId) : EverySlot V Q (takeDeadline h s) := by
  unfold Machine.takeDeadline
  simp only []
  split
  · split
    · exact hs
    · next k _ =>
      split
      · next a ha =>
        have hQ := (hs h).2 k
        rw [ha] at hQ
        split
        · refine EverySlot.of_store ?_ (releaseRefs_storeKept _ _)
          refine EverySlot.of_store ?_ (.of_heads fun x => notifyOwners_head _ _ _ x)
          refine EverySlot.of_store ?_ (.of_heads fun x => staleTags_head _ _ x)
          exact hs.setSlots (h := h) (k := k) (law.missed hQ) rfl rfl
        · next hp => exact hs.setSlots (h := h) (k := k) (law.shown hQ hp) rfl rfl
        · exact hs
      · exact hs
  · exact hs

theorem SlotwiseLaw.okResponse (hs : EverySlot V Q s) (t : TagNo) (data : List Byte) :
    EverySlot V Q (okResponse t data s) := by
  unfold Machine.okResponse
  simp only []
  refine EverySlot.of_store ?_ (freeTag_storeKept t _)
  split
  · next a ha =>
    have hQ := (hs (s.tag t).head).2 (s.tag t).slot
    rw [ha] at hQ
    split
    · exact hs.putContent (law.received _ _ hQ)
    · exact hs
  · exact hs

theorem SlotwiseLaw.dropSegment (hs : EverySlot V Q s) (h : HeadId) (k : SlotNo) (i j : Nat) :
    EverySlot V Q (dropSegment h k i j s) := by
  unfold Machine.dropSegment
  split
  · next a ha =>
    have hQ := (hs h).2 k
    rw [ha] at hQ
    split
    · have hput := hs.putContent (h := h) (k := k) (law.dropped (i := i) (j := j) hQ)
      simp only []
      split
      · exact hput
      · exact hput.of_store (releaseRef_storeKept _ _)
    · exact hs
  · exact hs

theorem SlotwiseLaw.errorResponse (hs : EverySlot V Q s) (t : TagNo) : EverySlot V Q (errorResponse t s) := by
  rw [errorResponse_eq]
  have hdropped := law.dropSegment hs (s.tag t).head (s.tag t).slot (s.tag t).span (s.tag t).layer
  refine (hdropped.of_store (.of_heads fun x => ?_)).of_store (freeTag_storeKept t _)
  rw [setFault_head, staleTags_head]

/-- A law of one slot is kept in every slot. -/
theorem SlotwiseLaw.fetchLaw : FetchLaw False timed (EverySlot V Q) where
  counters hv hs := hs.of_store (setHead_storeKept hv.timing hv.slots)
  notify hs := hs.of_store (.of_heads fun _ => rfl)
  emptySlot h k hs := law.emptySlot hs h k
  resolve n _ hs := law.resolveInto hs _ _ n
  apply h hs := hs.of_store (applyQueue_sameFetch h _).store
  stale p hs := hs.of_store (.of_heads fun x => staleTags_head _ p x)
  age h hs := hs.of_store (.of_heads fun x => ageTags_head h _ x)
  draws _ hs := hs
  reset h := by
    rw [State.reset_head]
    refine ⟨fun t ht => (nomatch ht), fun k => ?_⟩
    rw [Head.reset_slotsEmpty k]
    exact law.empty _
  outside hs hu := hs.of_store (.of_heads hu.heads)
  body _ hf hs := hs.of_store hf.store
  setTiming {s h ts} hempty hvalid hs x := by
    rw [State.head_setHead]
    split
    · next e =>
      subst e
      exact ⟨fun t ht => Option.some.inj ht ▸ law.valid ts hvalid, fun k => law.retime (fun ht => hempty ht k) ((hs h).2 k)⟩
    · exact hs x
  deadline h hs := law.takeDeadline hs h
  issue {s t r} _ hs := hs.of_store (setHead_storeKept (s := s) rfl rfl)
  ok data _ hs := law.okResponse hs _ data
  error _ hs := law.errorResponse hs _
  late _ hs := hs.of_store (freeTag_storeKept _ _)
end

/-! ### Slots fit the timing set (R97, R134) -/

/-- R97, R134: an active line fits the timing set, and has nothing PENDING outside FETCHING. -/
def Slot.FitsTiming (ts : Option TimingSet) (v : Slot) : Prop :=
  ∀ a, v = .active a → ∃ t, ts = some t ∧ SpansLaw t.activeWidth a.spans a.budget ∧
    (a.phase ≠ .fetching → pendingWindows a.spans = [])

/-- R112: settling keeps what is said of phases and PENDING segments. -/
theorem settle_nothing_pending {a : ActiveLine} (h : a.phase ≠ .fetching → pendingWindows a.spans = []) :
    a.settle.phase ≠ .fetching → pendingWindows a.settle.spans = [] := by
  unfold ActiveLine.settle
  split
  · next hc => exact fun _ => hc.2
  · exact h

/-- A line with one segment changed, and none made PENDING. -/
theorem Slot.FitsTiming.modify {ts : Option TimingSet} {a : ActiveLine} {f : Layer → Layer} {i j : Nat}
    (h : Slot.FitsTiming ts (.active a)) (hkey : ∀ l, (f l).key = l.key)
    (hstatus : ∀ l, (f l).status = .pending → l.status = .pending) :
    Slot.FitsTiming ts (.active { a with spans := modifyLayer f a.spans i j }.settle) := by
  obtain ⟨t, ht, hspans, hpending⟩ := h a rfl
  intro b hb
  cases hb
  refine ⟨t, ht, ?_, settle_nothing_pending fun hp => pendingWindows_modifyLayer hstatus (hpending hp)⟩
  have hmodified := spansLaw_of_form (modifyLayer_form (spans := a.spans) (i := i) (j := j) hkey) hspans
  rw [ActiveLine.settle_eq]
  exact hmodified

theorem fitsTiming_slotwise : SlotwiseLaw True (fun ts => ts.valid = true) Slot.FitsTiming where
  empty _ _ h := nomatch h
  blank _ _ _ h := nomatch h
  valid _ h := h
  retime he _ a ha := nomatch (he trivial).symm.trans ha
  resolved {t row n covers} hV hclipped a ha := by
    cases ha
    refine ⟨t, rfl, resolveLine_spansLaw (TimingSet.valid_totals hV).2.2.1 hclipped, fun hp => ?_⟩
    dsimp only at hp ⊢
    by_contra hne
    exact hp (if_neg hne)
  missed {ts a} h b hb := by
    cases hb
    obtain ⟨t, ht, hspans, -⟩ := h a rfl
    exact ⟨t, ht, spansLaw_of_form (missDeadlines_form a.spans) hspans, fun _ => pendingWindows_missDeadlines a.spans⟩
  shown {ts a} h hp b hb := by
    cases hb
    obtain ⟨t, ht, hspans, hpending⟩ := h a rfl
    exact ⟨t, ht, hspans, fun _ => hpending (by rw [hp]; exact fun h => nomatch h)⟩
  received address data h := h.modify (fun _ => rfl) fun _ => Layer.receive_status
  dropped h := h.modify (fun _ => rfl) fun _ hp => nomatch hp

theorem TimingLaw.valid {s : State} (h : TimingLaw s) {x : HeadId} {t : TimingSet} (ht : (s.head x).timing = some t) :
    t.valid = true := ((Head.timingFits_of_timing ht).mp (h x)).1

/-- R42: a STOPPED head's slots stay EMPTY. -/
theorem TimerStep.stoppedEmpty {hd v : Head} (h : TimerStep hd v) (he : hd.state = .stopped → hd.SlotsEmpty) :
    v.state = .stopped → v.SlotsEmpty := by
  have quiet {w : Head} (k : HeadQuiet w v) (hw : w.state = .stopped → w.SlotsEmpty) :
      v.state = .stopped → v.SlotsEmpty := fun hv =>
    k.empty (hw ((Head.fields_of_counters k.counters).1 ▸ hv))
  cases h with
  | same k => exact quiet k he
  | timed ts _ _ k => exact quiet k he
  | started st hs _ _ k => exact quiet k fun _ => he hs
  | halted _ hempty => exact fun _ => hempty
  | line t _ hdue e =>
    intro hv
    rw [(Head.fields_of_counters e).1] at hv
    exact absurd hv (stateAfter_ne_stopped (Head.running_of_lineStartDue hdue))
  | active _ k => exact quiet k he
  | advanced _ _ k => exact quiet k he
  | mark k =>
    refine quiet k fun hm j => ?_
    rw [(takeMark_sameStore hd).slots]
    exact he ((takeMark_place hd).1 ▸ hm) j
  | reset e => rw [e]; exact fun _ => Head.reset_slotsEmpty

theorem StepEffect.slotsAndTiming {s u : State} (h : StepEffect s u) (hs : SlotLaw s ∧ TimingLaw s) :
    SlotLaw u ∧ TimingLaw u := by
  obtain ⟨hslots, htiming⟩ := hs
  have hevery : EverySlot (fun ts => ts.valid = true) Slot.FitsTiming s := fun x =>
    ⟨fun _ ht => htiming.valid ht, fun k => (hslots x).2 k⟩
  have hkept := fitsTiming_slotwise.fetchLaw.of_effect (fun hf => hf.elim) (fun _ x => (hslots x).1) h hevery
  exact ⟨fun x => ⟨(h.timer x).stoppedEmpty (hslots x).1, fun k => (hkept x).2 k⟩, h.timingLaw htiming⟩

/-- Settles O56: slots by the law of one slot, counters by the steps of the timers. -/
theorem stepKeepsSlotsAndTiming : Obligations.StepKeepsSlotsAndTiming := fun _ _ hs ht h =>
  step_keeps (P := fun s => SlotLaw s ∧ TimingLaw s) (fun _ _ hs => hs) (fun _ _ hs he => he.slotsAndTiming hs)
    ⟨hs, ht⟩ h

/-! ### Segment bytes -/

/-- Every layer of an active line holds its bytes in canonical form. -/
def Slot.BytesRise (v : Slot) : Prop := ∀ a, v = .active a → ∀ l ∈ walkLayers a.spans, l.bytesWf = true

/-- A line with one segment changed. -/
theorem Slot.BytesRise.modify {a : ActiveLine} {f : Layer → Layer} {i j : Nat} (h : Slot.BytesRise (.active a))
    (hf : ∀ l, l.bytesWf = true → (f l).bytesWf = true) :
    Slot.BytesRise (.active { a with spans := modifyLayer f a.spans i j }.settle) := by
  intro b hb l hl
  cases hb
  rw [ActiveLine.settle_eq] at hl
  obtain ⟨m, hm, rfl | rfl⟩ := mem_walkLayers_modifyLayer hl
  · exact h a rfl l hm
  · exact hf m (h a rfl m hm)

theorem mem_chargeStack {row x width used : Nat} {cs : List Cover} {l : Layer}
    (h : l ∈ (chargeStack row x width used cs).1) : ∃ c ∈ cs, { l with status := .absent } = layerOf row x c .absent := by
  have hmem : { l with status := .absent } ∈ cs.map (layerOf row x · .absent) := by
    rw [← chargeStack_layers row x width used cs]
    exact List.mem_map_of_mem (f := fun l : Layer => { l with status := .absent }) h
  obtain ⟨c, hc, e⟩ := List.mem_map.mp hmem
  exact ⟨c, hc, e.symm⟩

/-- R94: a layer of a resolved line has no bytes yet. -/
theorem resolveLine_fresh {row width : Nat} {covers : List Cover} {l : Layer}
    (h : l ∈ walkLayers (resolveLine row width covers).spans) : l.bytes = [] ∧ l.arrived = 0 := by
  obtain ⟨sp, hsp, hl⟩ := List.mem_flatMap.mp h
  rw [resolveLine_spans] at hsp
  obtain ⟨r, -, before, rfl⟩ := mem_chargeRuns hsp
  obtain ⟨c, -, e⟩ := mem_chargeStack hl
  simp only [layerOf, Layer.mk.injEq] at e
  exact ⟨e.2.2.2.2.2.2.1, e.2.2.2.2.2.2.2⟩

theorem bytesRise_slotwise : SlotwiseLaw False (fun _ => True) fun _ => Slot.BytesRise where
  empty _ _ h := nomatch h
  blank _ _ _ h := nomatch h
  valid _ _ := trivial
  retime _ h := h
  resolved _ _ a ha l hl := by
    cases ha
    rw [Layer.bytesWf, (resolveLine_fresh hl).1]
    rfl
  missed {ts a} h b hb l hl := by
    cases hb
    obtain ⟨m, hm, rfl⟩ := mem_walkLayers_missDeadlines hl
    have hkept : m.missDeadline.bytesWf = m.bytesWf := by
      unfold Layer.missDeadline
      split <;> rfl
    rw [hkept]
    exact h a rfl m hm
  shown {ts a} h _ b hb := by
    cases hb
    exact h a rfl
  received address data h := h.modify fun l hl => l.receive_bytesWf hl _ _ _
  dropped h := h.modify fun _ hl => hl

theorem bytesLaw_iff {s : State} : BytesLaw s ↔ EverySlot (fun _ => True) (fun _ => Slot.BytesRise) s :=
  ⟨fun h x => ⟨fun _ _ => trivial, fun k a ha => h x k a ha⟩, fun h x k a ha => (h x).2 k a ha⟩

theorem StepEffect.bytesLaw {s u : State} (h : StepEffect s u) (hs : BytesLaw s) : BytesLaw u :=
  bytesLaw_iff.mpr (bytesRise_slotwise.fetchLaw.of_effect (fun hf => hf.elim) (fun hf => hf.elim) h (bytesLaw_iff.mp hs))

end Sys2Proof.Machine
end

section
/-! What the parts of a step do to tags: the ages of tags (R104, R120), and that no part but an issue makes a tag
ACTIVE. -/

namespace Sys2Proof.Machine

/-- The parts of a step that are no issue: a tag stays, becomes STALE, becomes FREE or ages (R105, R110, R120). -/
inductive TagStep (tg : Tag) : Tag → Prop
  | same : TagStep tg tg
  | stale (active : tg.state = .active) : TagStep tg { tg with state := .stale }
  | freed : TagStep tg { tg with state := .free }
  | aged (h : HeadId) : TagStep tg (tg.aged h)

/-- R104, R120: the age of a tag fits its state. -/
def Tag.AgeFits (tg : Tag) : Prop :=
  tg.age ≤ expiryAge ∧ (tg.state = .active ∨ tg.state = .stale → tg.age < expiryAge) ∧
    (tg.state = .abandoned → tg.age = expiryAge)

theorem Tag.AgeFits.aged {tg : Tag} (hs : tg.AgeFits) (h : HeadId) : (tg.aged h).AgeFits := by
  obtain ⟨hle, hlt, heq⟩ := hs
  unfold Tag.aged
  split
  · next ha =>
    simp only [Tag.agesWith, Bool.and_eq_true, Bool.or_eq_true, beq_iff_eq] at ha
    have hyoung := hlt ha.2
    by_cases he : tg.age + 1 = expiryAge
    · rw [if_pos he]
      exact ⟨he.le, fun h => by simp at h, fun _ => he⟩
    · rw [if_neg he]
      have hyounger : tg.age + 1 < expiryAge := lt_of_le_of_ne hyoung he
      refine ⟨hyounger.le, fun _ => hyounger, fun h => ?_⟩
      have hgone : ¬ (tg.state = .active ∨ tg.state = .stale) := by rw [show tg.state = .abandoned from h]; simp
      exact absurd ha.2 hgone
  · exact ⟨hle, hlt, heq⟩

theorem TagStep.ageFits {tg tg' : Tag} (h : TagStep tg tg') (hs : tg.AgeFits) : tg'.AgeFits := by
  cases h with
  | same => exact hs
  | stale ha => exact ⟨hs.1, fun _ => hs.2.1 (.inl ha), fun h => nomatch h⟩
  | freed => exact ⟨hs.1, fun h => by simp at h, fun h => nomatch h⟩
  | aged h => exact hs.aged h

/-! ### The parts of a step -/

section
variable (s : State)

theorem staleTags_tagStep (p : Tag → Bool) (t : TagNo) : TagStep (s.tag t) ((staleTags p s).tag t) := by
  rw [staleTags_tag]
  split
  · next h => exact .stale h.1
  · exact .same

theorem freeTag_tagStep (i t : TagNo) : TagStep (s.tag t) ((freeTag i s).tag t) := by
  rw [freeTag_tag]
  split
  · next e => subst e; exact .freed
  · exact .same

theorem emptySlot_tagStep (h : HeadId) (k : SlotNo) (t : TagNo) : TagStep (s.tag t) ((emptySlot h k s).tag t) := by
  rw [emptySlot_tag]
  split
  · next h => exact .stale h.1
  · exact .same

theorem ageTags_tagStep (h : HeadId) (t : TagNo) : TagStep (s.tag t) ((ageTags h s).tag t) := by
  rw [ageTags_tag]
  exact .aged h

/-- R117: the head whose slot `k` the Line Assembler takes with content `a`. -/
def Head.takes (hd : Head) (k : SlotNo) (a : ActiveLine) : Head :=
  { hd with
    slots := hd.slots.set k (.active { a with phase := .showing })
    cursor := hd.cursor.set k none
    showing := some { slot := k, position := 0 } }

/-- R117: the deadline of a FETCHING slot up to its notices and releases. -/
def segmentsMissed (h : HeadId) (k : SlotNo) (a : ActiveLine) (s : State) : State :=
  staleTags (fun u => u.head == h && u.slot == k)
    (s.setHead h ((s.head h).takes k { a with spans := missDeadlines a.spans }))

/-- R117, R118: what the deadline can do. -/
theorem takeDeadline_cases (h : HeadId) : takeDeadline h s = s ∨
    (∃ k a, (s.head h).slots[k] = .active a ∧ a.phase = .complete ∧
      takeDeadline h s = s.setHead h ((s.head h).takes k a)) ∨
    (∃ k a, (s.head h).slots[k] = .active a ∧ a.phase = .fetching ∧
      takeDeadline h s = releaseRefs (pendingWindows a.spans)
        (notifyOwners .underrun (pendingWindows a.spans) (segmentsMissed h k a s))) := by
  unfold takeDeadline
  simp only []
  split
  · split
    · exact .inl rfl
    · next k _ =>
      split
      · next a ha =>
        split
        · next hp => exact .inr (.inr ⟨k, a, ha, hp, rfl⟩)
        · next hp => exact .inr (.inl ⟨k, a, ha, hp, rfl⟩)
        · exact .inl rfl
      · exact .inl rfl
  · exact .inl rfl

theorem segmentsMissed_tag (h : HeadId) (k : SlotNo) (a : ActiveLine) (t : TagNo) : (segmentsMissed h k a s).tag t =
    if (s.tag t).state = .active ∧ (s.tag t).head = h ∧ (s.tag t).slot = k then { s.tag t with state := .stale }
    else s.tag t := by
  rw [segmentsMissed, staleTags_tag]
  simp only [State.tag_setHead, Bool.and_eq_true, beq_iff_eq]

theorem takeDeadline_tagStep (h : HeadId) (t : TagNo) : TagStep (s.tag t) ((takeDeadline h s).tag t) := by
  rcases takeDeadline_cases s h with e | ⟨k, a, -, -, e⟩ | ⟨k, a, -, -, e⟩ <;> rw [e]
  · exact .same
  · exact .same
  · rw [releaseRefs_tag, notifyOwners_tag, segmentsMissed_tag]
    split
    · next h => exact .stale h.1
    · exact .same

@[simp] theorem dropSegment_tag (h : HeadId) (k : SlotNo) (i j : Nat) (t : TagNo) :
    (dropSegment h k i j s).tag t = s.tag t := by
  unfold dropSegment
  split
  · split
    · simp only []
      split
      · rfl
      · rw [releaseRef_tag]; rfl
    · rfl
  · rfl

/-- R111: an OK response frees its tag. -/
theorem okResponse_tag (i t : TagNo) (data : List Byte) :
    (okResponse i data s).tag t = if i = t then { s.tag i with state := .free } else s.tag t := by
  unfold okResponse
  simp only []
  rw [freeTag_tag]
  repeat' split
  all_goals rfl

/-- R113: an ERROR response frees its tag and makes the other tags of its segment STALE. -/
theorem errorResponse_tag (i t : TagNo) : (errorResponse i s).tag t =
    if i = t then { s.tag i with state := .free } else
    if (s.tag t).state = .active ∧ (s.tag i).sameSegment (s.tag t) = true then { s.tag t with state := .stale }
    else s.tag t := by
  rw [errorResponse_eq, freeTag_tag]
  simp only [setFault_tag, staleTags_tag, dropSegment_tag]
  split
  · split <;> rfl
  · rfl

theorem okResponse_tagStep (i t : TagNo) (data : List Byte) : TagStep (s.tag t) ((okResponse i data s).tag t) := by
  rw [okResponse_tag]
  split
  · next e => subst e; exact .freed
  · exact .same

theorem errorResponse_tagStep (i t : TagNo) : TagStep (s.tag t) ((errorResponse i s).tag t) := by
  rw [errorResponse_tag]
  split
  · next e => subst e; exact .freed
  · split
    · next h => exact .stale h.1
    · exact .same

/-- R106: the tag of an issue is ACTIVE with age 0; the others stay. -/
theorem issue_tag (t x : TagNo) (r : Request) : (issue t r s).tag x = if t = x then
    { state := .active, head := r.head, slot := r.slot, span := r.pos.span, layer := r.pos.layer
      window := r.window, address := r.address, byteCount := r.byteCount, age := 0 } else s.tag x := by
  refine Eq.trans ?_ (State.tag_setTag s t x _)
  rfl
end

/-! ### Ages (R104, R120) -/

theorem tagLaw_iff {s : State} : TagLaw s ↔ ∀ t, (s.tag t).AgeFits := Iff.rfl

theorem TagLaw.of_tagSteps {s u : State} (hs : TagLaw s) (h : ∀ t, TagStep (s.tag t) (u.tag t)) : TagLaw u :=
  fun t => (h t).ageFits (hs t)

theorem TagLaw.of_tags {s u : State} (hs : TagLaw s) (h : ∀ t, u.tag t = s.tag t) : TagLaw u :=
  hs.of_tagSteps fun t => h t ▸ .same

/-- A tag that is ACTIVE with age 0 fits (R106). -/
theorem Tag.ageFits_of_new {tg : Tag} (ha : tg.state = .active) (h0 : tg.age = 0) : tg.AgeFits :=
  ⟨by omega, fun _ => by rw [h0]; decide, fun h => by rw [ha] at h; cases h⟩

theorem tagLaw_fetchLaw : FetchLaw False False TagLaw where
  counters _ hs := hs
  notify hs := hs.of_tags fun _ => notify_tag _ _ _ _
  emptySlot h k hs := hs.of_tagSteps fun t => emptySlot_tagStep _ h k t
  resolve n _ hs := hs.of_tags fun t => resolveInto_tag _ _ n _ t
  apply h hs := hs.of_tags (applyQueue_sameFetch h _).tags
  stale p hs := hs.of_tagSteps fun t => staleTags_tagStep _ p t
  age h hs := hs.of_tagSteps fun t => ageTags_tagStep _ h t
  draws _ hs := hs
  reset t := by
    rw [State.reset_tag]
    exact ⟨Nat.zero_le _, fun h => (h.elim (fun h => nomatch h) fun h => nomatch h), fun h => (nomatch h)⟩
  outside hs hu := hs.of_tags hu.tags
  body _ hf hs := hs.of_tags hf.tags
  setTiming _ _ hs := hs
  deadline h hs := hs.of_tagSteps fun t => takeDeadline_tagStep _ h t
  issue {s t r} _ hs x := by
    rw [issue_tag]
    split
    · exact Tag.ageFits_of_new rfl rfl
    · exact hs x
  ok data _ hs := hs.of_tagSteps fun t => okResponse_tagStep _ _ t data
  error _ hs := hs.of_tagSteps fun t => errorResponse_tagStep _ _ t
  late _ hs := hs.of_tagSteps fun t => freeTag_tagStep _ _ t

theorem StepEffect.tagLaw {s u : State} (h : StepEffect s u) (hs : TagLaw s) : TagLaw u :=
  tagLaw_fetchLaw.of_effect (fun hf => hf.elim) (fun hf => hf.elim) h hs

end Sys2Proof.Machine
end

section
/-! What ACTIVE tags and the cursor serve (R101, R105): the law of one line slot, and what the parts of a step do to it. -/

namespace Sys2Proof.Machine

/-! ### The content of a slot with its place in the cursor -/

/-- Slot `k` of head `h` with its place in the cursor. -/
def State.place (s : State) (h : HeadId) (k : SlotNo) : Slot × Option Pos := ((s.head h).slots[k], (s.head h).cursor[k])

section
variable {s u : State} {h x : HeadId} {k j : SlotNo}

theorem Vector.getElem_pos_set {v : Vector (Option Pos) 3} {p : Option Pos} :
    (v.set k p)[j] = if k = j then p else v[j] := by
  by_cases h : k = j
  · subst h; simp
  · have hval : k.val ≠ j.val := fun e => h (Fin.ext e)
    rw [if_neg h]
    exact Vector.getElem_set_ne k.isLt j.isLt hval

theorem State.place_of_heads (hh : ∀ x, ∃ q l, u.head x = { s.head x with commitQueue := q, depthList := l }) :
    u.place h k = s.place h k := by
  obtain ⟨q, l, e⟩ := hh h
  rw [State.place, e]
  rfl

theorem SameFetch.place (hf : SameFetch s u) : u.place h k = s.place h k := State.place_of_heads hf.heads

theorem place_of_head_eq (e : u.head h = s.head h) : u.place h k = s.place h k := by rw [State.place, e]; rfl

@[simp] theorem releaseRefs_place (ws : List WindowId) : (releaseRefs ws s).place h k = s.place h k :=
  State.place_of_heads fun x => by
    obtain ⟨q, -, e⟩ := releaseRefs_head s ws x
    exact ⟨q, _, e⟩

@[simp] theorem releaseRef_place (w : WindowId) : (releaseRef w s).place h k = s.place h k := releaseRefs_place [w]

@[simp] theorem freeTag_place (t : TagNo) : (freeTag t s).place h k = s.place h k :=
  releaseRef_place (s := s.setTag t { s.tag t with state := .free }) (s.tag t).window

@[simp] theorem staleTags_place (p : Tag → Bool) : (staleTags p s).place h k = s.place h k :=
  place_of_head_eq (staleTags_head s p h)

@[simp] theorem notifyOwners_place (mk : WindowId → Notice) (ws : List WindowId) :
    (notifyOwners mk ws s).place h k = s.place h k := place_of_head_eq (notifyOwners_head _ _ _ h)

@[simp] theorem addRefs_place (ws : List WindowId) : (addRefs ws s).place h k = s.place h k :=
  place_of_head_eq (addRefs_head _ _ h)

@[simp] theorem setFault_place (w : WindowId) (address : Nat) : (setFault w address s).place h k = s.place h k :=
  place_of_head_eq (setFault_head _ _ _ h)

/-- A head with one slot and its place in the cursor replaced. -/
theorem setHead_place {hd : Head} {v : Slot} {p : Option Pos} (hv : hd.slots = (s.head h).slots.set k v)
    (hp : hd.cursor = (s.head h).cursor.set k p) :
    (s.setHead h hd).place x j = if h = x ∧ k = j then (v, p) else s.place x j := by
  rw [State.place, State.head_setHead]
  by_cases hx : h = x
  · subst hx
    simp only [if_true, true_and, hv, hp, Vector.getElem_slot_set, Vector.getElem_pos_set]
    split <;> rfl
  · rw [if_neg hx, if_neg fun e => hx e.1]
    rfl

theorem setSlot_place (v : Slot) (p : Option Pos) :
    (setSlot h k v p s).place x j = if h = x ∧ k = j then (v, p) else s.place x j := setHead_place rfl rfl

theorem putContent_place (a : ActiveLine) : (putContent h k a s).place x j =
    if h = x ∧ k = j then (.active a.settle, (s.place h k).2.bind (nextPending a.spans)) else s.place x j :=
  setSlot_place _ _

/-- R84. -/
theorem emptySlot_place : (emptySlot h k s).place x j = if h = x ∧ k = j then (.empty, none) else s.place x j := by
  unfold emptySlot
  simp only [releaseRefs_place, staleTags_place]
  exact setSlot_place _ _

/-- R106. -/
theorem issue_place (t : TagNo) (r : Request) : (issue t r s).place x j =
    if r.head = x ∧ r.slot = j then ((s.place x j).1, r.after) else s.place x j := by
  have hslots : (s.head r.head).slots = (s.head r.head).slots.set r.slot (s.head r.head).slots[r.slot] := by simp
  refine Eq.trans (setHead_place (s := s) (h := r.head) (k := r.slot)
    (hd := { s.head r.head with cursor := (s.head r.head).cursor.set r.slot r.after }) hslots rfl) ?_
  split
  · next e => obtain ⟨rfl, rfl⟩ := e; rfl
  · rfl
end

/-! ### Segments of spans -/

/-- `l` is the layer at span `i`, layer `j`, and `sp` the span. -/
def Segment (spans : List Span) (i j : Nat) (sp : Span) (l : Layer) : Prop :=
  spans[i]? = some sp ∧ sp.layers[j]? = some l

section
variable {spans : List Span} {i j x y : Nat} {sp : Span} {l : Layer} {f : Layer → Layer}

theorem Segment.layerAt (h : Segment spans i j sp l) : layerAt spans i j = some l := by
  simp only [Machine.layerAt, h.1, h.2]

theorem Segment.of_layerAt (h : Machine.layerAt spans i j = some l) : ∃ sp, Segment spans i j sp l := by
  unfold Machine.layerAt at h
  split at h
  · next sp hsp => exact ⟨sp, hsp, h⟩
  · cases h

theorem Segment.unique {sp' : Span} {l' : Layer} (h : Segment spans i j sp l) (h' : Segment spans i j sp' l') :
    sp' = sp ∧ l' = l := by
  obtain ⟨hsp, hl⟩ := h
  obtain ⟨hsp', hl'⟩ := h'
  rw [hsp, Option.some.injEq] at hsp'
  subst hsp'
  rw [hl, Option.some.injEq] at hl'
  exact ⟨rfl, hl'.symm⟩

theorem Segment.mem_walkLayers (h : Segment spans i j sp l) : l ∈ walkLayers spans :=
  List.mem_flatMap.mpr ⟨sp, List.mem_of_getElem? h.1, List.mem_of_getElem? h.2⟩

theorem segmentLength_pos (sp : Span) (l : Layer) : 0 < segmentLength sp l := by
  refine Nat.mul_pos (Nat.succ_pos _) ?_
  cases l.format <;> decide

/-- The segments of spans with one layer changed. -/
theorem segment_modifyLayer {sp' : Span} {m : Layer} : Segment (modifyLayer f spans i j) x y sp' m ↔
    ∃ sp l, Segment spans x y sp l ∧ (sp' = if i = x then { sp with layers := sp.layers.modify j f } else sp) ∧
      m = if i = x ∧ j = y then f l else l := by
  unfold Segment
  rw [modifyLayer_getElem?]
  constructor
  · rintro ⟨hsp, hm⟩
    obtain ⟨sp, hspan, rfl⟩ := Option.map_eq_some_iff.mp hsp
    by_cases hi : i = x
    · rw [if_pos hi, List.getElem?_modify] at hm
      obtain ⟨l, hl, rfl⟩ := Option.map_eq_some_iff.mp hm
      exact ⟨sp, l, ⟨hspan, hl⟩, rfl, by by_cases hj : j = y <;> simp [hi, hj]⟩
    · rw [if_neg hi] at hm
      exact ⟨sp, m, ⟨hspan, hm⟩, rfl, by simp [hi]⟩
  · rintro ⟨sp, l, ⟨hsp, hl⟩, rfl, rfl⟩
    refine ⟨by rw [hsp, Option.map_some], ?_⟩
    by_cases hi : i = x
    · rw [if_pos hi, List.getElem?_modify, hl]
      by_cases hj : j = y <;> simp [hi, hj]
    · rw [if_neg hi, hl]
      simp [hi]

/-- R94: the length of a segment does not change with its bytes and its status. -/
theorem segmentLength_modify {m : Layer} (hm : m.format = l.format) :
    segmentLength (if i = x then { sp with layers := sp.layers.modify j f } else sp) m = segmentLength sp l := by
  unfold segmentLength
  rw [hm]
  split <;> rfl
end

/-! ### Bytes left to issue -/

/-- R102: the walk has come from one place in the cursor to another. -/
def Pos.Reaches (p q : Pos) : Prop := WalkBefore p.span p.layer q.span q.layer ∨ p = q

theorem bytesToIssue_le_of_reaches {p : Pos} {after : Option Pos} (h : ∀ q, after = some q → p.Reaches q)
    (i j len : Nat) : bytesToIssue after i j len ≤ bytesToIssue (some p) i j len := by
  cases after with
  | none => exact Nat.zero_le _
  | some q =>
    rcases h q rfl with hb | rfl
    · simp only [bytesToIssue, WalkBefore] at hb ⊢
      split_ifs <;> omega
    · exact Nat.le_refl _

/-- R101, R113: the place in the cursor moves on the walk, to a PENDING segment. -/
theorem nextPending_reaches {spans : List Span} {p q : Pos} (h : nextPending spans p = some q) :
    p.Reaches q ∧ PendingAt spans q.span q.layer ∧ (p = q ∨ q.offset = 0) := by
  by_cases hp : PendingAt spans p.span p.layer
  · rw [nextPending_of_pending hp, Option.some.injEq] at h
    subst h
    exact ⟨.inr rfl, hp, .inl rfl⟩
  · obtain ⟨h0, hbehind, hpending, -⟩ := (nextPending_of_not_pending hp).mp h
    exact ⟨.inl hbehind, hpending, .inr h0⟩

/-! ### Bytes under way -/

/-- Bytes a tag has under way for a segment. -/
def Tag.bytesServed (tg : Tag) (h : HeadId) (k : SlotNo) (i j : Nat) : Nat :=
  if tg.serves h k i j then tg.byteCount else 0

/-- Bytes of ACTIVE tags of one segment, of the tags `tags`. -/
def bytesServed (tags : TagNo → Tag) (h : HeadId) (k : SlotNo) (i j : Nat) : Nat := ∑ t, (tags t).bytesServed h k i j

theorem State.bytesUnderway_eq (s : State) (h : HeadId) (k : SlotNo) (i j : Nat) :
    s.bytesUnderway h k i j = bytesServed s.tag h k i j := (Fin.sum_univ_def _).symm

theorem Tag.serves_iff {tg : Tag} {h : HeadId} {k : SlotNo} {i j : Nat} : tg.serves h k i j = true ↔
    tg.state = .active ∧ tg.head = h ∧ tg.slot = k ∧ tg.span = i ∧ tg.layer = j := by
  simp only [Tag.serves, Bool.and_eq_true, decide_eq_true_eq, and_assoc]

/-- Of the tags of slot `k` of head `h`, those ACTIVE under `tags'` are so under `tags`, for the same piece. -/
def FewerActive (tags tags' : TagNo → Tag) (h : HeadId) (k : SlotNo) : Prop :=
  ∀ t, (tags' t).state = .active → (tags' t).head = h → (tags' t).slot = k → ∃ age, tags t = { tags' t with age := age }

section
variable {tags tags' : TagNo → Tag} {h : HeadId} {k : SlotNo} {i j : Nat}

theorem FewerActive.bytesServed_le (hf : FewerActive tags tags' h k) (t : TagNo) :
    (tags' t).bytesServed h k i j ≤ (tags t).bytesServed h k i j := by
  unfold Tag.bytesServed
  split
  · next hs =>
    obtain ⟨ha, hh, hk, -⟩ := Tag.serves_iff.mp hs
    obtain ⟨age, e⟩ := hf t ha hh hk
    have hserves : (tags t).serves h k i j = true := by rw [e]; exact hs
    rw [if_pos hserves, e]
  · exact Nat.zero_le _

theorem FewerActive.sum_le (hf : FewerActive tags tags' h k) : bytesServed tags' h k i j ≤ bytesServed tags h k i j :=
  Finset.sum_le_sum fun t _ => hf.bytesServed_le t

/-- One tag leaves ACTIVE, and no other becomes so. -/
theorem FewerActive.sum_add_le {t : TagNo} (hf : FewerActive tags tags' h k) (ht : (tags' t).state ≠ .active)
    (hs : (tags t).serves h k i j = true) :
    bytesServed tags' h k i j + (tags t).byteCount ≤ bytesServed tags h k i j := by
  have hgone : (tags' t).bytesServed h k i j = 0 := if_neg fun hs' => ht (Tag.serves_iff.mp hs').1
  have hserved : (tags t).bytesServed h k i j = (tags t).byteCount := if_pos hs
  have hrest : ∑ x ∈ Finset.univ.erase t, (tags' x).bytesServed h k i j ≤
      ∑ x ∈ Finset.univ.erase t, (tags x).bytesServed h k i j := Finset.sum_le_sum fun x _ => hf.bytesServed_le x
  have hbefore := Finset.add_sum_erase Finset.univ (fun x => (tags x).bytesServed h k i j) (Finset.mem_univ t)
  have hafter := Finset.add_sum_erase Finset.univ (fun x => (tags' x).bytesServed h k i j) (Finset.mem_univ t)
  unfold Machine.bytesServed
  omega

/-- What two tags have under way for a segment is no more than all have. -/
theorem add_le_bytesServed {t x : TagNo} (hne : x ≠ t) :
    (tags t).bytesServed h k i j + (tags x).bytesServed h k i j ≤ bytesServed tags h k i j := by
  have hsum := Finset.add_sum_erase Finset.univ (fun x => (tags x).bytesServed h k i j) (Finset.mem_univ t)
  have hle := Finset.single_le_sum (f := fun x => (tags x).bytesServed h k i j) (fun _ _ => Nat.zero_le _)
    (Finset.mem_erase.mpr ⟨hne, Finset.mem_univ x⟩)
  unfold Machine.bytesServed
  omega

/-- A sum in which one entry is another. -/
theorem sum_exchange {n : Nat} {f g : Fin n → Nat} (t : Fin n) (hfg : ∀ x, x ≠ t → g x = f x) :
    ∑ x, g x + f t = ∑ x, f x + g t := by
  have hrest : ∑ x ∈ Finset.univ.erase t, g x = ∑ x ∈ Finset.univ.erase t, f x :=
    Finset.sum_congr rfl fun x hx => hfg x (Finset.ne_of_mem_erase hx)
  have hf := Finset.add_sum_erase Finset.univ f (Finset.mem_univ t)
  have hg := Finset.add_sum_erase Finset.univ g (Finset.mem_univ t)
  omega

theorem bytesServed_exchange {t : TagNo} (htags : ∀ x, x ≠ t → tags' x = tags x) :
    bytesServed tags' h k i j + (tags t).bytesServed h k i j =
      bytesServed tags h k i j + (tags' t).bytesServed h k i j :=
  sum_exchange (f := fun x => (tags x).bytesServed h k i j) (g := fun x => (tags' x).bytesServed h k i j) t
    fun x hx => by rw [htags x hx]
end

end Sys2Proof.Machine
end

section
/-! O59: the parts of a step keep what ACTIVE tags and the cursor serve (R101, R105). -/

namespace Sys2Proof.Machine

/-- A PENDING segment of the FETCHING line in a slot. -/
def Fetched (v : Slot) (i j : Nat) (sp : Span) (l : Layer) : Prop :=
  ∃ a, v = .active a ∧ a.phase = .fetching ∧ Segment a.spans i j sp l ∧ l.status = .pending

/-- The tag's piece lies in a segment of its window. -/
def Tag.FitsSegment (tg : Tag) (sp : Span) (l : Layer) : Prop :=
  l.window = tg.window ∧ 1 ≤ tg.byteCount ∧ l.firstByte ≤ tg.address ∧
    tg.address + tg.byteCount ≤ l.firstByte + segmentLength sp l

/-- R101, R105: what the tags `tags` and the place `p` in the cursor serve in slot `k` of head `h` with content `v`. -/
structure Served (tags : TagNo → Tag) (h : HeadId) (k : SlotNo) (v : Slot) (p : Option Pos) : Prop where
  pieces : ∀ t, (tags t).state = .active → (tags t).head = h → (tags t).slot = k →
    ∃ sp l, Fetched v (tags t).span (tags t).layer sp l ∧ (tags t).FitsSegment sp l
  cursor : ∀ q, p = some q → ∃ sp l, Fetched v q.span q.layer sp l ∧ q.offset < segmentLength sp l
  bytes : ∀ a i j sp l, v = .active a → Segment a.spans i j sp l → l.status = .pending →
    l.arrived + bytesServed tags h k i j + bytesToIssue p i j (segmentLength sp l) ≤ segmentLength sp l

theorem serveLaw_iff {s : State} : ServeLaw s ↔ ∀ h k, Served s.tag h k (s.place h k).1 (s.place h k).2 := by
  constructor
  · rintro ⟨htags, hcursor, hbytes⟩ h k
    refine ⟨?_, fun q hq => ?_, fun a i j sp l ha hseg hp => ?_⟩
    · rintro t ht rfl rfl
      obtain ⟨a, sp, l, ha, hphase, hsp, hl, hp, hfits⟩ := htags t ht
      exact ⟨sp, l, ⟨a, ha, hphase, ⟨hsp, hl⟩, hp⟩, hfits⟩
    · obtain ⟨a, sp, l, ha, hphase, hsp, hl, hp, hlt⟩ := hcursor h k q hq
      exact ⟨sp, l, ⟨a, ha, hphase, ⟨hsp, hl⟩, hp⟩, hlt⟩
    · rw [← s.bytesUnderway_eq]
      exact hbytes h k a i j sp l ha hseg.1 hseg.2 hp
  · intro hs
    refine ⟨fun t ht => ?_, fun h k q hq => ?_, fun h k a i j sp l ha hsp hl hp => ?_⟩
    · obtain ⟨sp, l, ⟨a, ha, hphase, ⟨hsp, hl⟩, hp⟩, hfits⟩ := (hs _ _).pieces t ht rfl rfl
      exact ⟨a, sp, l, ha, hphase, hsp, hl, hp, hfits⟩
    · obtain ⟨sp, l, ⟨a, ha, hphase, ⟨hsp, hl⟩, hp⟩, hlt⟩ := (hs h k).cursor q hq
      exact ⟨a, sp, l, ha, hphase, hsp, hl, hp, hlt⟩
    · rw [s.bytesUnderway_eq]
      exact (hs h k).bytes a i j sp l ha ⟨hsp, hl⟩ hp

/-! ### What a slot's turn does to what is served in it -/

/-- No tag of slot `k` of head `h` is ACTIVE. -/
def NoActive (tags : TagNo → Tag) (h : HeadId) (k : SlotNo) : Prop :=
  ∀ t, (tags t).state = .active → (tags t).head = h → (tags t).slot ≠ k

section
variable {tags tags' : TagNo → Tag} {h : HeadId} {k : SlotNo} {v : Slot} {p : Option Pos} {a : ActiveLine}

theorem NoActive.bytesServed (hno : NoActive tags h k) (i j : Nat) : bytesServed tags h k i j = 0 :=
  Finset.sum_eq_zero fun t _ => if_neg fun hs => by
    obtain ⟨ha, hh, hk, -⟩ := Tag.serves_iff.mp hs
    exact hno t ha hh hk

theorem Served.fewer (hs : Served tags h k v p) (hf : FewerActive tags tags' h k) : Served tags' h k v p where
  pieces t ha hh hk := by
    obtain ⟨age, e⟩ := hf t ha hh hk
    have hserved := hs.pieces t (by rw [e]; exact ha) (by rw [e]; exact hh) (by rw [e]; exact hk)
    rw [e] at hserved
    exact hserved
  cursor := hs.cursor
  bytes a i j sp l hv hseg hp := by
    have hbytes := hs.bytes a i j sp l hv hseg hp
    have hle := hf.sum_le (i := i) (j := j)
    omega

/-- R105: an EMPTY slot has no ACTIVE tag. -/
theorem Served.noActive_of_empty (hs : Served tags h k .empty p) : NoActive tags h k := fun t ha hh hk => by
  obtain ⟨-, -, ⟨a, e, -⟩, -⟩ := hs.pieces t ha hh hk
  cases e

/-- A slot out of the cursor, without ACTIVE tags and PENDING segments. -/
theorem Served.idle (hno : NoActive tags h k) (hv : ∀ a, v = .active a → pendingWindows a.spans = []) :
    Served tags h k v none where
  pieces t ha hh hk := absurd hk (hno t ha hh)
  cursor _ hq := nomatch hq
  bytes a _ _ _ l e hseg hp := absurd hp (pendingWindows_eq_nil.mp (hv a e) l hseg.mem_walkLayers)

/-- R117: a COMPLETE slot is shown. -/
theorem Served.shown (hs : Served tags h k (.active a) p) (hc : a.phase = .complete) :
    Served tags h k (.active { a with phase := .showing }) none where
  pieces t ha hh hk := by
    obtain ⟨-, -, ⟨b, e, hphase, -⟩, -⟩ := hs.pieces t ha hh hk
    cases e
    rw [hc] at hphase
    cases hphase
  cursor _ hq := nomatch hq
  bytes b i j sp l e hseg hp := by
    cases e
    have hbytes := hs.bytes a i j sp l rfl hseg hp
    exact (Nat.add_le_add_left (Nat.zero_le _) _).trans hbytes

/-- R96, R101: a resolved line. -/
theorem Served.resolved (hno : NoActive tags h k) {spans : List Span} {n budget : Nat}
    (hfresh : ∀ l ∈ walkLayers spans, l.arrived = 0) :
    Served tags h k (.active { phase := if pendingWindows spans = [] then .complete else .fetching
                               line := n, spans := spans, budget := budget }) (nextPending spans walkStart) where
  pieces t ha hh hk := absurd hk (hno t ha hh)
  cursor q hq := by
    obtain ⟨h0, -, ⟨l, hl, hp⟩, -⟩ := nextPending_walkStart.mp hq
    obtain ⟨sp, hseg⟩ := Segment.of_layerAt hl
    have hsome : pendingWindows spans ≠ [] := fun e => pendingWindows_eq_nil.mp e l hseg.mem_walkLayers hp
    exact ⟨sp, l, ⟨_, rfl, if_neg hsome, hseg, hp⟩, by rw [h0]; exact segmentLength_pos sp l⟩
  bytes b i j sp l e hseg hp := by
    cases e
    rw [hfresh l hseg.mem_walkLayers, hno.bytesServed]
    unfold bytesToIssue
    split
    · omega
    · next q hq =>
      split_ifs <;> omega

/-- R112: a line with a PENDING segment does not change its phase. -/
theorem settle_phase_of_pending {i j : Nat} {sp : Span} {l : Layer} (hseg : Segment a.spans i j sp l)
    (hp : l.status = .pending) : a.settle.phase = a.phase := by
  rw [ActiveLine.settle_eq]
  exact if_neg fun h => pendingWindows_eq_nil.mp h.2 l hseg.mem_walkLayers hp

/-- A change of a segment that leaves its place in memory. -/
structure KeepsSegment (f : Layer → Layer) : Prop where
  window    : ∀ l, (f l).window = l.window
  firstByte : ∀ l, (f l).firstByte = l.firstByte
  format    : ∀ l, (f l).format = l.format
  pending   : ∀ l, (f l).status = .pending → l.status = .pending

section
variable {f : Layer → Layer} {i j : Nat}

theorem KeepsSegment.ite (hf : KeepsSegment f) (c : Prop) [Decidable c] (l : Layer) :
    (if c then f l else l).window = l.window ∧ (if c then f l else l).firstByte = l.firstByte ∧
      (if c then f l else l).format = l.format ∧ ((if c then f l else l).status = .pending → l.status = .pending) := by
  split
  · exact ⟨hf.window l, hf.firstByte l, hf.format l, hf.pending l⟩
  · exact ⟨rfl, rfl, rfl, id⟩

/-- A PENDING segment that stays so under the change is fetched as before. -/
theorem Fetched.modified (hf : KeepsSegment f) {x y : Nat} {sp : Span} {l : Layer} {b : ActiveLine}
    (hfetched : Fetched (.active a) x y sp l) (hb : b = { a with spans := modifyLayer f a.spans i j }.settle)
    (hp : (if i = x ∧ j = y then f l else l).status = .pending) :
    ∃ sp', Fetched (.active b) x y sp' (if i = x ∧ j = y then f l else l) ∧
      segmentLength sp' (if i = x ∧ j = y then f l else l) = segmentLength sp l := by
  obtain ⟨a', e, hphase, hseg, -⟩ := hfetched
  cases e
  have hseg' := segment_modifyLayer (f := f) (i := i) (j := j).mpr ⟨sp, l, hseg, rfl, rfl⟩
  subst hb
  have hphase' : ({ a with spans := modifyLayer f a.spans i j } : ActiveLine).settle.phase = .fetching :=
    (settle_phase_of_pending hseg' hp).trans hphase
  rw [ActiveLine.settle_eq] at hphase' ⊢
  exact ⟨_, ⟨_, rfl, hphase', hseg', hp⟩, segmentLength_modify (hf.ite _ l).2.2.1⟩

/-- A response changes the segment of span `i`, layer `j`: its ACTIVE tags find it PENDING yet, and what comes is no
more than what was under way (R111, R113). -/
theorem Served.modified (hs : Served tags h k (.active a) p) (hfewer : FewerActive tags tags' h k)
    (hf : KeepsSegment f)
    (hactive : ∀ t sp l, (tags' t).serves h k i j = true → Segment a.spans i j sp l → (tags' t).FitsSegment sp l →
      l.status = .pending → (f l).status = .pending)
    (hbytes : ∀ sp l, Segment a.spans i j sp l → l.status = .pending → (f l).status = .pending →
      (f l).arrived + bytesServed tags' h k i j ≤ l.arrived + bytesServed tags h k i j) :
    Served tags' h k (.active { a with spans := modifyLayer f a.spans i j }.settle)
      (p.bind (nextPending (modifyLayer f a.spans i j))) where
  pieces t ha hh hk := by
    obtain ⟨sp, l, hfetched, hfits⟩ := (hs.fewer hfewer).pieces t ha hh hk
    obtain ⟨a', e, -, hseg, hp⟩ := id hfetched
    cases e
    have hp' : (if i = (tags' t).span ∧ j = (tags' t).layer then f l else l).status = .pending := by
      split
      · next e =>
        obtain ⟨rfl, rfl⟩ := e
        exact hactive t sp l (Tag.serves_iff.mpr ⟨ha, hh, hk, rfl, rfl⟩) hseg hfits hp
      · exact hp
    obtain ⟨sp', hfetched', hlength⟩ := hfetched.modified hf rfl hp'
    refine ⟨sp', _, hfetched', ?_⟩
    obtain ⟨hwindow, hfirst, -⟩ := hf.ite (i = (tags' t).span ∧ j = (tags' t).layer) l
    unfold Tag.FitsSegment
    rw [hlength, hwindow, hfirst]
    exact hfits
  cursor q hq := by
    obtain ⟨r, hr, hnext⟩ := Option.bind_eq_some_iff.mp hq
    obtain ⟨spr, lr, hfetched, hoffset⟩ := hs.cursor r hr
    obtain ⟨-, ⟨m, hm, hp⟩, hplace⟩ := nextPending_reaches hnext
    obtain ⟨sp', hseg'⟩ := Segment.of_layerAt hm
    obtain ⟨sp, l, hseg, rfl, rfl⟩ := segment_modifyLayer.mp hseg'
    obtain ⟨a', e, hphase, hsegr, -⟩ := hfetched
    cases e
    obtain ⟨-, -, hformat, hpending⟩ := hf.ite (i = q.span ∧ j = q.layer) l
    obtain ⟨sp', hfetched', hlength⟩ := Fetched.modified (i := i) (j := j) hf ⟨a, rfl, hphase, hseg, hpending hp⟩ rfl hp
    refine ⟨sp', _, hfetched', ?_⟩
    rw [hlength]
    rcases hplace with rfl | h0
    · obtain ⟨rfl, rfl⟩ := hseg.unique hsegr
      exact hoffset
    · rw [h0]
      exact segmentLength_pos sp l
  bytes b x y sp' m e hseg' hp := by
    cases e
    rw [ActiveLine.settle_eq] at hseg'
    obtain ⟨sp, l, hseg, rfl, rfl⟩ := segment_modifyLayer.mp hseg'
    obtain ⟨-, -, hformat, hpending⟩ := hf.ite (i = x ∧ j = y) l
    rw [segmentLength_modify hformat]
    have hbefore := hs.bytes a x y sp l rfl hseg (hpending hp)
    have hissue : bytesToIssue (p.bind (nextPending (modifyLayer f a.spans i j))) x y (segmentLength sp l) ≤
        bytesToIssue p x y (segmentLength sp l) := by
      cases p with
      | none => exact Nat.le_refl _
      | some r => exact bytesToIssue_le_of_reaches (fun q hq => (nextPending_reaches hq).1) _ _ _
    have harrived : (if i = x ∧ j = y then f l else l).arrived + bytesServed tags' h k x y ≤
        l.arrived + bytesServed tags h k x y := by
      split
      · next e =>
        obtain ⟨rfl, rfl⟩ := e
        rw [if_pos ⟨rfl, rfl⟩] at hp
        exact hbytes sp l hseg (hpending (by rw [if_pos ⟨rfl, rfl⟩]; exact hp)) hp
      · exact Nat.add_le_add_left hfewer.sum_le _
    omega
end

/-! ### Issue (R106) -/

/-- R103: after a piece is issued its segment has as much less to issue, and none more. -/
theorem bytesToIssue_add_le {sp : Span} {l : Layer} {spans : List Span} {p : Pos} {count : Nat} {after : Option Pos}
    (hfits : p.offset + count ≤ segmentLength sp l)
    (hafter : after = if p.offset + count < segmentLength sp l then some { p with offset := p.offset + count }
      else nextPending spans { span := p.span, layer := p.layer + 1, offset := 0 }) (i j len : Nat)
    (hlen : p.span = i ∧ p.layer = j → len = segmentLength sp l) :
    bytesToIssue after i j len + (if p.span = i ∧ p.layer = j then count else 0) ≤ bytesToIssue (some p) i j len := by
  have hbehind : ∀ q, nextPending spans { span := p.span, layer := p.layer + 1, offset := 0 } = some q →
      WalkBefore p.span p.layer q.span q.layer := fun q hq => by
    have hfirst := (nextPending_eq_some_iff rfl).mp hq
    rw [notBefore_next] at hfirst
    exact hfirst.2.1
  by_cases hmore : p.offset + count < segmentLength sp l
  · rw [if_pos hmore] at hafter
    subst hafter
    simp only [bytesToIssue]
    split_ifs with hp
    · rw [hlen hp]; omega
    · omega
    · omega
  · rw [if_neg hmore] at hafter
    subst hafter
    have hlast : p.offset + count = segmentLength sp l := by omega
    cases hq : nextPending spans { span := p.span, layer := p.layer + 1, offset := 0 } with
    | none =>
      simp only [bytesToIssue]
      split_ifs with hp <;> omega
    | some q =>
      have hb := hbehind q hq
      simp only [bytesToIssue, WalkBefore] at hb ⊢
      split_ifs with hp <;> omega

/-- R102, R103: the place in the cursor after an issue is in a PENDING segment. -/
theorem issued_cursor {p q : Pos} {sp : Span} {l : Layer} (hphase : a.phase = .fetching)
    (hseg : Segment a.spans p.span p.layer sp l) (hp : l.status = .pending) {count : Nat}
    (hq : (if p.offset + count < segmentLength sp l then some { p with offset := p.offset + count }
      else nextPending a.spans { span := p.span, layer := p.layer + 1, offset := 0 }) = some q) :
    ∃ sp l, Fetched (.active a) q.span q.layer sp l ∧ q.offset < segmentLength sp l := by
  split at hq
  · next hmore =>
    cases hq
    exact ⟨sp, l, ⟨a, rfl, hphase, hseg, hp⟩, hmore⟩
  · obtain ⟨h0, -, ⟨m, hm, hpm⟩, -⟩ := (nextPending_eq_some_iff rfl).mp hq
    obtain ⟨spm, hsegm⟩ := Segment.of_layerAt hm
    exact ⟨spm, m, ⟨a, rfl, hphase, hsegm, hpm⟩, by rw [h0]; exact segmentLength_pos spm m⟩

/-- The tag of an issue (R106). -/
def Request.tag (r : Request) : Tag :=
  { state := .active, head := r.head, slot := r.slot, span := r.pos.span, layer := r.pos.layer
    window := r.window, address := r.address, byteCount := r.byteCount, age := 0 }

/-- R106: a request of the place in the cursor, issued. -/
theorem Served.issued (hs : Served tags h k (.active a) (some q)) {t : TagNo} {r : Request}
    (hfree : (tags t).state = .free) (hr : requestAt h k a q = some r)
    (htags : ∀ x, tags' x = if t = x then r.tag else tags x) : Served tags' h k (.active a) r.after := by
  obtain ⟨sp, l, ⟨a', e, hphase, hseg, hp⟩, hoffset⟩ := hs.cursor q rfl
  cases e
  rw [requestAt_of_pending hseg.1 hseg.2 hp, Option.some.injEq] at hr
  subst hr
  obtain ⟨hone, -, hfits, -⟩ := pieceBytes_spec (first := l.firstByte) hoffset
  refine ⟨fun x ha hh hk => ?_, fun p hq => issued_cursor hphase hseg hp hq, fun b i j sp' l' e hseg' hp' => ?_⟩
  · rw [htags] at ha hh hk ⊢
    split at ha
    · next e =>
      rw [if_pos e]
      exact ⟨sp, l, ⟨a, rfl, hphase, hseg, hp⟩, rfl, hone, Nat.le_add_right _ _, by dsimp only [Request.tag]; omega⟩
    · next e =>
      rw [if_neg e] at hh hk ⊢
      exact hs.pieces x ha hh hk
  · cases e
    have hbefore := hs.bytes a i j sp' l' rfl hseg' hp'
    have hissue := bytesToIssue_add_le (spans := a.spans) hfits rfl i j (segmentLength sp' l') fun ⟨hi, hj⟩ => by
      subst hi hj
      obtain ⟨rfl, rfl⟩ := hseg.unique hseg'
      rfl
    have hsum : bytesServed tags' h k i j + (tags t).bytesServed h k i j =
        bytesServed tags h k i j + (tags' t).bytesServed h k i j :=
      bytesServed_exchange fun x hx => by rw [htags, if_neg (Ne.symm hx)]
    have hold : (tags t).bytesServed h k i j = 0 := if_neg fun hserves => by
      have hactive := hfree.symm.trans (Tag.serves_iff.mp hserves).1
      cases hactive
    have hnew : (tags' t).bytesServed h k i j =
        if q.span = i ∧ q.layer = j then pieceBytes l.firstByte (segmentLength sp l) q.offset else 0 := by
      rw [htags, if_pos rfl]
      simp only [Tag.bytesServed, Tag.serves_iff, Request.tag, true_and]
    dsimp only at hissue ⊢
    omega
end

/-! ### The parts of a step -/

section
variable {s u : State} {h : HeadId} {k : SlotNo}

theorem nextRequest_place {r : Request} (hr : nextRequest h s = some r) :
    ∃ k a p, s.place h k = (.active a, some p) ∧ requestAt h k a p = some r := by
  unfold nextRequest at hr
  dsimp only at hr
  split at hr
  · cases hr
  · obtain ⟨n, -, hn⟩ := List.exists_of_findSome?_eq_some hr
    unfold requestOfLine at hn
    split at hn
    · cases hn
    · next k _ =>
      split at hn
      · next a p ha hp => exact ⟨k, a, p, by rw [State.place, ha, hp], hn⟩
      · cases hn

theorem requestAt_slot {a : ActiveLine} {p : Pos} {r : Request} (hr : requestAt h k a p = some r) :
    r.head = h ∧ r.slot = k := by
  unfold requestAt at hr
  split at hr
  · cases hr
  · split at hr
    · cases hr
    · split at hr
      · cases hr
        exact ⟨rfl, rfl⟩
      · cases hr

theorem arbitrated_next {r : Request} (hr : arbitrated s = some r) : ∃ h, nextRequest h s = some r := by
  unfold arbitrated at hr
  split at hr
  · exact ⟨1, hr⟩
  · exact ⟨0, hr⟩
  · next h0 h1 =>
    split_ifs at hr <;> cases hr
    · exact ⟨0, h0⟩
    · exact ⟨1, h1⟩
    · exact ⟨0, h0⟩
    · exact ⟨1, h1⟩

/-- R106: what is offered is the request of a place in the cursor, with a FREE tag. -/
theorem offered_place {t : TagNo} {r : Request} (ho : offered s = some (t, r)) : (s.tag t).state = .free ∧
    ∃ a p, s.place r.head r.slot = (.active a, some p) ∧ requestAt r.head r.slot a p = some r := by
  unfold offered at ho
  split at ho
  · next t' r' ht hr =>
    cases ho
    refine ⟨by simpa using List.find?_some ht, ?_⟩
    obtain ⟨h, hnext⟩ := arbitrated_next hr
    obtain ⟨k, a, p, hplace, hat⟩ := nextRequest_place hnext
    obtain ⟨rfl, rfl⟩ := requestAt_slot hat
    exact ⟨a, p, hplace, hat⟩
  · cases ho

/-- R105: a tag that is ACTIVE after a part of a step that is no issue was so before. -/
theorem TagStep.active {tg tg' : Tag} (h : TagStep tg tg') (ha : tg'.state = .active) : ∃ age, tg = { tg' with age := age } := by
  cases h with
  | same => exact ⟨tg.age, rfl⟩
  | stale => cases ha
  | freed => cases ha
  | aged h =>
    refine ⟨tg.age, ?_⟩
    unfold Tag.aged at ha ⊢
    split at ha
    · next hages =>
      rw [if_pos hages]
      dsimp only at ha ⊢
      split at ha
      · cases ha
      · next he => rw [if_neg he]
    · next hages => rw [if_neg hages]

theorem fewerActive_of_tagSteps (ht : ∀ t, TagStep (s.tag t) (u.tag t)) (h : HeadId) (k : SlotNo) :
    FewerActive s.tag u.tag h k := fun t ha _ _ => (ht t).active ha

/-- The law of every slot. -/
def EveryServed (s : State) : Prop := ∀ h k, Served s.tag h k (s.place h k).1 (s.place h k).2

/-- Slots and cursors stay, no tag becomes ACTIVE. -/
theorem EveryServed.of_places (hs : EveryServed s) (hp : ∀ h k, u.place h k = s.place h k)
    (ht : ∀ t, TagStep (s.tag t) (u.tag t)) : EveryServed u := fun h k => by
  rw [hp]
  exact (hs h k).fewer (fewerActive_of_tagSteps ht h k)

/-- One slot changes, no tag becomes ACTIVE. -/
theorem EveryServed.of_place (hs : EveryServed s) {v : Slot} {p : Option Pos}
    (hp : ∀ x j, u.place x j = if h = x ∧ k = j then (v, p) else s.place x j)
    (ht : ∀ t, TagStep (s.tag t) (u.tag t)) (hk : Served u.tag h k v p) : EveryServed u := fun x j => by
  rw [hp]
  split
  · next e => obtain ⟨rfl, rfl⟩ := e; exact hk
  · exact (hs x j).fewer (fewerActive_of_tagSteps ht x j)

theorem EveryServed.of_same (hs : EveryServed s) (hp : ∀ h k, u.place h k = s.place h k)
    (ht : ∀ t, u.tag t = s.tag t) : EveryServed u := hs.of_places hp fun t => ht t ▸ .same

/-- R84, R105. -/
theorem EveryServed.emptySlot (hs : EveryServed s) (h : HeadId) (k : SlotNo) : EveryServed (emptySlot h k s) := by
  refine hs.of_place (fun x j => emptySlot_place) (fun t => emptySlot_tagStep s h k t)
    (.idle (fun t ha hh hk => ?_) fun a e => nomatch e)
  rw [emptySlot_tag] at ha hh hk
  split at ha
  · cases ha
  · next hno => rw [if_neg hno] at hh hk; exact hno ⟨ha, hh, hk⟩

/-- R85, R96. -/
theorem EveryServed.resolveInto (hs : EveryServed s) (n : Nat) (hempty : (s.head h).slots[k] = .empty) :
    EveryServed (resolveInto h k n s) := by
  have htags (t : TagNo) : (Machine.resolveInto h k n s).tag t = s.tag t := resolveInto_tag _ _ _ _ t
  have hserved := hs h k
  rw [State.place, hempty] at hserved
  have hno : NoActive (Machine.resolveInto h k n s).tag h k := fun t ha hh => by
    rw [htags] at ha hh ⊢
    exact hserved.noActive_of_empty t ha hh
  cases ht : (s.head h).timing with
  | none => unfold Machine.resolveInto; rw [ht]; exact hs
  | some t =>
    have hsteps (x : TagNo) : TagStep (s.tag x) ((Machine.resolveInto h k n s).tag x) := htags x ▸ .same
    rcases resolveInto_cases h k n s ht with ⟨-, e⟩ | ⟨-, r, hr, e⟩
    · refine hs.of_place (v := .blank n) (p := none) (fun x j => ?_) hsteps (.idle hno fun a e => nomatch e)
      rw [e]
      exact setSlot_place _ _
    · have hfresh (l : Layer) (hl : l ∈ walkLayers r.spans) : l.arrived = 0 := (resolveLine_fresh (hr ▸ hl)).2
      refine hs.of_place (fun x j => ?_) hsteps (Served.resolved (n := n) (budget := r.budget) hno hfresh)
      rw [e, notifyOwners_place, addRefs_place]
      exact setSlot_place _ _

/-- R117. -/
theorem EveryServed.takeDeadline (hs : EveryServed s) (h : HeadId) : EveryServed (takeDeadline h s) := by
  rcases takeDeadline_cases s h with e | ⟨k, a, ha, hc, e⟩ | ⟨k, a, ha, -, e⟩ <;> rw [e]
  · exact hs
  · have hserved := hs h k
    rw [State.place, ha] at hserved
    exact hs.of_place (fun x j => setHead_place rfl rfl) (fun t => .same) (hserved.shown hc)
  · have htags (t : TagNo) : (releaseRefs (pendingWindows a.spans)
        (notifyOwners .underrun (pendingWindows a.spans) (segmentsMissed h k a s))).tag t = (segmentsMissed h k a s).tag t := by
      rw [releaseRefs_tag, notifyOwners_tag]
    refine hs.of_place (h := h) (k := k) (v := .active { a with phase := .showing, spans := missDeadlines a.spans })
      (p := none) (fun x j => ?_) (fun t => ?_) (.idle (fun t ha hh hk => ?_) fun b e => ?_)
    · rw [releaseRefs_place, notifyOwners_place, segmentsMissed, staleTags_place]
      exact setHead_place rfl rfl
    · have hstep := takeDeadline_tagStep s h t
      rwa [e] at hstep
    · rw [htags, segmentsMissed_tag] at ha hh hk
      split at ha
      · cases ha
      · next hno => rw [if_neg hno] at hh hk; exact hno ⟨ha, hh, hk⟩
    · cases e
      exact pendingWindows_missDeadlines a.spans

/-- R106. -/
theorem EveryServed.issue (hs : EveryServed s) {t : TagNo} {r : Request} (ho : offered s = some (t, r)) :
    EveryServed (issue t r s) := fun x j => by
  obtain ⟨hfree, a, p, hplace, hr⟩ := offered_place ho
  have htags (i : TagNo) : (Machine.issue t r s).tag i = if t = i then r.tag else s.tag i := issue_tag s t i r
  rw [issue_place]
  have hserved := hs x j
  split
  · next e =>
    obtain ⟨rfl, rfl⟩ := e
    rw [hplace] at hserved ⊢
    exact hserved.issued hfree hr htags
  · next e =>
    refine hserved.fewer fun i ha hh hk => ?_
    rw [htags] at ha hh hk ⊢
    by_cases hi : t = i
    · rw [if_pos hi] at hh hk
      exact absurd ⟨hh, hk⟩ e
    · rw [if_neg hi]
      exact ⟨_, rfl⟩

/-- The slot that an ACTIVE tag serves. -/
theorem EveryServed.of_active (hs : EveryServed s) {t : TagNo} (ha : (s.tag t).state = .active) :
    ∃ a sp l, (s.head (s.tag t).head).slots[(s.tag t).slot] = .active a ∧
      Segment a.spans (s.tag t).span (s.tag t).layer sp l ∧ l.status = .pending ∧ (s.tag t).FitsSegment sp l := by
  obtain ⟨sp, l, ⟨a, e, -, hseg, hp⟩, hfits⟩ := (hs _ _).pieces t ha rfl rfl
  exact ⟨a, sp, l, e, hseg, hp, hfits⟩

theorem receive_keepsSegment (sp : Span) (address : Nat) (data : List Byte) :
    KeepsSegment (Layer.receive sp address data) where
  window _ := rfl
  firstByte _ := rfl
  format _ := rfl
  pending _ := Layer.receive_status

theorem absent_keepsSegment : KeepsSegment fun l => { l with status := .absent } where
  window _ := rfl
  firstByte _ := rfl
  format _ := rfl
  pending _ hp := nomatch hp

theorem okResponse_of_active {t : TagNo} {a : ActiveLine} {sp : Span} {l : Layer}
    (ha : (s.head (s.tag t).head).slots[(s.tag t).slot] = .active a)
    (hseg : Segment a.spans (s.tag t).span (s.tag t).layer sp l) (data : List Byte) :
    Machine.okResponse t data s = freeTag t (putContent (s.tag t).head (s.tag t).slot
      { a with spans := modifyLayer (Layer.receive sp (s.tag t).address (takenBytes (s.tag t).byteCount data)) a.spans
                 (s.tag t).span (s.tag t).layer } s) := by
  simp only [Machine.okResponse, ha, hseg.1]

/-- R111: an OK response. -/
theorem EveryServed.okResponse (hs : EveryServed s) {t : TagNo} (data : List Byte) (ha : (s.tag t).state = .active) :
    EveryServed (okResponse t data s) := by
  obtain ⟨a, sp, l, hslot, hseg, hp, hfits⟩ := hs.of_active ha
  have hserved := hs (s.tag t).head (s.tag t).slot
  have hslot' : (s.place (s.tag t).head (s.tag t).slot).1 = .active a := hslot
  rw [hslot'] at hserved
  have hserves : (s.tag t).serves (s.tag t).head (s.tag t).slot (s.tag t).span (s.tag t).layer = true :=
    Tag.serves_iff.mpr ⟨ha, rfl, rfl, rfl, rfl⟩
  have hsteps (i : TagNo) : TagStep (s.tag i) ((Machine.okResponse t data s).tag i) := okResponse_tagStep s t i data
  have hfewer := fewerActive_of_tagSteps hsteps (s.tag t).head (s.tag t).slot
  have hfreed : ((Machine.okResponse t data s).tag t).state ≠ .active := by rw [okResponse_tag, if_pos rfl]; simp
  refine hs.of_place (fun x j => ?_) hsteps (hserved.modified (i := (s.tag t).span) (j := (s.tag t).layer) hfewer
    (receive_keepsSegment sp (s.tag t).address (takenBytes (s.tag t).byteCount data)) ?_ ?_)
  · rw [okResponse_of_active hslot hseg, freeTag_place]
    exact putContent_place _
  · intro i spi li hi hsegi hfitsi hpi
    obtain ⟨rfl, rfl⟩ := hseg.unique hsegi
    have hne : i ≠ t := by
      rintro rfl
      exact hfreed (Tag.serves_iff.mp hi).1
    have hi' : (Machine.okResponse t data s).tag i = s.tag i := by rw [okResponse_tag, if_neg (Ne.symm hne)]
    rw [hi'] at hi hfitsi
    have hbytes := hserved.bytes a _ _ _ _ rfl hseg hp
    have hboth := add_le_bytesServed (tags := s.tag) (h := (s.tag t).head) (k := (s.tag t).slot) (i := (s.tag t).span)
      (j := (s.tag t).layer) hne
    rw [Tag.bytesServed, if_pos hserves, Tag.bytesServed, if_pos hi] at hboth
    rw [Layer.receive_of_pending hp, takenBytes_length]
    refine if_neg ?_
    have := hfitsi.2.1
    omega
  · intro spi li hsegi hpi _
    obtain ⟨rfl, rfl⟩ := hseg.unique hsegi
    have hsum := hfewer.sum_add_le hfreed hserves
    rw [Layer.receive_of_pending hp, takenBytes_length]
    dsimp only
    omega

/-- R113: an ERROR response. -/
theorem EveryServed.errorResponse (hs : EveryServed s) {t : TagNo} (ha : (s.tag t).state = .active) :
    EveryServed (errorResponse t s) := by
  obtain ⟨a, sp, l, hslot, hseg, hp, hfits⟩ := hs.of_active ha
  have hserved := hs (s.tag t).head (s.tag t).slot
  have hslot' : (s.place (s.tag t).head (s.tag t).slot).1 = .active a := hslot
  rw [hslot'] at hserved
  have hsteps (i : TagNo) : TagStep (s.tag i) ((Machine.errorResponse t s).tag i) := errorResponse_tagStep s t i
  refine hs.of_place (fun x j => ?_) hsteps
    (hserved.modified (i := (s.tag t).span) (j := (s.tag t).layer) (fewerActive_of_tagSteps hsteps _ _) absent_keepsSegment ?_ fun _ _ _ _ h => nomatch h)
  · rw [errorResponse_eq, freeTag_place, setFault_place, staleTags_place, dropSegment_of_pending hslot hseg.layerAt hp,
      releaseRef_place]
    exact putContent_place _
  intro i _ _ hi _ _ _
  obtain ⟨hai, hh, hk, hspan, hlayer⟩ := Tag.serves_iff.mp hi
  rw [errorResponse_tag] at hai hh hk hspan hlayer
  split at hai
  · cases hai
  · split at hai
    · cases hai
    · next hne hno =>
      rw [if_neg hne, if_neg hno] at hh hk hspan hlayer
      exact absurd ⟨hai, by simp [Tag.sameSegment, hh, hk, hspan, hlayer]⟩ hno

/-- R101, R105: every part of a step keeps what is served. -/
theorem everyServed_fetchLaw : FetchLaw True False EveryServed where
  counters {s h v} hv hs := hs.of_same (fun x j => by
    refine Eq.trans (setHead_place (k := j) (v := (s.head h).slots[j]) (p := (s.head h).cursor[j]) ?_ ?_) ?_
    · rw [hv.slots]; simp
    · rw [hv.cursor]; simp
    · split
      · next e => obtain ⟨rfl, -⟩ := e; rfl
      · rfl) fun _ => rfl
  notify hs := hs.of_same (fun _ _ => rfl) fun _ => rfl
  emptySlot h k hs := hs.emptySlot h k
  resolve n hempty hs := hs.resolveInto n (hempty trivial)
  apply h hs := hs.of_same (fun _ _ => (applyQueue_sameFetch h _).place) (applyQueue_sameFetch h _).tags
  stale p hs := hs.of_places (fun _ _ => staleTags_place p) fun t => staleTags_tagStep _ p t
  age h hs := hs.of_places (fun x _ => place_of_head_eq (ageTags_head h _ x)) fun t => ageTags_tagStep _ h t
  draws _ hs := hs
  reset h k := by
    have hplace : State.reset.place h k = (.empty, none) := by
      rw [State.place, State.reset_head, Head.reset_slotsEmpty k]
      refine Prod.ext rfl ?_
      exact Vector.getElem_replicate _
    rw [hplace]
    refine .idle (fun t ha => ?_) fun a e => nomatch e
    rw [State.reset_tag] at ha
    cases ha
  outside hs hu := hs.of_same (fun h _ => place_of_head_eq (hu.heads h)) hu.tags
  body _ hf hs := hs.of_same (fun _ _ => hf.place) hf.tags
  setTiming {s h ts} _ _ hs := hs.of_same (fun x j => by
    refine Eq.trans (setHead_place (k := j) (v := (s.head h).slots[j]) (p := (s.head h).cursor[j]) (by simp) (by simp)) ?_
    split
    · next e => obtain ⟨rfl, -⟩ := e; rfl
    · rfl) fun _ => rfl
  deadline h hs := hs.takeDeadline h
  issue ho hs := hs.issue ho
  ok data ha hs := hs.okResponse data ha
  error ha hs := hs.errorResponse ha
  late {_ t} _ hs := hs.of_places (fun _ _ => freeTag_place t) fun x => freeTag_tagStep _ t x
end

/-! ### O59 -/

theorem StoppedSlotsEmpty.pending {s : State} (hs : StoppedSlotsEmpty s) {h : HeadId}
    (hp : (s.head h).startPending = true) : (s.head h).SlotsEmpty := hs h (.inr hp)

theorem StepEffect.serveLaw {s u : State} (h : StepEffect s u) (hempty : StoppedSlotsEmpty s) (hs : ServeLaw s) :
    ServeLaw u :=
  serveLaw_iff.mpr (everyServed_fetchLaw.of_effect (fun _ _ hp => hempty.pending hp) (fun hf => hf.elim) h
    (serveLaw_iff.mp hs))

/-- Settles O59: tags by what the parts of a step do to one tag, notices and bytes by their laws, and what is served by
the law of one slot. -/
theorem stepKeepsTagsNoticesAndBytes : Obligations.StepKeepsTagsNoticesAndBytes := by
  refine ⟨fun s u htags hnotices hbytes h => ?_, fun s u hserve hempty h => ?_⟩
  · exact step_keeps (P := fun s => TagLaw s ∧ TenantNoticeLaw s ∧ BytesLaw s) (fun _ _ hs => hs)
      (fun _ _ ⟨ht, hn, hb⟩ he => ⟨he.tagLaw ht, tenantNoticeLaw_bodyLaw.of_effect he hn, he.bytesLaw hb⟩)
      ⟨htags, hnotices, hbytes⟩ h
  · exact (step_keeps (P := fun s => ServeLaw s ∧ StoppedSlotsEmpty s) (fun _ _ hs => hs)
      (fun _ _ ⟨hs, hempty⟩ he => ⟨he.serveLaw hempty hs, he.stoppedSlotsEmpty hempty⟩) ⟨hserve, hempty⟩ h).1

end Sys2Proof.Machine
end

section
/-! References fit the lives of their windows (R13, 1.4): what the parts of a step do to one window. -/

namespace Sys2Proof.Machine

/-- The references of a window fit its life. -/
def Window.Fits (v : Window) : Prop :=
  match v.life with
  | .free => v.refs = 0
  | .reserved _ => v.refs = 0
  | .live _ _ _ => True
  | .retiring _ _ _ => 0 < v.refs

section
variable {v : Window}

theorem Window.fits_live {hd : Held} {img : Image} {f : Option Nat} {r : Nat} :
    (⟨.live hd img f, r⟩ : Window).Fits := trivial

/-- Only LIVE and RETIRING windows have references. -/
theorem Window.Fits.shown (h : v.Fits) (hr : 0 < v.refs) : v.life ≠ .free ∧ ∀ hd, v.life ≠ .reserved hd := by
  unfold Window.Fits at h
  split at h
  · omega
  · omega
  · next e => rw [e]; exact ⟨nofun, nofun⟩
  · next e => rw [e]; exact ⟨nofun, nofun⟩

/-- R15: more references fit a window that may have some. -/
theorem Window.Fits.add (h : v.Fits) {n : Nat} (hn : 0 < n → v.life ≠ .free ∧ ∀ hd, v.life ≠ .reserved hd) :
    ({ v with refs := v.refs + n } : Window).Fits := by
  by_cases h0 : 0 < n
  · obtain ⟨hfree, hreserved⟩ := hn h0
    unfold Window.Fits
    dsimp only
    split
    · next e => exact absurd e hfree
    · next e => exact absurd e (hreserved _)
    · trivial
    · omega
  · obtain rfl : n = 0 := by omega
    exact h

/-- R13, R16: a release. -/
theorem Window.Fits.release (h : v.Fits) : (⟨if v.life.isRetiring ∧ v.refs - 1 = 0 then .free else v.life, v.refs - 1⟩ :
    Window).Fits := by
  split
  · next e => exact e.2
  · next e =>
    obtain ⟨life, refs⟩ := v
    cases life with
    | free => exact Nat.sub_eq_zero_of_le (Nat.le_trans (Nat.le_of_eq h) (Nat.zero_le _))
    | reserved hd => exact Nat.sub_eq_zero_of_le (Nat.le_trans (Nat.le_of_eq h) (Nat.zero_le _))
    | live hd img f => trivial
    | retiring hd img f => exact Nat.pos_of_ne_zero fun h0 => e ⟨rfl, h0⟩
end

/-! ### Every window -/

/-- The references of every window fit its life. -/
structure AllFit (s : State) : Prop where
  fits : ∀ w, (s.window w).Fits

theorem refsFitLife_iff {s : State} : RefsFitLife s ↔ AllFit s := ⟨fun h => ⟨h⟩, AllFit.fits⟩

section
variable {s u : State} {w : WindowId}

theorem AllFit.of_windows (hs : AllFit s) (h : ∀ w, u.window w = s.window w) : AllFit u :=
  ⟨fun w => by rw [h]; exact hs.fits w⟩

theorem AllFit.setWindow (hs : AllFit s) {v : Window} (hv : v.Fits) : AllFit (s.setWindow w v) :=
  ⟨fun x => by
    rw [State.window_setWindow]
    split
    · exact hv
    · exact hs.fits x⟩

theorem AllFit.releaseRef (hs : AllFit s) (w : WindowId) : AllFit (releaseRef w s) :=
  ⟨fun x => by
    rw [releaseRef_window]
    split
    · exact (hs.fits w).release
    · exact hs.fits x⟩

theorem AllFit.releaseRefs (hs : AllFit s) (ws : List WindowId) : AllFit (releaseRefs ws s) :=
  foldl_keeps_law (fun _ w hs => hs.releaseRef w) ws hs

theorem AllFit.addRefs (hs : AllFit s) {ws : List WindowId}
    (hws : ∀ w ∈ ws, (s.window w).life ≠ .free ∧ ∀ hd, (s.window w).life ≠ .reserved hd) :
    AllFit (addRefs ws s) := ⟨fun x => by
  have hwindow : (Machine.addRefs ws s).window x = { s.window x with refs := (s.window x).refs + ws.count x } :=
    Window.ext_fields (addRefs_life s ws x) (addRefs_refs s ws x)
  rw [hwindow]
  exact (hs.fits x).add fun hpos => hws x (List.count_pos_iff.mp hpos)⟩

theorem AllFit.freeTag (hs : AllFit s) (t : TagNo) : AllFit (freeTag t s) :=
  AllFit.releaseRef (s := s.setTag t { s.tag t with state := .free }) (hs.of_windows fun _ => rfl) _

/-- R4: a fault changes no references. -/
theorem AllFit.setFault (hs : AllFit s) (w : WindowId) (address : Nat) : AllFit (setFault w address s) := by
  have hw := hs.fits w
  unfold Machine.setFault
  dsimp only
  split
  · next hd img hl =>
    exact (hs.setWindow (w := w) (Window.fits_live (hd := hd) (img := img) (f := some address)
      (r := (s.window w).refs))).of_windows fun _ => rfl
  · next hd img hl =>
    have hretiring : (⟨.retiring hd img (some address), (s.window w).refs⟩ : Window).Fits := by
      unfold Window.Fits at hw ⊢
      rw [hl] at hw
      exact hw
    exact (hs.setWindow (w := w) hretiring).of_windows fun _ => rfl
  · exact hs

theorem AllFit.freeWindow (hs : AllFit s) (h0 : (s.window w).refs = 0) : AllFit (freeWindow w s) :=
  ⟨fun x => by
    rw [freeWindow_window]
    split
    · exact h0
    · exact hs.fits x⟩

/-! ### The commands on windows -/

theorem AllFit.processWindow (hs : AllFit s) (w : WindowId) : AllFit (processWindow w s) := by
  rcases processWindow_cases s w with ⟨hd, -, e⟩ | ⟨hd, img, f, -, -, e⟩ | ⟨hd, img, f, -, -, hr, e⟩ |
    ⟨hd, img, f, -, -, hr, e⟩ | ⟨-, e⟩ <;> rw [e]
  · exact hs.setWindow Window.fits_live
  · exact hs.setWindow Window.fits_live
  · exact hs.setWindow (Nat.pos_of_ne_zero hr)
  · exact hs.freeWindow hr
  · exact hs

theorem AllFit.applyClients (hs : AllFit s) (h : HeadId) (cs : List ClientId) :
    AllFit (applyClients h cs s) := by
  have happlied : AllFit (cs.foldl (applyClient h) s) := foldl_keeps_law (fun s c hs =>
    foldl_keeps_law (fun s w hs => by
      split
      · exact hs.processWindow w
      · exact hs) allWindows hs) cs hs
  obtain ⟨-, -, hwindows⟩ := applyClients_lists h cs s
  exact happlied.of_windows hwindows

theorem AllFit.setStaged (hs : AllFit s) (w : WindowId) (st : Staged) : AllFit (setStaged w st s) := by
  have hw := hs.fits w
  unfold Machine.setStaged
  dsimp only
  split
  · next hd hl =>
    refine hs.setWindow (w := w) (v := ⟨.reserved { hd with staged := st }, (s.window w).refs⟩) ?_
    unfold Window.Fits at hw ⊢
    rw [hl] at hw
    exact hw
  · exact hs.setWindow Window.fits_live
  · exact hs

theorem AllFit.closeOnHead (hs : AllFit s) (n : ClientId) (h : HeadId) : AllFit (closeOnHead n s h) := by
  unfold Machine.closeOnHead
  repeat' split
  · exact hs.applyClients h [n]
  · exact hs
  · exact hs.of_windows fun _ => rfl
  · exact hs

theorem AllFit.freeReserved (hs : AllFit s) (n : ClientId) : AllFit (freeReserved n s) := by
  unfold Machine.freeReserved
  refine foldl_keeps_law (fun s w hs => ?_) allWindows hs
  split
  · next hd hl =>
    have hw := hs.fits w
    unfold Window.Fits at hw
    rw [hl] at hw
    split
    · exact hs.freeWindow hw
    · exact hs
  · exact hs

theorem AllFit.retireLive (hs : AllFit s) (n : ClientId) : AllFit (retireLive n s) := by
  unfold Machine.retireLive
  refine foldl_keeps_law (fun s w hs => ?_) allWindows hs
  split
  · split
    · exact hs.setStaged w _
    · exact hs
  · exact hs

/-- R44. -/
theorem AllFit.closeClient (hs : AllFit s) (n : ClientId) : AllFit (closeClient n s) := by
  have hclosing : AllFit (closingOf n (closeChannel n s)) := hs.of_windows fun _ => rfl
  have hdrained : AllFit (drainWindows n (closingOf n (closeChannel n s))) := by
    rw [drainWindows, closeOnHeads, prepareWindows]
    exact ((hclosing.freeReserved n).retireLive n).closeOnHead n 0 |>.closeOnHead n 1
  rw [closeClient_eq]
  split
  · exact hdrained.of_windows fun w => enterClosed_window _ n w
  · exact hdrained

theorem AllFit.of_table {c : ClientId} (h : TableEffect c s u) (hs : AllFit s) : AllFit u := by
  cases h with
  | reserve w h _ _ hfree =>
    have hw := hs.fits w
    unfold Window.Fits at hw
    rw [hfree] at hw
    exact (hs.setWindow (w := w) (v := ⟨.reserved ⟨c, h, Staged.fresh⟩, (s.window w).refs⟩) hw).of_windows fun _ => rfl
  | stage w _ st => exact hs.setStaged w st
  | retire w hd hl =>
    have hw := hs.fits w
    unfold Window.Fits at hw
    rw [hl] at hw
    exact hs.freeWindow hw
  | enqueue => exact hs.of_windows fun _ => rfl
  | apply h => exact hs.applyClients h [c]
  | openClient => exact hs.of_windows fun _ => rfl
  | closeClient n => exact hs.closeClient n
  | setAperture => exact hs.of_windows fun _ => rfl
  | setHeads => exact hs.of_windows fun _ => rfl
end

end Sys2Proof.Machine
end

section
/-! O51: the reference counts (R14). References are compared with what slots and tags hold, as sums over slots and
tags. -/

namespace Sys2Proof.Machine

/-! ### What slots and tags hold -/

/-- 1 for a tag that is not FREE and names the window. -/
def Tag.holds (tg : Tag) (w : WindowId) : Nat := if tg.state ≠ .free ∧ tg.window = w then 1 else 0

/-- The references to a window that the slots of a head hold. -/
def State.heldByHead (s : State) (w : WindowId) (h : HeadId) : Nat := ∑ k, (s.place h k).1.references.count w

def State.heldBySlots (s : State) (w : WindowId) : Nat := ∑ h, s.heldByHead w h

def State.heldByTags (s : State) (w : WindowId) : Nat := ∑ t, (s.tag t).holds w

/-- The references to a window that slots and tags hold (R14). -/
def State.refsHeld (s : State) (w : WindowId) : Nat := s.heldBySlots w + s.heldByTags w

theorem count_map_filter {α : Type} (l : List α) (p : α → Bool) (f : α → WindowId) (w : WindowId) :
    ((l.filter p).map f).count w = (l.map fun a => if p a = true ∧ f a = w then 1 else 0).sum := by
  induction l with
  | nil => rfl
  | cons a l ih =>
    by_cases hp : p a = true
    · rw [List.filter_cons_of_pos hp, List.map_cons, List.count_cons, ih, List.map_cons, List.sum_cons, Nat.add_comm]
      simp [hp]
    · rw [List.filter_cons_of_neg hp, ih, List.map_cons, List.sum_cons]
      simp [hp]

theorem refsHeld_eq (s : State) (w : WindowId) :
    s.refsHeld w = s.slotReferences.count w + s.tagReferences.count w := by
  have hslots : s.slotReferences.count w = s.heldBySlots w := by
    rw [State.slotReferences, List.count_flatMap, State.heldBySlots, Fin.sum_univ_def]
    refine congrArg List.sum (List.map_congr_left fun h _ => ?_)
    rw [Function.comp_apply, List.count_flatMap, State.heldByHead, Fin.sum_univ_def]
    rfl
  have htags : s.tagReferences.count w = s.heldByTags w := by
    rw [State.tagReferences, count_map_filter, State.heldByTags, Fin.sum_univ_def]
    simp only [decide_eq_true_eq]
    rfl
  rw [hslots, htags, State.refsHeld]

theorem refsCounted_iff {s : State} : RefsCounted s ↔ ∀ w, (s.window w).refs = s.refsHeld w := by
  simp only [RefsCounted, refsHeld_eq]

section
variable {s u : State} {h : HeadId} {k : SlotNo} {w : WindowId}

/-- One slot changes. -/
theorem refsHeld_of_place (hp : ∀ x j, (h = x ∧ k = j → False) → u.place x j = s.place x j)
    (ht : ∀ t, (u.tag t).holds w = (s.tag t).holds w) :
    u.refsHeld w + (s.place h k).1.references.count w = s.refsHeld w + (u.place h k).1.references.count w := by
  have hslot : u.heldByHead w h + (s.place h k).1.references.count w =
      s.heldByHead w h + (u.place h k).1.references.count w :=
    sum_exchange (f := fun j => (s.place h j).1.references.count w) (g := fun j => (u.place h j).1.references.count w) k
      fun j hj => by rw [hp h j fun e => hj e.2.symm]
  have hhead : u.heldBySlots w + s.heldByHead w h = s.heldBySlots w + u.heldByHead w h :=
    sum_exchange (f := s.heldByHead w) (g := u.heldByHead w) h
      fun x hx => Finset.sum_congr rfl fun j _ => by rw [hp x j fun e => hx e.1.symm]
  have htags : u.heldByTags w = s.heldByTags w := Finset.sum_congr rfl fun t _ => ht t
  unfold State.refsHeld
  omega

/-- One tag changes. -/
theorem refsHeld_of_tag {t : TagNo} (hp : ∀ x j, (u.place x j).1 = (s.place x j).1)
    (ht : ∀ i, i ≠ t → u.tag i = s.tag i) :
    u.refsHeld w + (s.tag t).holds w = s.refsHeld w + (u.tag t).holds w := by
  have hslots : u.heldBySlots w = s.heldBySlots w := by simp only [State.heldBySlots, State.heldByHead, hp]
  have htags : u.heldByTags w + (s.tag t).holds w = s.heldByTags w + (u.tag t).holds w :=
    sum_exchange (f := fun i => (s.tag i).holds w) (g := fun i => (u.tag i).holds w) t fun i hi => by rw [ht i hi]
  unfold State.refsHeld
  omega

theorem refsHeld_congr (hp : ∀ x j, (u.place x j).1 = (s.place x j).1) (ht : ∀ t, (u.tag t).holds w = (s.tag t).holds w) :
    u.refsHeld w = s.refsHeld w := by
  simp only [State.refsHeld, State.heldBySlots, State.heldByHead, State.heldByTags, hp, ht]

/-! ### Owed references -/

/-- The references are those that slots and tags hold, and those that are yet to be released. -/
def Owes (s : State) (ws : List WindowId) : Prop := ∀ w, (s.window w).refs = s.refsHeld w + ws.count w

theorem owes_nil_iff : Owes s [] ↔ RefsCounted s := by
  simp only [Owes, refsCounted_iff, List.count_nil, Nat.add_zero]

/-- R16. -/
theorem Owes.releaseRefs {ws : List WindowId} (hs : Owes s ws) : RefsCounted (releaseRefs ws s) :=
  refsCounted_iff.mpr fun w => by
    rw [releaseRefs_refs, hs w, refsHeld_congr (u := Machine.releaseRefs ws s) (s := s) (fun _ _ => by rw [releaseRefs_place])
      fun t => by rw [releaseRefs_tag]]
    omega

theorem Owes.releaseRef (hs : Owes s [w]) : RefsCounted (releaseRef w s) := hs.releaseRefs

theorem RefsCounted.of_same (hs : RefsCounted s) (hr : ∀ w, (u.window w).refs = (s.window w).refs)
    (hp : ∀ x j, (u.place x j).1 = (s.place x j).1) (ht : ∀ t w, (u.tag t).holds w = (s.tag t).holds w) : RefsCounted u :=
  refsCounted_iff.mpr fun w => by
    rw [hr, refsHeld_congr hp fun t => ht t w]
    exact refsCounted_iff.mp hs w

theorem Tag.holds_stale {tg : Tag} (ha : tg.state = .active) (w : WindowId) :
    ({ tg with state := .stale } : Tag).holds w = tg.holds w := by
  simp [Tag.holds, ha]

theorem Tag.holds_free (tg : Tag) (w : WindowId) : ({ tg with state := .free } : Tag).holds w = 0 := if_neg fun h => h.1 rfl

/-- R120: a tag that ages is not FREE, and stays so. -/
theorem Tag.holds_aged (tg : Tag) (h : HeadId) (w : WindowId) : (tg.aged h).holds w = tg.holds w := by
  unfold Tag.aged
  split
  · next ha =>
    simp only [Tag.agesWith, Bool.and_eq_true, Bool.or_eq_true, beq_iff_eq] at ha
    have hheld : tg.state ≠ .free := by rcases ha.2 with e | e <;> rw [e] <;> exact nofun
    have haged : (if tg.age + 1 = expiryAge then TagState.abandoned else tg.state) ≠ .free := by
      split
      · exact nofun
      · exact hheld
    simp only [Tag.holds, hheld, haged, ne_eq, not_false_eq_true, true_and]
  · rfl

theorem staleTags_holds (p : Tag → Bool) (t : TagNo) (w : WindowId) : ((staleTags p s).tag t).holds w = (s.tag t).holds w := by
  rw [staleTags_tag]
  split
  · next h => exact Tag.holds_stale h.1 w
  · rfl

/-- R16: a tag that is not FREE gives up its reference. -/
theorem RefsCounted.freeTag (hs : RefsCounted s) {t : TagNo} (ht : (s.tag t).state ≠ .free) : RefsCounted (freeTag t s) := by
  refine Owes.releaseRef fun w => ?_
  have hfreed := refsHeld_of_tag (s := s) (u := s.setTag t { s.tag t with state := .free }) (w := w) (t := t)
    (fun _ _ => rfl) fun i hi => by rw [State.tag_setTag, if_neg (Ne.symm hi)]
  have hheld : (s.tag t).holds w = [(s.tag t).window].count w := by
    rw [List.count_singleton, Tag.holds]
    simp only [ht, ne_eq, not_false_eq_true, true_and, beq_iff_eq]
  rw [State.tag_setTag, if_pos rfl, Tag.holds_free] at hfreed
  have hcount := refsCounted_iff.mp hs w
  rw [State.window_setTag]
  omega
end

/-! ### The segments of a line -/

/-- The references of a layer to a window. -/
def Layer.refers (w : WindowId) (l : Layer) : Nat := if l.status ≠ .absent ∧ l.window = w then 1 else 0

theorem references_count (a : ActiveLine) (w : WindowId) :
    (Slot.active a).references.count w = ((walkLayers a.spans).map (Layer.refers w)).sum := by
  rw [Slot.references, count_map_filter]
  simp only [decide_eq_true_eq]
  rfl

theorem references_settle (a : ActiveLine) : (Slot.active a.settle).references = (Slot.active a).references := by
  rw [ActiveLine.settle_eq]
  rfl

section
variable {spans : List Span} {f : Layer → Layer} {i j : Nat} {w : WindowId}

theorem sum_map_modify {α : Type} {g : α → Nat} {f : α → α} {l : List α} {i : Nat} {a : α} (ha : l[i]? = some a) :
    ((l.modify i f).map g).sum + g a = (l.map g).sum + g (f a) := by
  induction l generalizing i with
  | nil => simp at ha
  | cons b l ih =>
    cases i with
    | zero =>
      simp only [List.getElem?_cons_zero, Option.some.injEq] at ha
      subst ha
      simp only [List.modify_zero_cons, List.map_cons, List.sum_cons]
      omega
    | succ i =>
      rw [List.getElem?_cons_succ] at ha
      have := ih ha
      simp only [List.modify_succ_cons, List.map_cons, List.sum_cons]
      omega

theorem sum_walkLayers (g : Layer → Nat) (spans : List Span) :
    ((walkLayers spans).map g).sum = (spans.map fun sp => (sp.layers.map g).sum).sum := by
  induction spans with
  | nil => rfl
  | cons sp spans ih =>
    rw [walkLayers, List.flatMap_cons, List.map_append, List.sum_append, List.map_cons, List.sum_cons, ← ih]
    rfl

/-- One segment changes. -/
theorem sum_walkLayers_modifyLayer (g : Layer → Nat) {sp : Span} {l : Layer} (hseg : Segment spans i j sp l) :
    ((walkLayers (modifyLayer f spans i j)).map g).sum + g l = ((walkLayers spans).map g).sum + g (f l) := by
  have hspan := sum_map_modify (g := fun sp : Span => (sp.layers.map g).sum)
    (f := fun sp => { sp with layers := sp.layers.modify j f }) hseg.1
  have hlayer := sum_map_modify (g := g) (f := f) hseg.2
  rw [sum_walkLayers, sum_walkLayers, modifyLayer]
  dsimp only at hspan
  omega

theorem map_modify_same {α β : Type} {g : α → β} {f : α → α} (hg : ∀ a, g (f a) = g a) (l : List α) (i : Nat) :
    (l.modify i f).map g = l.map g := by
  induction l generalizing i with
  | nil => simp
  | cons a l ih =>
    cases i with
    | zero => simp only [List.modify_zero_cons, List.map_cons, hg]
    | succ i => simp only [List.modify_succ_cons, List.map_cons, ih]

/-- A segment changes, and counts as before. -/
theorem sum_walkLayers_modifyLayer_same (g : Layer → Nat) (hg : ∀ l, g (f l) = g l) :
    ((walkLayers (modifyLayer f spans i j)).map g).sum = ((walkLayers spans).map g).sum := by
  rw [sum_walkLayers, sum_walkLayers, modifyLayer, map_modify_same fun sp => ?_]
  exact congrArg List.sum (map_modify_same hg sp.layers j)

/-- R117: the references of a line are those that stay at the deadline and those of its PENDING segments. -/
theorem references_missDeadlines (a : ActiveLine) (w : WindowId) : (Slot.active a).references.count w =
    ((walkLayers (missDeadlines a.spans)).map (Layer.refers w)).sum + (pendingWindows a.spans).count w := by
  have hwalk : walkLayers (missDeadlines a.spans) = (walkLayers a.spans).map Layer.missDeadline := by
    simp only [walkLayers, missDeadlines, List.flatMap_map, List.map_flatMap]
  have hsplit : ∀ l : List Layer, (l.map (Layer.refers w)).sum = ((l.map Layer.missDeadline).map (Layer.refers w)).sum +
      ((l.filter fun l => l.status = .pending).map Layer.window).count w := by
    intro l
    induction l with
    | nil => rfl
    | cons m l ih =>
      have hm : m.refers w = m.missDeadline.refers w + if m.status = .pending ∧ m.window = w then 1 else 0 := by
        unfold Layer.refers Layer.missDeadline
        cases hm : m.status <;> simp [hm]
      rw [count_map_filter] at ih ⊢
      simp only [List.map_cons, List.sum_cons, decide_eq_true_eq] at ih ⊢
      omega
  rw [references_count, hwalk]
  exact hsplit _
end

end Sys2Proof.Machine
end

section
/-! O51: every part of a step keeps the reference counts and their fit to the lives of the windows. -/

namespace Sys2Proof.Machine

/-- The references of every window are counted right and fit its life. -/
structure Ledger (s : State) : Prop where
  counted : RefsCounted s
  fit     : AllFit s

section
variable {s u : State} {h : HeadId} {k : SlotNo}

theorem Ledger.of_same (hs : Ledger s) (hw : ∀ w, u.window w = s.window w) (hp : ∀ x j, (u.place x j).1 = (s.place x j).1)
    (ht : ∀ t w, (u.tag t).holds w = (s.tag t).holds w) : Ledger u :=
  ⟨hs.counted.of_same (fun w => by rw [hw]) hp ht, hs.fit.of_windows hw⟩

/-- A slot gives up some references, which are then released (R16). -/
theorem Ledger.release (hs : Ledger s) {v : Slot} {p : Option Pos} {ws : List WindowId}
    (hw : ∀ w, u.window w = s.window w) (hp : ∀ x j, u.place x j = if h = x ∧ k = j then (v, p) else s.place x j)
    (ht : ∀ t w, (u.tag t).holds w = (s.tag t).holds w)
    (hv : ∀ w, (s.head h).slots[k].references.count w = v.references.count w + ws.count w) : Ledger (releaseRefs ws u) where
  counted := Owes.releaseRefs fun w => by
    have hheld := refsHeld_of_place (w := w) (h := h) (k := k) (fun x j hne => by rw [hp, if_neg hne]) fun t => ht t w
    rw [hp h k, if_pos ⟨rfl, rfl⟩] at hheld
    have hcount := refsCounted_iff.mp hs.counted w
    have hsplit := hv w
    rw [hw]
    unfold State.place at hheld
    dsimp only at hheld
    omega
  fit := (hs.fit.of_windows hw).releaseRefs ws

/-- A slot changes, and holds the references it held. -/
theorem Ledger.of_place (hs : Ledger s) {v : Slot} {p : Option Pos} (hw : ∀ w, u.window w = s.window w)
    (hp : ∀ x j, u.place x j = if h = x ∧ k = j then (v, p) else s.place x j)
    (ht : ∀ t w, (u.tag t).holds w = (s.tag t).holds w)
    (hv : ∀ w, (s.head h).slots[k].references.count w = v.references.count w) : Ledger u :=
  hs.release (ws := []) hw hp ht hv

theorem Ledger.staleTags (hs : Ledger s) (p : Tag → Bool) : Ledger (staleTags p s) :=
  hs.of_same (fun w => staleTags_window s p w) (fun _ _ => by rw [staleTags_place]) fun t w => staleTags_holds p t w

/-- R84. -/
theorem Ledger.emptySlot (hs : Ledger s) (h : HeadId) (k : SlotNo) : Ledger (emptySlot h k s) := by
  unfold Machine.emptySlot
  refine hs.release (h := h) (k := k) (v := .empty) (p := none) (fun w => ?_) (fun x j => ?_) (fun t w => ?_) fun w => ?_
  · exact staleTags_window _ _ w
  · rw [staleTags_place]
    exact setSlot_place _ _
  · rw [staleTags_holds]
    rfl
  · exact (Nat.zero_add _).symm

/-- The windows of the covers of a line are LIVE (R86). -/
theorem live_of_pendingWindows {row width : Nat} {w : WindowId}
    (hw : w ∈ pendingWindows (resolveLine row width (coversOf row width h s)).spans) :
    ∃ hd img, (s.window w).life = .live hd img none := by
  obtain ⟨l, hl, rfl⟩ := List.mem_map.mp hw
  obtain ⟨sp, hsp, hmem⟩ := List.mem_flatMap.mp (List.mem_of_mem_filter hl)
  rw [resolveLine_spans] at hsp
  obtain ⟨r, hr, before, rfl⟩ := mem_chargeRuns hsp
  obtain ⟨c, hc, e⟩ := mem_chargeStack hmem
  have hfrom : StacksFrom (coversOf row width h s) (limitedRuns width (coversOf row width h s)) :=
    (intervals_stacksFrom _).limitRun.mergeRuns.limitSpans width
  have hlive := ((coversAreClippedToTheLine s h row width).1 c (hfrom r hr c hc))
  obtain ⟨-, -, -, -, -, -, hd, img, hlife, -⟩ := hlive
  have hwindow : l.window = c.window := congrArg Layer.window e
  exact ⟨hd, img, hwindow ▸ hlife⟩

/-- R15, R85, R96: a line resolved into an EMPTY slot adds its references. -/
theorem Ledger.resolveInto (hs : Ledger s) (n : Nat) (hempty : (s.head h).slots[k] = .empty) :
    Ledger (resolveInto h k n s) := by
  cases ht : (s.head h).timing with
  | none => unfold Machine.resolveInto; rw [ht]; exact hs
  | some t =>
    have hplaces : ∀ x j, (h = x ∧ k = j → False) → (Machine.resolveInto h k n s).place x j = s.place x j := fun x j hne => by
      rcases resolveInto_cases h k n s ht with ⟨-, e⟩ | ⟨-, r, -, e⟩ <;> rw [e]
      · rw [setSlot_place, if_neg hne]
      · rw [notifyOwners_place, addRefs_place, setSlot_place, if_neg hne]
    refine ⟨refsCounted_iff.mpr fun w => ?_, ?_⟩
    · have hheld := refsHeld_of_place (w := w) hplaces fun t => by rw [resolveInto_tag]
      have hcount := refsCounted_iff.mp hs.counted w
      have hrefs := resolveInto_refs h s ht k n w
      have hzero : (s.place h k).1.references.count w = 0 := by rw [State.place, hempty]; rfl
      unfold State.place at hheld hzero
      dsimp only at hheld hzero
      omega
    · rcases resolveInto_cases h k n s ht with ⟨-, e⟩ | ⟨-, r, rfl, e⟩ <;> rw [e]
      · exact hs.fit.of_windows fun _ => rfl
      · have hset (v : Slot) (p : Option Pos) : AllFit (setSlot h k v p s) := hs.fit.of_windows fun _ => rfl
        refine AllFit.of_windows ((hset _ _).addRefs fun w hw => ?_) fun w => notifyOwners_window _ _ _ w
        obtain ⟨hd, img, hlife⟩ := live_of_pendingWindows hw
        have hkept (v : Slot) (p : Option Pos) : ((setSlot h k v p s).window w).life = .live hd img none := hlife
        rw [hkept]
        exact ⟨nofun, nofun⟩

/-- R117, R119. -/
theorem Ledger.takeDeadline (hs : Ledger s) (h : HeadId) : Ledger (takeDeadline h s) := by
  rcases takeDeadline_cases s h with e | ⟨k, a, ha, -, e⟩ | ⟨k, a, ha, -, e⟩ <;> rw [e]
  · exact hs
  · exact hs.of_place (fun _ => rfl) (fun x j => setHead_place rfl rfl) (fun _ _ => rfl) fun w => by rw [ha]; rfl
  · refine hs.release (h := h) (k := k) (v := .active { a with phase := .showing, spans := missDeadlines a.spans })
      (p := none) (fun w => notifyOwners_window _ _ _ w) (fun x j => ?_) (fun t w => ?_) fun w => ?_
    · rw [notifyOwners_place, segmentsMissed, staleTags_place]
      exact setHead_place rfl rfl
    · rw [notifyOwners_tag, segmentsMissed, staleTags_holds]
      rfl
    · rw [ha, references_missDeadlines, references_count]

theorem references_le_refsHeld (s : State) (h : HeadId) (k : SlotNo) (w : WindowId) :
    (s.place h k).1.references.count w ≤ s.refsHeld w := by
  have hslot : (s.place h k).1.references.count w ≤ s.heldByHead w h :=
    Finset.single_le_sum (f := fun j => (s.place h j).1.references.count w) (fun _ _ => Nat.zero_le _) (Finset.mem_univ k)
  have hhead : s.heldByHead w h ≤ s.heldBySlots w :=
    Finset.single_le_sum (f := s.heldByHead w) (fun _ _ => Nat.zero_le _) (Finset.mem_univ h)
  unfold State.refsHeld
  omega

/-- R103: a request is for the window of a PENDING segment. -/
theorem requestAt_references {a : ActiveLine} {p : Pos} {r : Request} (hr : requestAt h k a p = some r) :
    r.window ∈ (Slot.active a).references := by
  by_cases hp : PendingAt a.spans p.span p.layer
  · obtain ⟨l, hl, hpending⟩ := hp
    obtain ⟨sp, hseg⟩ := Segment.of_layerAt hl
    rw [requestAt_of_pending hseg.1 hseg.2 hpending] at hr
    cases hr
    refine List.mem_map_of_mem (List.mem_filter.mpr ⟨hseg.mem_walkLayers, ?_⟩)
    rw [hpending]
    rfl
  · rw [requestAt_of_not_pending hp] at hr
    cases hr

/-- R106: the tag that an issue takes was FREE; its segment holds a reference, so the window may have one. -/
theorem Ledger.issue (hs : Ledger s) {t : TagNo} {r : Request} (ho : offered s = some (t, r)) : Ledger (issue t r s) := by
  obtain ⟨hfree, a, p, hplace, hr⟩ := offered_place ho
  have hwindow (w : WindowId) : (Machine.issue t r s).window w = (addRef r.window s).window w := rfl
  have hslots (x : HeadId) (j : SlotNo) : ((Machine.issue t r s).place x j).1 = (s.place x j).1 := by
    rw [issue_place]
    split <;> rfl
  have hrefs (w : WindowId) : ((addRef r.window s).window w).refs = (s.window w).refs + [r.window].count w :=
    addRefs_refs s [r.window] w
  have hnew (w : WindowId) : ((Machine.issue t r s).tag t).holds w = [r.window].count w := by
    rw [issue_tag, if_pos rfl, Tag.holds, List.count_singleton]
    simp
  have hold (w : WindowId) : (s.tag t).holds w = 0 := if_neg fun h => h.1 hfree
  have hheld (w : WindowId) := refsHeld_of_tag (s := s) (u := Machine.issue t r s) (w := w) (t := t) hslots
    fun i hi => by rw [issue_tag, if_neg (Ne.symm hi)]
  refine ⟨refsCounted_iff.mpr fun w => ?_, ?_⟩
  · have hcount := refsCounted_iff.mp hs.counted w
    have h1 := hheld w
    rw [hnew, hold] at h1
    rw [hwindow, hrefs]
    omega
  · have hsome : 0 < (s.window r.window).refs := by
      have hle := references_le_refsHeld s r.head r.slot r.window
      have hpos := List.count_pos_iff.mpr (requestAt_references hr)
      rw [hplace] at hle
      rw [refsCounted_iff.mp hs.counted]
      exact Nat.lt_of_lt_of_le hpos hle
    refine AllFit.of_windows (s := addRefs [r.window] s) (hs.fit.addRefs fun w hw => ?_) hwindow
    obtain rfl := List.mem_singleton.mp hw
    exact (hs.fit.fits r.window).shown hsome

theorem Layer.receive_refers (sp : Span) (address : Nat) (data : List Byte) (w : WindowId) (l : Layer) :
    (l.receive sp address data).refers w = l.refers w := by
  have hstatus : (l.receive sp address data).status ≠ .absent ↔ l.status ≠ .absent := by
    unfold Layer.receive
    dsimp only
    split
    · next hf => rw [hf.1]; exact ⟨fun _ => nofun, fun _ => nofun⟩
    · exact Iff.rfl
  simp only [Layer.refers, hstatus]
  rfl

/-- R111: an OK response takes the reference of its tag. -/
theorem Ledger.okResponse (hs : Ledger s) {t : TagNo} (data : List Byte) (ha : (s.tag t).state = .active) :
    Ledger (okResponse t data s) := by
  have freed {v : State} (hv : Ledger v) (ht : v.tag t = s.tag t) : Ledger (freeTag t v) :=
    ⟨hv.counted.freeTag (by rw [ht, ha]; exact nofun), hv.fit.freeTag t⟩
  unfold Machine.okResponse
  dsimp only
  split
  · next a hslot =>
    split
    · next sp hsp =>
      refine freed ?_ rfl
      refine hs.of_place (fun _ => rfl) (fun x j => putContent_place _) (fun _ _ => rfl) fun w => ?_
      rw [hslot, references_settle, references_count, references_count]
      exact (sum_walkLayers_modifyLayer_same _ (Layer.receive_refers _ _ _ w)).symm
    · exact freed hs rfl
  · exact freed hs rfl

/-- R113: the segment gives up its reference. -/
theorem Ledger.dropSegment (hs : Ledger s) (h : HeadId) (k : SlotNo) (i j : Nat) : Ledger (dropSegment h k i j s) := by
  unfold Machine.dropSegment
  split
  · next a hslot =>
    split
    · next l hl =>
      obtain ⟨sp, hseg⟩ := Segment.of_layerAt hl
      have hsum (w : WindowId) := sum_walkLayers_modifyLayer (Layer.refers w) (f := fun l => { l with status := .absent }) hseg
      have hdropped (w : WindowId) : ({ l with status := .absent } : Layer).refers w = 0 := if_neg fun h => h.1 rfl
      dsimp only
      split
      · next habsent =>
        refine hs.of_place (fun _ => rfl) (fun x j => putContent_place _) (fun _ _ => rfl) fun w => ?_
        have h0 : l.refers w = 0 := if_neg fun h => h.1 habsent
        rw [hslot, references_settle, references_count, references_count]
        have h1 := hsum w
        rw [hdropped] at h1
        dsimp only
        omega
      · next hheld =>
        refine hs.release (ws := [l.window]) (fun _ => rfl) (fun x j => putContent_place _) (fun _ _ => rfl) fun w => ?_
        have h0 : l.refers w = [l.window].count w := by
          rw [List.count_singleton, Layer.refers]
          simp [hheld]
        rw [hslot, references_settle, references_count, references_count]
        have h1 := hsum w
        rw [hdropped] at h1
        dsimp only
        omega
    · exact hs
  · exact hs

theorem setFault_refs (w x : WindowId) (address : Nat) (s : State) :
    ((setFault w address s).window x).refs = (s.window x).refs := by
  rw [setFault_window]
  split
  · next e => subst e; rfl
  · rfl

/-- R113: an ERROR response. -/
theorem Ledger.errorResponse (hs : Ledger s) {t : TagNo} (ha : (s.tag t).state = .active) : Ledger (errorResponse t s) := by
  rw [errorResponse_eq]
  generalize hd : Machine.dropSegment _ _ _ _ s = v
  have hv : Ledger v := hd ▸ hs.dropSegment _ _ _ _
  have htag : v.tag t = s.tag t := by rw [← hd, dropSegment_tag]
  have hstale : Ledger (Machine.staleTags (s.tag t).sameSegment v) := hv.staleTags _
  have hfault : Ledger (setFault (s.tag t).window (s.tag t).address
      (Machine.staleTags (s.tag t).sameSegment v)) :=
    ⟨hstale.counted.of_same (fun w => setFault_refs _ w _ _) (fun _ _ => by rw [setFault_place])
      fun i w => by rw [setFault_tag], hstale.fit.setFault _ _⟩
  refine ⟨hfault.counted.freeTag ?_, hfault.fit.freeTag t⟩
  rw [setFault_tag, staleTags_tag, htag]
  split
  · exact nofun
  · rw [ha]; exact nofun

/-- R14: every part of a step keeps the counts. -/
theorem ledger_fetchLaw : FetchLaw True False Ledger where
  counters {s h v} hv hs := hs.of_same (fun _ => rfl) (fun x j => by
    simp only [State.place, State.head_setHead]
    split
    · next e => subst e; simp only [hv.slots]
    · rfl) fun _ _ => rfl
  notify hs := hs.of_same (fun _ => rfl) (fun _ _ => rfl) fun _ _ => rfl
  emptySlot h k hs := hs.emptySlot h k
  resolve n hempty hs := hs.resolveInto n (hempty trivial)
  apply h hs := by
    have hf := applyQueue_sameFetch h
    refine ⟨hs.counted.of_same (hf _).refs (fun _ _ => by rw [(hf _).place]) fun t w => by rw [(hf _).tags], ?_⟩
    rw [applyQueue_eq]
    exact (hs.fit.applyClients h _).of_windows fun _ => rfl
  stale p hs := hs.staleTags p
  age h hs := hs.of_same (fun w => by rw [State.window, (ageTags_sameForReleases h _).windows]; rfl)
    (fun x _ => by rw [place_of_head_eq (ageTags_head h _ x)]) fun t w => by rw [ageTags_tag, Tag.holds_aged]
  draws _ hs := hs.of_same (fun _ => rfl) (fun _ _ => rfl) fun _ _ => rfl
  reset := by
    have hplace (h : HeadId) (k : SlotNo) : (State.reset.place h k).1 = .empty := by
      rw [State.place, State.reset_head]
      exact Head.reset_slotsEmpty k
    refine ⟨refsCounted_iff.mpr fun w => ?_, ⟨fun w => by rw [State.reset_window]; rfl⟩⟩
    have htag (t : TagNo) : (State.reset.tag t).holds w = 0 := by
      rw [State.reset_tag]
      exact if_neg fun h => h.1 rfl
    simp only [State.reset_window, State.refsHeld, State.heldBySlots, State.heldByHead, State.heldByTags, hplace, htag,
      Slot.references, List.count_nil, Finset.sum_const_zero, Nat.add_zero]
  outside hs hu := hs.of_same hu.windows (fun h _ => by rw [place_of_head_eq (hu.heads h)]) fun t w => by rw [hu.tags]
  body ht hf hs := ⟨hs.counted.of_same hf.refs (fun _ _ => by rw [hf.place]) fun t w => by rw [hf.tags], hs.fit.of_table ht⟩
  setTiming {s h ts} _ _ hs := hs.of_same (fun _ => rfl) (fun x j => by
    rw [State.place, State.place, State.head_setHead]
    split
    · next e => subst e; rfl
    · rfl) fun _ _ => rfl
  deadline h hs := hs.takeDeadline h
  issue ho hs := hs.issue ho
  ok data ha hs := hs.okResponse data ha
  error ha hs := hs.errorResponse ha
  late {_ t} hl hs := ⟨hs.counted.freeTag (by rcases hl with e | e <;> rw [e] <;> exact nofun), hs.fit.freeTag t⟩
end

/-- R14, R42: the reference law is the ledger with EMPTY slots of heads before their first line start. -/
theorem referenceLaw_iff {s : State} : ReferenceLaw s ↔ Ledger s ∧ StoppedSlotsEmpty s :=
  ⟨fun ⟨hc, he, hf⟩ => ⟨⟨hc, refsFitLife_iff.mp hf⟩, he⟩, fun ⟨hl, he⟩ => ⟨hl.counted, he, refsFitLife_iff.mpr hl.fit⟩⟩

theorem StepEffect.referenceLaw {s u : State} (h : StepEffect s u) (hs : ReferenceLaw s) : ReferenceLaw u := by
  obtain ⟨hledger, hempty⟩ := referenceLaw_iff.mp hs
  exact referenceLaw_iff.mpr ⟨ledger_fetchLaw.of_effect (fun _ _ hp => hempty.pending hp) (fun hf => hf.elim) h hledger,
    h.stoppedSlotsEmpty hempty⟩

/-- Settles O51: every part of a step keeps the ledger. -/
theorem stepKeepsReferencesCounted : Obligations.StepKeepsReferencesCounted := fun _ _ hs h =>
  step_keeps (P := ReferenceLaw) (fun _ _ hs => hs) (fun _ _ hs he => he.referenceLaw hs) hs h

end Sys2Proof.Machine
end

section
/-! O17, O50: the Depth List an apply builds, and the laws in the state after device reset. -/

namespace Sys2Proof.Machine

/-! ### The Depth List (R38) -/

/-- The windows a Depth List may hold, with their depths, by ascending id. -/
def listedWindows (h : HeadId) (s : State) : List (Nat × WindowId) :=
  allWindows.filterMap fun w => (listedDepth h (s.window w)).map fun d => (d, w)

/-- Those of one depth. -/
def listedAt (h : HeadId) (s : State) (d : Nat) : List WindowId :=
  ((listedWindows h s).filter fun e => e.1 == d).map Prod.snd

section
variable {h : HeadId} {s : State} {w : WindowId} {d : Nat}

theorem builtDepthList_eq (h : HeadId) (s : State) :
    builtDepthList h s = (List.range 32).reverse.flatMap (listedAt h s) := rfl

theorem mem_listedWindows : (d, w) ∈ listedWindows h s ↔ listedDepth h (s.window w) = some d := by
  rw [listedWindows, List.mem_filterMap]
  constructor
  · rintro ⟨v, -, hv⟩
    obtain ⟨d', hd, e⟩ := Option.map_eq_some_iff.mp hv
    cases e
    exact hd
  · exact fun hd => ⟨w, List.mem_finRange w, by rw [hd]; rfl⟩

theorem mem_listedAt : w ∈ listedAt h s d ↔ listedDepth h (s.window w) = some d := by
  rw [listedAt, List.mem_map]
  constructor
  · rintro ⟨e, he, rfl⟩
    obtain ⟨hmem, hd⟩ := List.mem_filter.mp he
    rw [beq_iff_eq] at hd
    subst hd
    exact mem_listedWindows.mp hmem
  · exact fun hd => ⟨(d, w), List.mem_filter.mpr ⟨mem_listedWindows.mpr hd, beq_self_eq_true d⟩, rfl⟩

theorem mem_builtDepthList : w ∈ builtDepthList h s ↔ ∃ d, d ≤ 31 ∧ listedDepth h (s.window w) = some d := by
  rw [builtDepthList_eq, List.mem_flatMap]
  simp only [List.mem_reverse, List.mem_range, mem_listedAt, Nat.lt_succ_iff]

theorem listedDepth_eq_some : listedDepth h (s.window w) = some d ↔ ∃ hd img fault,
    (s.window w).life = .live hd img fault ∧ hd.head = h ∧ img.visible = true ∧ img.depth = d := by
  unfold listedDepth
  split
  · next hd img f hl =>
    rw [Option.ite_none_right_eq_some, Option.some.injEq, and_assoc]
    constructor
    · exact fun hp => ⟨hd, img, f, hl, hp⟩
    · rintro ⟨hd', img', f', hl', hp⟩
      rw [hl] at hl'
      cases hl'
      exact hp
  · next hno =>
    constructor
    · intro h
      cases h
    · rintro ⟨hd, img, f, hl, -⟩
      exact absurd hl (hno hd img f)

/-- A listed window's depth is that of its live image. -/
theorem depth_of_listed (hd : listedDepth h (s.window w) = some d) {img : Image}
    (himg : (s.window w).life.liveImage? = some img) : img.depth = d := by
  obtain ⟨held, img', fault, hl, -, -, hdepth⟩ := listedDepth_eq_some.mp hd
  rw [hl, Life.liveImage?, Option.some.injEq] at himg
  exact himg ▸ hdepth

/-- Within one depth the ids ascend. -/
theorem listedAt_pairwise (h : HeadId) (s : State) (d : Nat) : (listedAt h s d).Pairwise (· < ·) := by
  have hlisted : (listedWindows h s).Pairwise fun a b => a.2 < b.2 := by
    refine List.Pairwise.filterMap _ (fun v w hlt => ?_) (List.pairwise_lt_finRange 48)
    intro a ha b hb
    obtain ⟨-, -, rfl⟩ := Option.map_eq_some_iff.mp ha
    obtain ⟨-, -, rfl⟩ := Option.map_eq_some_iff.mp hb
    exact hlt
  exact List.pairwise_map.mpr (hlisted.filter _)
end

/-- Settles O17: membership is membership in the list of some depth, and the lists of the depths are in order. -/
theorem depthListIsOrderedByDepth : Obligations.DepthListIsOrderedByDepth := by
  refine fun s h => ⟨fun w => ?_, ?_⟩
  · rw [mem_builtDepthList]
    constructor
    · rintro ⟨d, hle, hd⟩
      obtain ⟨hd', img, fault, hl, hh, hv, rfl⟩ := listedDepth_eq_some.mp hd
      exact ⟨hd', img, fault, hl, hh, hv, hle⟩
    · rintro ⟨hd, img, fault, hl, hh, hv, hle⟩
      exact ⟨img.depth, hle, listedDepth_eq_some.mpr ⟨hd, img, fault, hl, hh, hv, rfl⟩⟩
  · rw [builtDepthList_eq]
    refine List.pairwise_flatMap.mpr ⟨fun d _ => ?_, ?_⟩
    · refine (List.Pairwise.and_mem.mp (listedAt_pairwise h s d)).imp fun ⟨hv, hw, hlt⟩ a b ha hb => ?_
      rw [depth_of_listed (mem_listedAt.mp hv) ha, depth_of_listed (mem_listedAt.mp hw) hb]
      exact .inr ⟨rfl, hlt⟩
    · refine (List.pairwise_reverse.mpr (List.pairwise_lt_range (n := 32))).imp fun hlt v hv w hw a b ha hb => ?_
      rw [depth_of_listed (mem_listedAt.mp hv) ha, depth_of_listed (mem_listedAt.mp hw) hb]
      exact .inl hlt

/-! ### The reset state -/

theorem stoppedSlotsEmpty_reset : StoppedSlotsEmpty State.reset := fun h _ k => by
  rw [State.reset_head]
  exact Head.reset_slotsEmpty k

theorem queueLaw_reset : QueueLaw State.reset :=
  queueLaw_iff.mpr ⟨queueMembers_reset, fun h _ => by rw [State.reset_head]; rfl⟩

theorem slotLaw_reset : SlotLaw State.reset := fun h =>
  ⟨fun hs => stoppedSlotsEmpty_reset h (.inl hs), (fitsTiming_slotwise.fetchLaw.reset h).2⟩

theorem timingLaw_reset : TimingLaw State.reset := fun h => by rw [State.reset_head]; rfl

theorem followLaw_reset : FollowLaw State.reset := fun h => by
  rw [State.reset_head]
  exact ⟨rfl, rfl, rfl, rfl⟩

/-- Settles O50: each law by the reset state of the records it speaks of. -/
theorem lawsHoldAtReset : Obligations.LawsHoldAtReset :=
  ⟨referenceLaw_iff.mpr ⟨ledger_fetchLaw.reset, stoppedSlotsEmpty_reset⟩, heldLaw_bodyLaw.reset, queueLaw_reset,
    depthListLaw_reset, apertureLaw_bodyLaw.reset.1, slotLaw_reset, timingLaw_reset, followLaw_reset, channelLaw_reset,
    supervisorLaw_bodyLaw.reset, tagLaw_fetchLaw.reset, tenantNoticeLaw_bodyLaw.reset,
    bytesLaw_iff.mpr bytesRise_slotwise.fetchLaw.reset, imageLaw_bodyLaw.reset,
    serveLaw_iff.mpr everyServed_fetchLaw.reset⟩

end Sys2Proof.Machine
end

section
/-! O29: the pixel clock of a head (R49), and the events that its periods raise (logs 2, 5, 6). -/

namespace Sys2Proof.Machine

section
variable {s : State} {h : HeadId} {hd : Head} {ts : TimingSet}

/-! ### Events that are not due (log 2) -/

theorem exec_lineStart_of_not_due (hdue : (s.head h).lineStartDue = false) : exec (.lineStart h) s = .next s := by
  show execLineStart h s = _
  rw [execLineStart, if_neg (Bool.eq_false_iff.mp hdue)]

theorem exec_activeStart_of_not_due (hdue : (s.head h).activeStartDue = false) : exec (.activeStart h) s = .next s := by
  show execActiveStart h s = _
  rw [execActiveStart, if_neg (Bool.eq_false_iff.mp hdue)]

theorem exec_lossOfLock_of_not_due (hdue : (s.head h).lossDue = false) : exec (.lossOfLock h) s = .next s := by
  show execLossOfLock h s = _
  rw [execLossOfLock, if_neg (Bool.eq_false_iff.mp hdue)]

theorem exec_lossOfLock_of_due (hdue : (s.head h).lossDue = true) : exec (.lossOfLock h) s = .next (endLine h s) := by
  show execLossOfLock h s = _
  rw [execLossOfLock, if_pos hdue]

/-- R77: a line start that loses the lock is due. -/
theorem Head.lineStartDue_of_lossDue (hl : hd.lossDue = true) : hd.lineStartDue = true := by
  unfold Head.lossDue at hl
  split at hl
  · cases hl
  · exact (Bool.and_eq_true_iff.mp hl).1

theorem exec_tagExpiry_of_not_due {t : TagNo} (hno : ¬ (s.tag t).Expires h ∨ (s.head h).lineStartDue = false)
    (hh : (s.tag t).head = h) : exec (.tagExpiry t) s = .next s := by
  subst hh
  have hno' : ¬ ((s.head (s.tag t).head).lineStartDue && (s.tag t).expiresWith (s.tag t).head) = true := fun hdue => by
    obtain ⟨hline, hexpires⟩ := Bool.and_eq_true_iff.mp hdue
    rcases hno with hno | hno
    · exact hno (Tag.expiresWith_iff.mp hexpires)
    · rw [hline] at hno
      cases hno
  show execTagExpiry t s = _
  rw [execTagExpiry, if_neg hno']

/-! ### What is due (R49, R51) -/

/-- R51. -/
theorem Head.activeStartDue_iff (ht : hd.timing = some ts) : hd.activeStartDue = true ↔ hd.state ≠ .stopped ∧
    hd.startPending = false ∧ ActiveLineOf ts hd.line ∧ 1 ≤ ts.activeHeight ∧ hd.pixel + 1 = ts.activeStartPixel := by
  by_cases hraster : hd.state = .stopped ∨ hd.startPending = true
  · rw [Head.activeStartDue, Head.raster_eq_none hraster]
    constructor
    · intro h
      cases h
    · rintro ⟨hs, hp, -⟩
      rcases hraster with e | e
      · exact absurd e hs
      · rw [hp] at e
        cases e
  · obtain ⟨hs, hp⟩ := not_or.mp hraster
    have hp' : hd.startPending = false := Bool.eq_false_iff.mpr hp
    have hactive : ts.isActive hd.line = true ↔ ActiveLineOf ts hd.line ∧ 1 ≤ ts.activeHeight := by
      rw [TimingSet.isActive_iff, ActiveLineOf]
      omega
    simp only [Head.activeStartDue, Head.raster_eq_some hs hp' ht, Bool.and_eq_true, beq_iff_eq, hactive, hs, hp', ne_eq,
      not_false_eq_true, true_and, and_assoc]

/-- R51: only a head with a timing set has an active start. -/
theorem Head.timing_of_activeStartDue (ha : hd.activeStartDue = true) : ∃ ts, hd.timing = some ts := by
  cases ht : hd.timing with
  | some ts => exact ⟨ts, rfl⟩
  | none =>
    rw [Head.activeStartDue, show hd.raster = none by simp [Head.raster, ht]] at ha
    cases ha

/-- R49, R59. -/
theorem Head.lineStartDue_iff (ht : hd.timing = some ts) : hd.lineStartDue = true ↔
    hd.state ≠ .stopped ∧ (hd.startPending = true ∨ hd.pixel + 1 = ts.lineTotal) := by
  simp only [Head.lineStartDue, ht, Bool.and_eq_true, HeadState.running_iff, Bool.or_eq_true, beq_iff_eq]

/-! ### A pixel period -/

theorem exec_pixelPeriod (s : State) (h : HeadId) : exec (.pixelPeriod h) s = .next (takePixelPeriod h s) := rfl

theorem takePixelPeriod_of_stopped (hs : (s.head h).state = .stopped) : takePixelPeriod h s = s := by
  rw [takePixelPeriod, if_neg fun hr => HeadState.running_iff.mp hr hs]

section
variable (hs : (s.head h).state ≠ .stopped)
include hs

theorem takePixelPeriod_of_activeStart (ha : (s.head h).activeStartDue = true) :
    takePixelPeriod h s = takeActiveStart h s := by
  rw [takePixelPeriod, if_pos (HeadState.running_iff.mpr hs), if_pos ha]

theorem takePixelPeriod_of_lineStart (ha : (s.head h).activeStartDue = false) (hl : (s.head h).lineStartDue = true) :
    takePixelPeriod h s = endLine h s := by
  rw [takePixelPeriod, if_pos (HeadState.running_iff.mpr hs), if_neg (Bool.eq_false_iff.mp ha), if_pos hl]

theorem takePixelPeriod_of_neither (ha : (s.head h).activeStartDue = false) (hl : (s.head h).lineStartDue = false) :
    takePixelPeriod h s = s.setHead h
      { (s.head h).advanceAssembler with pixel := (s.head h).advanceAssembler.pixel + 1 } := by
  rw [takePixelPeriod, if_pos (HeadState.running_iff.mpr hs), if_neg (Bool.eq_false_iff.mp ha),
    if_neg (Bool.eq_false_iff.mp hl)]
end

section
variable (hraster : hd.raster = some ts)
include hraster

/-- R126: in an active pixel period the output position of the slot that is shown advances. -/
theorem Head.advanceAssembler_of_active {sh : Showing} (hsh : hd.showing = some sh) (ha : hd.activeHigh = true) :
    hd.advanceAssembler = { hd with showing :=
      if sh.position + 1 < ts.activeWidth then some { sh with position := sh.position + 1 } else none } := by
  simp only [Head.activeHigh, hraster] at ha
  simp only [Head.advanceAssembler, hraster, hsh, ha, if_true]

theorem Head.advanceAssembler_of_inactive (hno : hd.showing = none ∨ hd.activeHigh = false) : hd.advanceAssembler = hd := by
  simp only [Head.activeHigh, hraster] at hno
  unfold Head.advanceAssembler
  rw [hraster]
  cases hsh : hd.showing with
  | none => rfl
  | some sh =>
    have hlow : ¬ (hd.state.displaying && hd.inActivePeriod ts) = true := by
      rw [hsh] at hno
      exact Bool.eq_false_iff.mp (hno.resolve_left nofun)
    dsimp only
    rw [if_neg hlow]
end
end

/-- Settles O29: an event that is not due changes nothing, a pixel period is the event that is due, and else it counts. -/
theorem pixelPeriodsAndLineStarts : Obligations.PixelPeriodsAndLineStarts := by
  intro s h
  have expires_iff {t : TagNo} (hh : (s.tag t).head = h) : (s.tag t).Expires h ↔
      ((s.tag t).state = .active ∨ (s.tag t).state = .stale) ∧ (s.tag t).age = 3 := by
    simp only [Tag.Expires, hh, true_and]
  refine ⟨exec_lineStart_of_not_due, exec_activeStart_of_not_due, fun hl => ?_, exec_lossOfLock_of_not_due,
    fun t hh => ⟨fun he hdue => ?_, fun hno => ?_⟩, fun hs => ?_, fun ts ht => Head.activeStartDue_iff ht, fun ha => ?_,
    fun ts ht hs ha => ⟨fun hend => ?_, fun hp hpixel => ?_⟩⟩
  · rw [exec_lossOfLock_of_due hl, exec_lineStart_of_due (Head.lineStartDue_of_lossDue hl)]
  · rw [exec_tagExpiry hdue ((expires_iff hh).mpr he), exec_lineStart_of_due hdue]
  · rw [← expires_iff hh] at hno
    exact exec_tagExpiry_of_not_due hno hh
  · rw [exec_pixelPeriod, takePixelPeriod_of_stopped hs]
  · obtain ⟨ts, ht⟩ := Head.timing_of_activeStartDue ha
    have hs := ((Head.activeStartDue_iff ht).mp ha).1
    rw [exec_pixelPeriod, takePixelPeriod_of_activeStart hs ha, exec_activeStart ha]
  · have hdue := (Head.lineStartDue_iff ht).mpr ⟨hs, hend⟩
    exact ⟨by rw [exec_pixelPeriod, takePixelPeriod_of_lineStart hs ha hdue, exec_lineStart_of_due hdue], hdue⟩
  · have hno : (s.head h).lineStartDue = false := Bool.eq_false_iff.mpr fun hdue => by
      rcases ((Head.lineStartDue_iff ht).mp hdue).2 with e | e
      · rw [hp] at e
        cases e
      · exact hpixel e
    have hraster := Head.raster_eq_some hs hp ht
    rw [exec_pixelPeriod, takePixelPeriod_of_neither hs ha hno]
    refine ⟨fun sh hsh hhigh => ?_, fun hlow => ?_⟩
    · rw [Head.advanceAssembler_of_active hraster hsh hhigh]
      rfl
    · rw [Head.advanceAssembler_of_inactive hraster hlow]
      rfl

end Sys2Proof.Machine
end

section
/-! O60: what a message of a tenant reaches. -/

namespace Sys2Proof.Machine

/-- From `s` to `u`, of the windows, the clients, the tenants' notice records, RETIRED and the Commit Queues just what is
client `c`'s has changed. -/
structure OwnOnly (c : ClientId) (s u : State) : Prop where
  windows : ∀ w d, (s.window w).owner? = some d → d ≠ c → u.window w = s.window w
  clients : ∀ d, d ≠ c → u.client d = s.client d
  notices : ∀ d, d ≠ c → d ≠ 0 → u.notice d = s.notice d
  retired : ∀ d, d ≠ c → (u.notice d).retired = (s.notice d).retired
  queues  : ∀ h d, d ≠ c → (d ∈ (u.head h).commitQueue ↔ d ∈ (s.head h).commitQueue)

section
variable {c : ClientId} {s u v : State} {w : WindowId}

theorem OwnOnly.refl (c : ClientId) (s : State) : OwnOnly c s s :=
  ⟨fun _ _ _ _ => rfl, fun _ _ => rfl, fun _ _ _ => rfl, fun _ _ => rfl, fun _ _ _ => Iff.rfl⟩

theorem OwnOnly.trans (a : OwnOnly c s u) (b : OwnOnly c u v) : OwnOnly c s v where
  windows w d hd hne := by
    have hw := a.windows w d hd hne
    exact (b.windows w d (hw ▸ hd) hne).trans hw
  clients d hne := (b.clients d hne).trans (a.clients d hne)
  notices d hne h0 := (b.notices d hne h0).trans (a.notices d hne h0)
  retired d hne := (b.retired d hne).trans (a.retired d hne)
  queues h d hne := (b.queues h d hne).trans (a.queues h d hne)

theorem OwnOnly.foldl {α : Type} {f : State → α → State} (hf : ∀ s a, OwnOnly c s (f s a)) (l : List α) (s : State) :
    OwnOnly c s (l.foldl f s) :=
  foldl_keeps_law (P := OwnOnly c s) (fun u a hu => hu.trans (hf u a)) l (.refl c s)

/-! ### The parts of the commands on windows -/

/-- A window of the client's own, or of nobody's. -/
theorem setWindow_ownOnly {x : Window} (hown : ∀ d, (s.window w).owner? = some d → d = c) :
    OwnOnly c s (s.setWindow w x) where
  windows y d hd hne := by
    refine State.window_setWindow_of_ne s ?_ x
    rintro rfl
    exact hne (hown d hd)
  clients _ _ := rfl
  notices _ _ _ := rfl
  retired _ _ := rfl
  queues _ _ _ := Iff.rfl

theorem setClient_ownOnly (k : Client) : OwnOnly c s (s.setClient c k) where
  windows _ _ _ _ := rfl
  clients _ hne := State.client_setClient_of_ne s (Ne.symm hne) k
  notices _ _ _ := rfl
  retired _ _ := rfl
  queues _ _ _ := Iff.rfl

theorem setNotice_ownOnly (r : NoticeRecord) : OwnOnly c s (s.setNotice c r) where
  windows _ _ _ _ := rfl
  clients _ _ := rfl
  notices _ hne _ := by rw [State.notice_setNotice, if_neg (Ne.symm hne)]
  retired _ hne := by rw [State.notice_setNotice, if_neg (Ne.symm hne)]
  queues _ _ _ := Iff.rfl

/-- R144, R45: of the others' notices, an entry to CLOSED reaches client 0's. -/
theorem enterClosed_ownOnly (c : ClientId) (s : State) : OwnOnly c s (enterClosed c s) where
  windows w _ _ _ := enterClosed_window s c w
  clients _ hne := by rw [enterClosed_client, if_neg (Ne.symm hne)]
  notices _ hne h0 := by rw [enterClosed_notice, if_neg h0, if_neg hne]
  retired d hne := by
    rw [enterClosed_notice, if_neg hne]
    split
    · next e => subst e; rw [if_neg (Ne.symm hne)]; rfl
    · rfl
  queues h d hne := by
    rw [enterClosed_head, List.mem_filter]
    simp [hne]

theorem dropHeld_ownOnly (c : ClientId) (s : State) : OwnOnly c s (dropHeld c s) := by
  rcases dropHeld_cases s c with ⟨-, -, e⟩ | ⟨-, e⟩ <;> rw [e]
  · exact (setClient_ownOnly _).trans (enterClosed_ownOnly c _)
  · exact setClient_ownOnly _

theorem Window.owner_of_held {x : Window} {hd : Held} (hh : x.life.held? = some hd) : x.owner? = some hd.owner := by
  rw [Window.owner?, hh]
  rfl

/-- R11: the owner of a window that enters FREE. -/
theorem freeWindow_ownOnly (hown : ∀ d, (s.window w).owner? = some d → d = c) : OwnOnly c s (freeWindow w s) := by
  have hset (x : Window) : OwnOnly c s (s.setWindow w x) := setWindow_ownOnly hown
  rcases freeWindow_cases s w with ⟨-, e⟩ | ⟨hd, hl, e⟩ | ⟨hd, hh, -, e⟩ <;> rw [e]
  · exact .refl c s
  · obtain rfl := hown hd.owner (Window.owner_of_held (by rw [hl]; rfl))
    exact (hset _).trans (dropHeld_ownOnly _ _)
  · obtain rfl := hown hd.owner (Window.owner_of_held hh)
    exact ((hset _).trans (setNotice_ownOnly _)).trans (dropHeld_ownOnly _ _)

theorem processWindow_ownOnly (hown : ∀ d, (s.window w).owner? = some d → d = c) : OwnOnly c s (processWindow w s) := by
  rcases processWindow_cases s w with ⟨hd, -, e⟩ | ⟨hd, img, f, -, -, e⟩ | ⟨hd, img, f, -, -, -, e⟩ |
    ⟨hd, img, f, -, -, -, e⟩ | ⟨-, e⟩ <;> rw [e]
  · exact setWindow_ownOnly hown
  · exact setWindow_ownOnly hown
  · exact setWindow_ownOnly hown
  · exact freeWindow_ownOnly hown
  · exact .refl c s

/-- R35: an apply of the client processes its own windows. -/
theorem applyClient_ownOnly (h : HeadId) (c : ClientId) (s : State) : OwnOnly c s (applyClient h s c) :=
  .foldl (fun s w => by
    split
    · next hp =>
      refine processWindow_ownOnly fun d hd => ?_
      rw [(Window.owner_of_appliedFor hp).1, Option.some.injEq] at hd
      exact hd.symm
    · exact .refl c s) allWindows s

theorem setCommitted_ownOnly (h : HeadId) (c : ClientId) (s : State) : OwnOnly c s (setCommitted h s c) := by
  unfold setCommitted
  split
  · exact .refl c s
  · exact setNotice_ownOnly _

/-- The lists of a head changed, but in the Commit Queue at most the client's own place. -/
theorem setHead_ownOnly {h : HeadId} {hd : Head}
    (hq : ∀ d, d ≠ c → (d ∈ hd.commitQueue ↔ d ∈ (s.head h).commitQueue)) : OwnOnly c s (s.setHead h hd) where
  windows _ _ _ _ := rfl
  clients _ _ := rfl
  notices _ _ _ := rfl
  retired _ _ := rfl
  queues x d hne := by
    rw [State.head_setHead]
    split
    · next e => subst e; exact hq d hne
    · exact Iff.rfl

theorem rebuildDepthList_ownOnly (h : HeadId) (s : State) : OwnOnly c s (rebuildDepthList h s) :=
  setHead_ownOnly (hd := { s.head h with depthList := builtDepthList h s }) fun _ _ => Iff.rfl

theorem applyClients_ownOnly (h : HeadId) (c : ClientId) (s : State) : OwnOnly c s (applyClients h [c] s) := by
  unfold applyClients
  simp only [List.foldl_cons, List.foldl_nil]
  split
  · exact ((applyClient_ownOnly h c s).trans (rebuildDepthList_ownOnly h _)).trans (setCommitted_ownOnly h c _)
  · exact (applyClient_ownOnly h c s).trans (setCommitted_ownOnly h c _)

theorem setStaged_ownOnly {hd : Held} (st : Staged) (hheld : (s.window w).life.held? = some hd) (hown : hd.owner = c) :
    OwnOnly c s (setStaged w st s) := by
  rcases setStaged_cases st hheld with ⟨l, e, -, -⟩ | e <;> rw [e]
  · refine setWindow_ownOnly fun d hd' => ?_
    rw [Window.owner_of_held hheld, Option.some.injEq] at hd'
    exact hd' ▸ hown
  · exact .refl c s

/-! ### The commands of a tenant -/

/-- The commands on windows reach what is the issuer's own, if the issuer is a tenant. -/
theorem TableEffect.ownOnly (h0 : c ≠ 0) (h : TableEffect c s u) : OwnOnly c s u := by
  cases h with
  | reserve w h _ _ hfree =>
    have hset : OwnOnly c s (s.setWindow w { s.window w with life := .reserved ⟨c, h, Staged.fresh⟩ }) :=
      setWindow_ownOnly fun d hd => by
        rw [Window.owner?_of_free hfree] at hd
        cases hd
    exact hset.trans (setClient_ownOnly _)
  | stage w hd st hheld hown => exact setStaged_ownOnly st hheld hown
  | retire w hd hl hown =>
    refine freeWindow_ownOnly fun d hd' => ?_
    rw [Window.owner_of_held (hd := hd) (by rw [hl]; rfl), Option.some.injEq] at hd'
    exact hd' ▸ hown
  | enqueue h =>
    refine setHead_ownOnly fun d hne => ?_
    simp [hne]
  | apply h => exact applyClients_ownOnly h c s
  | openClient _ _ _ _ hc => exact absurd hc h0
  | closeClient _ hc => exact absurd hc h0
  | setAperture _ _ hc => exact absurd hc h0
  | setHeads _ _ hc => exact absurd hc h0

/-- So does any body, and it leaves slots, timers and tags alone. -/
theorem BodyEffect.ownOnly (h0 : c ≠ 0) (h : BodyEffect c s u) : OwnOnly c s u ∧ SameFetch s u := by
  cases h with
  | answer => exact ⟨.refl c s, .refl s⟩
  | table h => exact ⟨h.ownOnly h0, h.sameFetch⟩
  | setTiming _ _ hc => exact absurd hc h0
  | startHead _ _ hc => exact absurd hc h0
  | stopHead _ hc => exact absurd hc h0
  | reclaim hc => exact absurd hc h0
  | clearNotices => exact ⟨setNotice_ownOnly _, setNotice_sameFetch c _⟩
  | setMask => exact ⟨setNotice_ownOnly _, setNotice_sameFetch c _⟩
end

/-- R170: a step with a message command does nothing, or takes the message and answers it. -/
theorem exec_message_effect {s u : State} {i : Instr} {t : Taken} (ht : s.nextMessage = some t)
    (hi : i = .unknownCommandCode ∨ ∃ row, i.commandRow = some row) (h : exec i s = .next u) :
    u = s ∨ ∃ v r, BodyEffect t.client (consume t s) v ∧ u = respond t.client t.message r v := by
  have taken {body : Body} (hb : BodyAnswers body) : ∃ v r, BodyEffect t.client (consume t s) v ∧
      takeMessage t body s = respond t.client t.message r v :=
    ⟨_, _, (hb t.client t.message.args (consume t s)).1, rfl⟩
  rcases hi with rfl | ⟨row, hrow⟩
  · have hu : execUnknownCommandCode s = .next u := h
    rw [execUnknownCommandCode, ht] at hu
    dsimp only at hu
    split at hu <;> cases hu
    · exact .inl rfl
    · exact .inr (taken fun c args s => .refusal _)
  · obtain ⟨body, hb, he⟩ := exec_of_row_answers hrow
    rw [he, engineTake, ht] at h
    dsimp only at h
    split at h <;> cases h
    · exact .inr (taken (checkedLength_answers hb _))
    · exact .inl rfl

/-- Settles O60: the body of the message reaches what is the issuer's own, and taking and answering the message its
channel. -/
theorem tenantMessageReachesOnlyItsOwn : Obligations.TenantMessageReachesOnlyItsOwn := by
  intro s u t i ht h0 hi h
  rcases exec_message_effect ht hi h with rfl | ⟨v, r, heffect, rfl⟩
  · exact ⟨fun _ _ _ _ => rfl, fun _ _ => ⟨rfl, rfl⟩, fun _ _ _ => rfl,
      fun _ => ⟨rfl, rfl, rfl, rfl, fun _ _ => Iff.rfl⟩, fun _ => rfl⟩
  · obtain ⟨hown, hfetch⟩ := heffect.ownOnly h0
    have houtside : KeepsOutside (consume t s) v := heffect.outside.resolve_right fun hc => h0 hc.1
    refine ⟨hown.windows, fun c hc => ⟨hown.clients c hc, ?_⟩, hown.notices, fun x => ?_, hfetch.tags⟩
    · have hanswered : (respond t.client t.message r v).channel c = v.channel c :=
        State.channel_setChannel_of_ne v (Ne.symm hc) _
      have hconsumed : (consume t s).channel c = s.channel c := State.channel_setChannel_of_ne s (Ne.symm hc) _
      rw [hanswered, houtside.channel, hconsumed]
    · obtain ⟨q, l, e⟩ := hfetch.heads x
      have hhead : (respond t.client t.message r v).head x = v.head x := rfl
      have hqueues := hown.queues x
      rw [hhead]
      refine ⟨by rw [e]; rfl, by rw [e]; rfl, by rw [e]; rfl, by rw [e]; rfl, hqueues⟩

end Sys2Proof.Machine
end

section
/-! O16: an apply (R35 to R39), from what it does to one window, one client and the rest. -/

namespace Sys2Proof.Machine

/-! ### The windows (R36, R37) -/

/-- The window enters FREE when an apply of client `c` on head `h` comes to it. -/
abbrev Window.FreedFor (c : ClientId) (h : HeadId) (v : Window) : Prop := v.life.appliedFor c h = true ∧ v.processed = .free

section
variable {h : HeadId} {cs : List ClientId} {s : State} {w : WindowId}

theorem applyClients_refs (h : HeadId) (cs : List ClientId) (s : State) (w : WindowId) :
    ((applyClients h cs s).window w).refs = (s.window w).refs := (applyClients_sameFetch h cs s).refs w

theorem applyClients_life (hcs : cs.Nodup) (w : WindowId) :
    ((applyClients h cs s).window w).life = appliedLife h cs (s.window w) := by
  rw [applyClients_window, foldl_applyClient_life h s hcs]

theorem appliedLife_of_mem {c : ClientId} {v : Window} (hc : c ∈ cs) (ha : v.life.appliedFor c h = true) :
    appliedLife h cs v = v.processed := if_pos (List.any_eq_true.mpr ⟨c, hc, ha⟩)

theorem appliedLife_of_not {v : Window} (ha : ∀ c ∈ cs, v.life.appliedFor c h ≠ true) : appliedLife h cs v = v.life :=
  if_neg fun hany => by
    obtain ⟨c, hc, hfor⟩ := List.any_eq_true.mp hany
    exact ha c hc hfor

/-- R35: a window that is no applied client's RESERVED or LIVE one on the head stays. -/
theorem foldl_applyClient_window_of_not (hcs : cs.Nodup) (ha : ∀ c ∈ cs, (s.window w).life.appliedFor c h ≠ true) :
    (cs.foldl (applyClient h) s).window w = s.window w :=
  Window.ext_fields ((foldl_applyClient_life h s hcs w).trans (appliedLife_of_not ha))
    (foldl_keeps (fun u => (u.window w).refs) (fun u c => applyClient_refs u h c w) cs s)

/-- R35: the windows that an apply of other clients leaves to client `c`. -/
theorem foldl_applyClient_freedFor {c : ClientId} (hcs : cs.Nodup) (hc : c ∉ cs) :
    ((cs.foldl (applyClient h) s).window w).FreedFor c h ↔ (s.window w).FreedFor c h := by
  have hothers (ha : (s.window w).life.appliedFor c h = true) : (cs.foldl (applyClient h) s).window w = s.window w :=
    foldl_applyClient_window_of_not hcs fun d hd hfor => hc (Window.appliedFor_unique ha hfor ▸ hd)
  have hback (ha : ((cs.foldl (applyClient h) s).window w).life.appliedFor c h = true) :
      (s.window w).life.appliedFor c h = true := by
    rw [foldl_applyClient_life h s hcs, appliedLife] at ha
    split at ha
    · exact Window.appliedFor_of_processed ha
    · exact ha
  constructor
  · rintro ⟨ha, hp⟩
    have hsame := hothers (hback ha)
    rw [hsame] at ha hp
    exact ⟨ha, hp⟩
  · rintro ⟨ha, hp⟩
    rw [Window.FreedFor, hothers ha]
    exact ⟨ha, hp⟩

/-! ### The client whose windows enter FREE (R11, R18, R144) -/

section
variable {c : ClientId}

/-- R36: an applied window that does not enter FREE tells its owner nothing. -/
theorem processWindow_of_not_freed (hno : (s.window w).processed ≠ .free) :
    ∃ v, processWindow w s = s.setWindow w v := by
  rcases processWindow_cases s w with ⟨hd, -, e⟩ | ⟨hd, img, f, -, -, e⟩ | ⟨hd, img, f, -, -, -, e⟩ |
    ⟨hd, img, f, hl, hp, hr, -⟩ | ⟨-, e⟩
  · exact ⟨_, e⟩
  · exact ⟨_, e⟩
  · exact ⟨_, e⟩
  · exact absurd (by simp [Window.processed, hl, hp, hr]) hno
  · exact ⟨s.window w, e.trans (State.setWindow_window_self s w).symm⟩

/-- R37, R11: one that does is a fall of its owner's held count, RETIRED set before. -/
theorem processWindow_of_freed (hf : (s.window w).FreedFor c h) :
    ∃ v, processWindow w s = dropHeld c (notify c (.retired w) (s.setWindow w v)) := by
  obtain ⟨ha, hp⟩ := hf
  obtain ⟨hd, rfl, -, hl | ⟨img, f, hl⟩⟩ := Life.appliedFor_iff.mp ha
  · rw [Window.processed, hl] at hp
    cases hp
  · rcases processWindow_cases s w with ⟨hd', hl', -⟩ | ⟨hd', img', f', hl', hr, -⟩ | ⟨hd', img', f', hl', hr, hn, -⟩ |
      ⟨hd', img', f', hl', -, -, e⟩ | ⟨hl' | ⟨hd', img', f', hl'⟩, -⟩ <;> rw [hl] at hl' <;> cases hl'
    · simp [Window.processed, hl, hr] at hp
    · simp [Window.processed, hl, hr, hn] at hp
    · exact ⟨{ s.window w with life := .free }, by rw [e, freeWindow, hl]⟩

theorem dropHeld_retired_counted {v : Window} (hc : (s.client c).state = .closing → 1 < (s.client c).held) :
    (dropHeld c (notify c (.retired w) (s.setWindow w v))).client c = { s.client c with held := (s.client c).held - 1 } ∧
      ((dropHeld c (notify c (.retired w) (s.setWindow w v))).notice c).retired =
        keepFirst (s.notice c).retired (some w) := by
  rcases dropHeld_cases (notify c (.retired w) (s.setWindow w v)) c with ⟨hclosing, hheld, -⟩ | ⟨-, e⟩
  · have hmore := hc hclosing
    have hone : (s.client c).held - 1 = 0 := hheld
    omega
  · rw [e]
    refine ⟨State.client_setClient_self _ _ _, ?_⟩
    rw [State.notice_setClient, notify_notice, if_pos rfl, NoticeRecord.set, firstSubject_eq]
    rfl

theorem dropHeld_retired_closed {v : Window} (hc : (s.client c).state = .closing) (h1 : (s.client c).held = 1) (h0 : c ≠ 0) :
    (dropHeld c (notify c (.retired w) (s.setWindow w v))).client c = Client.closedRecord ∧
      (dropHeld c (notify c (.retired w) (s.setWindow w v))).notice c = NoticeRecord.cleared := by
  rcases dropHeld_cases (notify c (.retired w) (s.setWindow w v)) c with ⟨-, -, e⟩ | ⟨hno, -⟩
  · rw [e, enterClosed_client, if_pos rfl, enterClosed_notice, if_neg h0, if_pos rfl]
    exact ⟨rfl, rfl⟩
  · have hone : (s.client c).held - 1 = 0 := by omega
    exact absurd ⟨hc, hone⟩ hno

/-- What a client is told when the windows `mine` of its enter FREE, in this order, in a step from `s` to `u`: its record
and RETIRED, or, if they are all a CLOSING client holds, the CLOSED record and no notices. -/
structure ToldFreed (c : ClientId) (s u : State) (mine : List WindowId) : Prop where
  counted : (s.client c).state ≠ .closing ∨ mine = [] ∨ mine.length < (s.client c).held →
    u.client c = { s.client c with held := (s.client c).held - mine.length } ∧
      (u.notice c).retired = keepFirst (s.notice c).retired mine.head?
  idle    : c ≠ 0 → mine = [] → u.notice c = s.notice c
  closed  : c ≠ 0 → (s.client c).state = .closing → mine ≠ [] → mine.length = (s.client c).held →
    u.client c = Client.closedRecord ∧ u.notice c = NoticeRecord.cleared

/-- A step leaves the client's record and RETIRED, and a tenant's notice record. -/
structure ToldNothing (c : ClientId) (s u : State) : Prop where
  client  : u.client c = s.client c
  retired : (u.notice c).retired = (s.notice c).retired
  notice  : c ≠ 0 → u.notice c = s.notice c

theorem ToldNothing.toldFreed {u : State} (hu : ToldNothing c s u) : ToldFreed c s u [] where
  counted _ := ⟨hu.client, by rw [hu.retired]; exact (keepFirst_none _).symm⟩
  idle h0 _ := hu.notice h0
  closed _ _ hne := absurd rfl hne

theorem ToldFreed.after {v u : State} {mine : List WindowId} (hu : ToldFreed c v u mine) (hv : ToldNothing c s v) :
    ToldFreed c s u mine where
  counted := by rw [← hv.client, ← hv.retired]; exact hu.counted
  idle h0 hm := (hu.idle h0 hm).trans (hv.notice h0)
  closed := by rw [← hv.client]; exact hu.closed

theorem ToldFreed.before {v u : State} {mine : List WindowId} (hv : ToldFreed c s v mine) (hu : ToldNothing c v u) :
    ToldFreed c s u mine where
  counted := by rw [hu.client, hu.retired]; exact hv.counted
  idle h0 hm := (hu.notice h0).trans (hv.idle h0 hm)
  closed h0 := by rw [hu.client, hu.notice h0]; exact hv.closed h0

/-- One window enters FREE, then more. -/
theorem ToldFreed.cons {x : Window} {u : State} {mine : List WindowId}
    (h : ToldFreed c (dropHeld c (notify c (.retired w) (s.setWindow w x))) u mine) : ToldFreed c s u (w :: mine) where
  counted hc := by
    have hone : (s.client c).state ≠ .closing ∨ mine.length + 1 < (s.client c).held := by
      simpa only [List.length_cons, reduceCtorEq, false_or] using hc
    obtain ⟨hclient, hretired⟩ := dropHeld_retired_counted (w := w) (v := x) fun hclosing =>
      hone.elim (absurd hclosing) fun hmore => (by omega : 1 < (s.client c).held)
    have hrest := h.counted
    rw [hclient, hretired, keepFirst_keepFirst] at hrest
    obtain ⟨hu, hur⟩ := hrest (hone.imp id fun hmore => .inr (Nat.lt_sub_of_add_lt hmore))
    refine ⟨?_, hur⟩
    rw [hu, List.length_cons, Nat.add_comm, ← Nat.sub_sub]
  idle _ hm := nomatch hm
  closed h0 hc _ hall := by
    rw [List.length_cons] at hall
    by_cases hlast : mine = []
    · obtain ⟨hclient, hnotice⟩ := dropHeld_retired_closed (w := w) (v := x) hc (by rw [← hall, hlast]; rfl) h0
      have hclosed : Client.closedRecord.state ≠ .closing := nofun
      obtain ⟨hu, -⟩ := h.counted (.inr (.inl hlast))
      rw [hu, h.idle h0 hlast, hclient, hlast]
      exact ⟨rfl, hnotice⟩
    · have hmore : 0 < mine.length := List.length_pos_iff.mpr hlast
      obtain ⟨hclient, -⟩ := dropHeld_retired_counted (w := w) (v := x) fun _ => (by omega : 1 < (s.client c).held)
      have hrest := h.closed h0
      rw [hclient] at hrest
      exact hrest hc hlast (Nat.eq_sub_of_add_eq hall)

/-- R11, R35: the windows of a list that an apply of the client frees are told in the order of the list. -/
theorem foldl_processWindow_toldFreed {ws : List WindowId} (hws : ws.Nodup) (s : State) : ToldFreed c s
    (ws.foldl (fun s w => if (s.window w).life.appliedFor c h then processWindow w s else s) s)
    (ws.filter fun w => (s.window w).FreedFor c h) := by
  induction ws generalizing s with
  | nil => exact ToldNothing.toldFreed ⟨rfl, rfl, fun _ => rfl⟩
  | cons w ws ih =>
    obtain ⟨hw, hws⟩ := List.nodup_cons.mp hws
    have hrest := ih hws (if (s.window w).life.appliedFor c h then processWindow w s else s)
    have hothers : (ws.filter fun x =>
        ((if (s.window w).life.appliedFor c h then processWindow w s else s).window x).FreedFor c h) =
        ws.filter fun x => (s.window x).FreedFor c h := List.filter_congr fun x hx => by
      split
      · rw [processWindow_window_of_ne s fun (e : w = x) => hw (e ▸ hx)]
      · rfl
    rw [hothers] at hrest
    rw [List.foldl_cons]
    by_cases hf : (s.window w).FreedFor c h
    · rw [List.filter_cons, if_pos (decide_eq_true hf)]
      obtain ⟨v, e⟩ := processWindow_of_freed hf
      rw [if_pos hf.1, e] at hrest ⊢
      exact hrest.cons
    · rw [List.filter_cons, if_neg fun hd => hf (of_decide_eq_true hd)]
      refine hrest.after ?_
      split
      · next ha =>
        obtain ⟨v, e⟩ := processWindow_of_not_freed (s := s) (w := w) fun hp => hf ⟨ha, hp⟩
        rw [e]
        exact ⟨rfl, rfl, fun _ => rfl⟩
      · exact ⟨rfl, rfl, fun _ => rfl⟩

theorem OwnOnly.toldNothing {d : ClientId} {u : State} (hu : OwnOnly d s u) (hne : c ≠ d) : ToldNothing c s u :=
  ⟨hu.clients c hne, hu.retired c hne, hu.notices c hne⟩

theorem ToldNothing.trans {u v : State} (hu : ToldNothing c s u) (hv : ToldNothing c u v) : ToldNothing c s v :=
  ⟨hv.client.trans hu.client, hv.retired.trans hu.retired, fun h0 => (hv.notice h0).trans (hu.notice h0)⟩

/-- R35: the windows that an apply of some clients on a head frees, of one of them. -/
def freedFor (h : HeadId) (cs : List ClientId) (s : State) (c : ClientId) : List WindowId :=
  allWindows.filter fun w => c ∈ cs ∧ (s.window w).FreedFor c h

/-- R35: the apply of other clients tells a client nothing. -/
theorem foldl_applyClient_toldNothing (hc : c ∉ cs) : ToldNothing c s (cs.foldl (applyClient h) s) := by
  induction cs generalizing s with
  | nil => exact ⟨rfl, rfl, fun _ => rfl⟩
  | cons d ds ih =>
    obtain ⟨hne, hds⟩ := not_or.mp (mt List.mem_cons.mpr hc)
    rw [List.foldl_cons]
    exact ((applyClient_ownOnly h d s).toldNothing hne).trans (ih hds)

theorem foldl_applyClient_toldFreed (hcs : cs.Nodup) :
    ToldFreed c s (cs.foldl (applyClient h) s) (freedFor h cs s c) := by
  by_cases hc : c ∈ cs
  · obtain ⟨before, after, rfl⟩ := List.append_of_mem hc
    obtain ⟨hb, ha, hne⟩ := List.nodup_append.mp hcs
    have hbefore : c ∉ before := fun hm => hne c hm c (List.mem_cons_self ..) rfl
    have hafter : c ∉ after := (List.nodup_cons.mp ha).1
    have hmine : freedFor h (before ++ c :: after) s c =
        allWindows.filter fun w => ((before.foldl (applyClient h) s).window w).FreedFor c h :=
      List.filter_congr fun w _ => by
        rw [decide_eq_decide, foldl_applyClient_freedFor hb hbefore]
        exact and_iff_right hc
    rw [List.foldl_append, List.foldl_cons, hmine]
    exact ((foldl_processWindow_toldFreed (List.nodup_finRange 48) _).after (foldl_applyClient_toldNothing hbefore)).before
      (foldl_applyClient_toldNothing hafter)
  · have hnone : freedFor h cs s c = [] := by
      rw [freedFor, List.filter_eq_nil_iff]
      exact fun w _ hw => hc (of_decide_eq_true hw).1
    rw [hnone]
    exact (foldl_applyClient_toldNothing hc).toldFreed
end
end

section
variable (h : HeadId) (s : State)

/-- R11, R35: the windows of a client that an apply frees. -/
theorem freedIn_applyClients {cs : List ClientId} (hcs : cs.Nodup) (c : ClientId) :
    (freedIn s (applyClients h cs s)).filter (fun w => (s.window w).owner? = some c) = freedFor h cs s c := by
  rw [freedIn, List.filter_filter, freedFor]
  refine List.filter_congr fun w _ => ?_
  rw [← Bool.decide_and, decide_eq_decide, applyClients_life hcs]
  constructor
  · rintro ⟨howner, hheld, hfreed⟩
    by_cases ha : ∃ d ∈ cs, (s.window w).life.appliedFor d h = true
    · obtain ⟨d, hd, hfor⟩ := ha
      obtain rfl : d = c := Option.some.inj ((Window.owner_of_appliedFor hfor).1.symm.trans howner)
      exact ⟨hd, hfor, (appliedLife_of_mem hd hfor).symm.trans hfreed⟩
    · rw [appliedLife_of_not fun d hd hfor => ha ⟨d, hd, hfor⟩] at hfreed
      exact absurd hfreed hheld
  · rintro ⟨hc, hfor, hfreed⟩
    refine ⟨(Window.owner_of_appliedFor hfor).1, fun hfree => ?_, (appliedLife_of_mem hc hfor).trans hfreed⟩
    rw [hfree] at hfor
    cases hfor

/-- R18: a client owns the windows of its that an apply frees. -/
theorem freedFor_length_le (cs : List ClientId) (c : ClientId) : (freedFor h cs s c).length ≤ (s.ownedBy c).length :=
  (List.monotone_filter_right _ fun _ hw =>
    decide_eq_true (Window.owner_of_appliedFor (of_decide_eq_true hw).2.1).1).length_le

/-! ### The rest of an apply (R38, R39) -/

theorem setCommitted_retired (c x : ClientId) : ((setCommitted h s c).notice x).retired = (s.notice x).retired := by
  unfold setCommitted
  split
  · rfl
  · rw [notify_notice]
    split
    · next e => subst e; rfl
    · rfl

/-- R39, R144: COMMITTED is for the clients applied, and a CLOSED one has none of it. -/
theorem foldl_setCommitted_notice {cs : List ClientId} {c : ClientId} (hc : c ∉ cs ∨ (s.client c).state = .closed) :
    (cs.foldl (setCommitted h) s).notice c = s.notice c := by
  induction cs generalizing s with
  | nil => rfl
  | cons d ds ih =>
    rw [List.foldl_cons, ih _ (hc.imp (fun hn hm => hn (List.mem_cons_of_mem d hm)) fun hcl => by
      rwa [setCommitted_client])]
    by_cases hdc : d = c
    · subst hdc
      rw [setCommitted, if_pos (hc.resolve_left fun hn => hn (List.mem_cons_self ..))]
    · exact setCommitted_notice_of_ne h s hdc

/-- R38, R39: an apply is the processing of the windows, and then what leaves all records but COMMITTED. -/
theorem applyClients_eq_setCommitted (cs : List ClientId) : ∃ v, applyClients h cs s = cs.foldl (setCommitted h) v ∧
    (∀ c, v.client c = (cs.foldl (applyClient h) s).client c) ∧
      ∀ c, v.notice c = (cs.foldl (applyClient h) s).notice c := by
  refine ⟨_, rfl, fun c => ?_, fun c => ?_⟩ <;> split <;> rfl

/-- R11, R18, R144: what an apply tells the owners of the windows it frees. -/
theorem applyClients_reportsFreed {cs : List ClientId} (hcs : cs.Nodup) :
    ReportsFreed s (applyClients h cs s) (freedIn s (applyClients h cs s)) := by
  rintro c mine rfl
  rw [freedIn_applyClients h s hcs c]
  obtain ⟨v, hv, hclient, hnotice⟩ := applyClients_eq_setCommitted h s cs
  have htold : ToldFreed c s (cs.foldl (applyClient h) s) (freedFor h cs s c) := foldl_applyClient_toldFreed hcs
  have hu : (applyClients h cs s).client c = (cs.foldl (applyClient h) s).client c := (applyClients_lists h cs s).2.1 c
  have hretired : ((applyClients h cs s).notice c).retired = ((cs.foldl (applyClient h) s).notice c).retired := by
    rw [hv, foldl_keeps (fun u => (u.notice c).retired) fun u d => setCommitted_retired h u d c, hnotice]
  have hle := freedFor_length_le h s cs c
  simp only []
  rw [hu, hretired]
  refine ⟨fun hopen => htold.counted (.inl (by rw [hopen]; nofun)), fun hclosing h0 hheld =>
    ⟨fun hsome => ?_, fun hmine hall => ?_⟩⟩
  · exact htold.counted (.inr (hsome.imp_right fun hne => (by omega : (freedFor h cs s c).length < (s.client c).held)))
  · obtain ⟨hclosed, hcleared⟩ := htold.closed h0 hclosing hmine hall
    refine ⟨hclosed, ?_⟩
    rw [hv, foldl_setCommitted_notice h v (.inr (by rw [hclient, hclosed]; rfl)), hnotice, hcleared]

/-- The notice kind of an apply (R39). -/
def committedBlank (_ : ClientId) (r : NoticeRecord) : NoticeRecord := { r with committed := none }

theorem setCommitted_committedPart (c : ClientId) : PartFrame committedBlank h s (setCommitted h s c) := by
  unfold setCommitted
  split
  · exact QuietFrame.refl.toPartFrame
  · exact (notify_quiet committedBlank h s ⟨rfl, rfl, rfl⟩).toPartFrame

theorem applyClients_committedPart (cs : List ClientId) : PartFrame committedBlank h s (applyClients h cs s) := by
  have hlist : ∀ u, PartFrame committedBlank h u (if cs.any (fun c => s.holdsOn c h) then rebuildDepthList h u else u) :=
    fun u => by
      split
      · exact setHead_part committedBlank h u { u.head h with depthList := builtDepthList h u }
      · exact QuietFrame.refl.toPartFrame
  exact (PartFrame.foldl (applyClient h) (fun u c => applyClient_part h u committedBlank c) cs s).trans
    ((hlist _).trans (.foldl (setCommitted h) (fun u c => setCommitted_committedPart h u c) cs _))

/-- R39: COMMITTED of a client that is not applied. -/
theorem applyClients_committed_of_not {cs : List ClientId} {c : ClientId} (hc : c ∉ cs)
    (hopen : (s.client c).state ≠ .closing) : ((applyClients h cs s).notice c).committed = (s.notice c).committed := by
  obtain ⟨v, hv, -, hnotice⟩ := applyClients_eq_setCommitted h s cs
  have hframe : PartFrame (fun _ r => r) h s (cs.foldl (applyClient h) s) :=
    .foldl _ (fun u c => applyClient_part h u _ c) cs s
  rw [hv, foldl_setCommitted_notice h v (.inl hc), hnotice]
  have hkinds := congrArg NoticeRecord.committed (hframe.kinds c hopen)
  exact hkinds

theorem applyClients_committed_of_mem {cs : List ClientId} (hcs : cs.Nodup) {c : ClientId} (hc : c ∈ cs)
    (hopen : ((applyClients h cs s).client c).state ≠ .closed) : ((applyClients h cs s).notice c).committed =
      some (((s.notice c).committed.getD ⟨false, false⟩).add h) := by
  obtain ⟨v, hkept, hv⟩ := applyClients_committed h s cs
  rw [hv, foldl_keeps (fun u => u.client c) fun u d => setCommitted_client h u d c] at hopen
  rw [hv, foldl_setCommitted h v hcs hc hopen, (hkept c hopen).2]

/-- R45: the clients that an apply closes, and just they, leave the Commit Queues. -/
theorem applyClients_queueLeft (cs : List ClientId) (x : HeadId) :
    ((applyClients h cs s).head x).commitQueue = queueLeft s (applyClients h cs s) x := by
  obtain ⟨hqueues, hclients, -⟩ := applyClients_lists h cs s
  have hfollow : QueuesFollow s (cs.foldl (applyClient h) s) := .foldl _ (fun u c => applyClient_queuesFollow h c u) cs s
  have hleft : queueLeft s (applyClients h cs s) x = queueLeft s (cs.foldl (applyClient h) s) x := by
    simp only [queueLeft, Closes, hclients]
  rw [hqueues, hfollow.heads x, hleft]

theorem applyClients_ownHead (cs : List ClientId) : (applyClients h cs s).head h =
    { s.head h with
      depthList := ((applyClients h cs s).head h).depthList, commitQueue := queueLeft s (applyClients h cs s) h } := by
  rw [← applyClients_queueLeft]
  obtain ⟨q, l, e⟩ := applyClients_head h s cs
  rw [e]
end

/-- Settles O16: the windows by the life an apply leaves them, the owners by the order in which their windows enter FREE,
and the rest by the frame of a part of a step about one head. -/
theorem applyProcessesWindows : Obligations.ApplyProcessesWindows := by
  intro s h cs hcs u changes
  have hframe := applyClients_committedPart h s cs
  have hlist := applyClients_depthList h h cs s
  have happlied {w : WindowId} {hd : Held} (hcs : hd.owner ∈ cs) (hh : hd.head = h)
      (hl : (s.window w).life = .reserved hd ∨ ∃ img f, (s.window w).life = .live hd img f) :
      appliedLife h cs (s.window w) = (s.window w).processed :=
    appliedLife_of_mem hcs (Life.appliedFor_iff.mpr ⟨hd, rfl, hh, hl⟩)
  have hchanges : cs.any (s.holdsOn · h) = true ↔ changes := by
    simp only [List.any_eq_true, State.holdsOn_iff, changes]
    exact ⟨fun ⟨c, hc, w, hd, hrest⟩ => ⟨c, w, hd, hc, hrest⟩, fun ⟨c, w, hd, hc, hrest⟩ => ⟨c, hc, w, hd, hrest⟩⟩
  refine ⟨applyClients_refs h cs s, fun w hd ho hh hl => ?_, fun w hd img f ho hh hl => ⟨fun hp => ?_, fun hp => ?_⟩,
    fun w hw => ?_, fun hc => ?_, fun hc => ?_, fun c hc hopen => applyClients_committed_of_mem h s hcs hc hopen,
    fun c hc hopen => applyClients_committed_of_not h s hc hopen, applyClients_reportsFreed h s hcs,
    hframe.noticesKept fun _ _ _ e => e, hframe.side, ?_, hframe.served, hframe.others, applyClients_ownHead h s cs⟩
  · rw [applyClients_life hcs, happlied ho hh (.inl hl), Window.processed_reserved hl]
  · rw [applyClients_life hcs, happlied ho hh (.inr ⟨img, f, hl⟩), Window.processed_live hl, hp, if_neg Bool.false_ne_true]
  · rw [applyClients_life hcs, happlied ho hh (.inr ⟨img, f, hl⟩), Window.processed_live hl, hp, if_pos rfl]
  · refine Window.ext_fields ((applyClients_life hcs w).trans (appliedLife_of_not fun c hc hfor => ?_))
      (applyClients_refs h cs s w)
    obtain ⟨hd, rfl, hh, hl⟩ := Life.appliedFor_iff.mp hfor
    have hheld : (s.window w).life.held? = some hd ∧ (s.window w).life.isRetiring = false := by
      rcases hl with hl | ⟨img, f, hl⟩ <;> rw [hl] <;> exact ⟨rfl, rfl⟩
    rcases hw hd hheld.1 with hno | hno | hno
    · exact hno hc
    · exact hno hh
    · exact Bool.false_ne_true (hheld.2.symm.trans hno)
  · exact hlist.trans (if_pos ⟨rfl, hchanges.mpr hc⟩)
  · exact hlist.trans (if_neg fun hany => hc (hchanges.mp hany.2))
  · exact Vector.ext fun i hi => (applyClients_sameFetch h cs s).tags ⟨i, hi⟩

end Sys2Proof.Machine
end
